-- ==== Sys2Proof/Word.lean ====
section
/-!
DEFINITION. Words of the device and the finite table used wherever the spec names a numbered collection of like
things. All words are little-endian in memory (R9); a table reads a named default wherever nothing has been stored.
-/

namespace Sys2Proof

/-- One byte of memory, a command block or a flit. -/
abbrev Byte := BitVec 8

/-- A 32-bit Hexek word, a lane, or a 32-bit register. -/
abbrev W32 := BitVec 32

/-- A 64-bit register, scalar or control-window word. -/
abbrev Word := BitVec 64

/-- A finite table from numbers to values, kept in strictly rising key order. -/
abbrev Tab (α : Type) := List (Nat × α)

/-- The entry of `k`, or `d` where the table lists none. -/
def Tab.get {α : Type} (d : α) : Tab α → Nat → α
  | [], _ => d
  | (j, v) :: t, k => if j = k then v else Tab.get d t k

/-- The entry of `k`, if the table lists one. -/
def Tab.look {α : Type} : Tab α → Nat → Option α
  | [], _ => none
  | (j, v) :: t, k => if j = k then some v else Tab.look t k

/-- The table with `v` at `k`, in rising key order. -/
def Tab.put {α : Type} : Tab α → Nat → α → Tab α
  | [], k, v => [(k, v)]
  | (j, u) :: t, k, v =>
    if k = j then (j, v) :: t
    else if k < j then (k, v) :: (j, u) :: t
    else (j, u) :: Tab.put t k v

/-- The table without an entry for `k`. -/
def Tab.del {α : Type} (t : Tab α) (k : Nat) : Tab α :=
  t.filter (fun e => e.1 != k)

end Sys2Proof
end

