-- ==== Sys2Proof/Config.lean ====
section
/-!
DEFINITION. What one device fixes and the spec does not: fused values, numbers given to it from outside, and the free
values of the model. None has a body that a proof could see (log 7, 10, 12 to 17, 75, 76, 98).
-/

namespace Sys2Proof

/-- FORM of DEV_ID (R73): true for the DK4-A, false for the DK4-L. Fused (log 14). -/
opaque Config.formA : Bool

/-- STEP of DEV_ID (R73). Fused (log 14). -/
opaque Config.stepping : BitVec 8

/-- This device's chip number, below 8,192 (R2, R229), given to it by the system (log 14). -/
opaque Config.chip : BitVec 13

/-- The security version of the firmware image that runs (R69), by die (log 14). -/
opaque Config.imageSvn : Nat → Word

/-- A result of a special function that the manual leaves open within its bound (R271), by function and operands, since
each returns the same bits for the same input everywhere
(log 7). -/
opaque Config.special : Nat → W32 → W32 → W32

/-- Words and bytes that the manual leaves open, by the counter of free values (log 7, 10, 13, 15). -/
opaque Config.freeWord : Nat → Word

opaque Config.freeByte : Nat → Byte

/-- Credits of each virtual channel of a port direction (R40, log 75). -/
opaque Config.credits : Nat → Nat

/-- Whether flits that come in at one port of this device go on at another in the system's topology: whether the first feeds the second
(R48, R52, log 98). -/
opaque Config.feeds : Nat → Nat → Bool

/-- Whether the host has appointed this device the grandmaster of ground time (R45, log 76). -/
opaque Config.grandmaster : Bool

/-- Bytes of the device's own data in a save record's section of types 6 to 8 (R149), each within its bound (log 10). -/
opaque Config.ownBytes : Nat → Nat

/-- What the CXL component registers hold, by offset (R72, log 17). -/
opaque Config.componentReg : Nat → Word

/-- What an attestation report holds beside the measurements of the firmware and the signature, which the device fixes (R69): the nonce, the
SVN counter, DEV_STATUS, the form, and the HASH of each valid key slot with its number. -/
structure Report where
  nonce : List Word
  svn : Word
  status : Word
  formA : Bool
  keys : List (Nat × BitVec 384)
  deriving DecidableEq, Repr

/-- The bytes of a report, signature and all, by what it holds and the counter of free values (R69, R84, log 13). -/
opaque Config.report : Report → Nat → List Byte

end Sys2Proof
end

