-- ==== Sys2Proof/Syntax.lean ====
section
/-!
DEFINITION. The whole instruction set: one constructor of `Instr` for each row of spec/opcode_table.json. The first
179 are the Hexek words (R288, R292); the other 128 are the device's moves (95_what_each_step_holds.md), whose
constructors name the unit that moves and carry whatever reaches the device from outside with the move.
-/

namespace Sys2Proof

/-! ## Fields of the Hexek words -/

/-- The predicate mode `pd` (R290); code 01 is reserved and no member stands for it. -/
inductive Pred where
  | always | ifTrue | ifFalse
  deriving DecidableEq, Repr

/-- Operand slots (R289). -/
inductive Slot where
  | l | r | p | t
  deriving DecidableEq, Repr

/-- A consumer field (R289): the null target 0x1FF, or a slot of an instruction of the same block. -/
inductive Target where
  | null
  | to (slot : Slot) (index : BitVec 7)
  deriving DecidableEq, Repr

/-- Integer element widths of md[1:0] (R291). -/
inductive IWidth where
  | i32 | i16 | i8 | i64
  deriving DecidableEq, Repr

/-- Integer element widths of the lane group, which has no 64-bit form (R350). -/
inductive LWidth where
  | i32 | i16 | i8
  deriving DecidableEq, Repr

/-- Floating-point element widths of md[1:0] (R291). -/
inductive FWidth where
  | f32 | bf16 | f16
  deriving DecidableEq, Repr

/-- The saturation field md[3:2] (R317). -/
inductive Sat where
  | wrap | sats | satu
  deriving DecidableEq, Repr

/-- The rounding modes that a two-bit field can name (R262, R330, R342). -/
inductive Round4 where
  | rne | rz | rd | ru
  deriving DecidableEq, Repr

/-- Destination formats of CVT, codes 0 to 5 (R339). -/
inductive FloatFmt where
  | f32 | bf16 | f16 | e4m3 | e5m2 | e2m1
  deriving DecidableEq, Repr

/-- Format codes that MMA and MMAT accept (R361). -/
inductive MatFmt where
  | f32 | bf16 | f16 | e4m3 | e5m2 | e2m1 | int8 | uint8
  deriving DecidableEq, Repr

/-- What STRIP clears (R315). -/
inductive StripWhat where
  | both | tag | punct
  deriving DecidableEq, Repr

/-- The element reading of REDADD and SCANADD (R350). -/
inductive SumFmt where
  | flt (w : FWidth)
  | int (w : LWidth)
  deriving DecidableEq, Repr

/-- The element reading of REDMAX and REDMIN (R350). -/
inductive ExtFmt where
  | flt (w : FWidth)
  | sgn (w : LWidth)
  | uns (w : LWidth)
  deriving DecidableEq, Repr

/-- The three forms of VMASK (R355). -/
inductive MaskForm where
  | and | set | join
  deriving DecidableEq, Repr

/-- The three forms of LEXT (R357). -/
inductive LextForm where
  | zero | sign | pair
  deriving DecidableEq, Repr

/-- QBLK's destination, spare choice and block position (R344). -/
inductive QDest where
  | e2m1 (spare : Bool) (block : BitVec 2)
  | e4m3 (block : Bool)
  deriving DecidableEq, Repr

/-- The bank bit of the matrix group (R361). -/
inductive Bank where
  | acc | sacc
  deriving DecidableEq, Repr

/-- The out-ports of a cell (R369). -/
inductive OutPort where
  | down | left | right | edge
  deriving DecidableEq, Repr

/-- The in-ports of a cell (R175, R177). -/
inductive InPort where
  | up | left | right | edge
  deriving DecidableEq, Repr

/-- The four spaces of a memory operation (R110). -/
inductive Space where
  | g | p | w | io
  deriving DecidableEq, Repr

/-- What FEAT delivers (R399). -/
inductive FeatSel where
  | version | devId | chip | live
  deriving DecidableEq, Repr

abbrev Strand := BitVec 3
abbrev SMask := BitVec 8

/-! ## Operands of the device's moves -/

abbrev RingId := Fin 32
abbrev DieId := Fin 8
abbrev CtxId := Fin 64
abbrev StripeId := Fin 16
abbrev ColId := Fin 32
abbrev PortId := Fin 8
abbrev LinkId := Fin 16
abbrev ChanId := Fin 16

/-- An egress queue: a context's, or the device event queue (R79). -/
inductive QueueId where
  | ctx (c : CtxId)
  | dev
  deriving DecidableEq, Repr

/-- The two registers of an egress queue that reset it (R79). -/
inductive EgqReg where
  | base | ctl
  deriving DecidableEq, Repr

/-- The two registers of a task queue that the host writes (R119). -/
inductive TqReg where
  | base | ctl
  deriving DecidableEq, Repr

/-- A write of one of the fields that take effect at the next task start (R106). -/
inductive CtxField where
  | cfg | rings
  deriving DecidableEq, Repr

/-- Direction of a stream port or walker (R201, R203). -/
inductive Dir where
  | inbound | outbound
  deriving DecidableEq, Repr

/-- The TYPE field of a flit (R39). -/
inductive FlitType where
  | data | seal | control | idle
  deriving DecidableEq, Repr

/-- A 256-byte flit, by fields (R39). -/
structure Flit where
  seq : BitVec 12
  vc : BitVec 2
  type : FlitType
  ack : BitVec 12
  nak : Bool
  window : BitVec 16
  dest : BitVec 16
  payload : List Byte
  crc : Word
  deriving DecidableEq, Repr

/-- Where an internal parity or control error arises (R155 code 0x3F, R162). -/
inductive CheckSite where
  | uncore (d : DieId)
  | sequencer (r : RingId)
  | fabric (r : RingId)
  | walker (r : RingId) (dir : Dir) (p : PortId)
  | shuttle (r : RingId) (ch : ChanId)
  deriving DecidableEq, Repr

/-- What the scrubber finds in a sector (R37). -/
inductive SectorHealth where
  | good | correctable | uncorrectable
  deriving DecidableEq, Repr

/-- What has been written to a sector since the scrubber read it: nothing, a part of it, or the whole (R37). -/
inductive SinceRead where
  | nothing | part | whole
  deriving DecidableEq, Repr

/-- A reservation request as it reaches a ring (R229). -/
structure ResvReq where
  chip : BitVec 16
  ring : RingId
  op : Nat
  zone : BitVec 4
  key : BitVec 16
  deriving DecidableEq, Repr

/-- An eyelet beat as it becomes visible at a ring (R231). -/
structure EyeBeat where
  chip : BitVec 16
  ring : RingId
  chan : ChanId
  zone : BitVec 4
  slot : BitVec 6
  gen : BitVec 16
  offset : Nat
  data : BitVec 512
  check : Bool
  reduce : Option (BitVec 8)
  /-- Its data is uncorrectable (R164). -/
  bad : Bool
  deriving DecidableEq, Repr

/-- A checksum verdict as it becomes visible at a ring (R232). -/
structure EyeVerdict where
  chip : BitVec 16
  ring : RingId
  chan : ChanId
  zone : BitVec 4
  slot : BitVec 6
  gen : BitVec 16
  good : Bool
  deriving DecidableEq, Repr

/-- What comes to a ring, with the window that stamps it where another chip has sent it (R48). -/
structure Stamped (α : Type) where
  stamp : Nat
  body : α
  deriving DecidableEq, Repr

/-- A write of a connection-table entry (R26). -/
structure ConnWrite where
  entry : Fin 64
  value : Word
  deriving DecidableEq, Repr

/-- A window pipe, by its source and destination (R238): a die of this device, or another chip. -/
inductive PathEnd where
  | die (d : DieId)
  | chip (n : BitVec 16)
  deriving DecidableEq, Repr

structure Path where
  src : PathEnd
  dst : PathEnd
  deriving DecidableEq, Repr

/-- What bring-up takes from outside the package: the striped share in GiB that firmware sets (R30), each trained port with its
peer (R44), and the route table that the host loads, for each chip its routes in order, each as the ports that it crosses (R52). -/
structure Wiring where
  share : Fin 33
  ports : List (LinkId × BitVec 16 × BitVec 4)
  routes : List (BitVec 16 × List (List (BitVec 16 × LinkId)))
  deriving DecidableEq, Repr

/-- What a sender repeats under R152. -/
inductive RetryKind where
  | request | beat | verdict
  deriving DecidableEq, Repr

/-- The steps of the device, one constructor per row of spec/opcode_table.json. -/
inductive Instr where
  | mov (pd : Pred) (t1 t0 : Target)
  | steer (t1 t0 : Target)
  | merge (t1 t0 : Target)
  | carry (t1 t0 : Target)
  | invar (t1 t0 : Target)
  | gate (pd : Pred) (t1 t0 : Target)
  | sink (pd : Pred)
  | punct (pd : Pred) (eq : Bool) (level : BitVec 3) (t1 t0 : Target)
  | setpn (pd : Pred) (max : Bool) (level : BitVec 3) (t1 t0 : Target)
  | strip (pd : Pred) (what : StripWhat) (t1 t0 : Target)
  | const (imm : BitVec 13) (t0 : Target)
  | lit (index : BitVec 13) (t0 : Target)
  | add (pd : Pred) (sat : Sat) (w : IWidth) (t1 t0 : Target)
  | sub (pd : Pred) (sat : Sat) (w : IWidth) (t1 t0 : Target)
  | addi (pd : Pred) (imm : BitVec 13) (t0 : Target)
  | mul (pd : Pred) (sat : Sat) (w : IWidth) (t1 t0 : Target)
  | mulhs (pd : Pred) (w : IWidth) (t1 t0 : Target)
  | mulhu (pd : Pred) (w : IWidth) (t1 t0 : Target)
  | mad (pd : Pred) (sat : Sat) (w : IWidth) (t1 t0 : Target)
  | neg (pd : Pred) (sats : Bool) (w : IWidth) (t1 t0 : Target)
  | abs (pd : Pred) (sats : Bool) (w : IWidth) (t1 t0 : Target)
  | mins (pd : Pred) (w : IWidth) (t1 t0 : Target)
  | minu (pd : Pred) (w : IWidth) (t1 t0 : Target)
  | maxs (pd : Pred) (w : IWidth) (t1 t0 : Target)
  | maxu (pd : Pred) (w : IWidth) (t1 t0 : Target)
  | divs (pd : Pred) (wide : Bool) (t1 t0 : Target)
  | divu (pd : Pred) (wide : Bool) (t1 t0 : Target)
  | remu (pd : Pred) (wide : Bool) (t1 t0 : Target)
  | and (pd : Pred) (w : IWidth) (t1 t0 : Target)
  | or (pd : Pred) (w : IWidth) (t1 t0 : Target)
  | xor (pd : Pred) (w : IWidth) (t1 t0 : Target)
  | andn (pd : Pred) (w : IWidth) (t1 t0 : Target)
  | not (pd : Pred) (w : IWidth) (t1 t0 : Target)
  | shl (pd : Pred) (w : IWidth) (t1 t0 : Target)
  | shr (pd : Pred) (w : IWidth) (t1 t0 : Target)
  | sar (pd : Pred) (w : IWidth) (t1 t0 : Target)
  | rol (pd : Pred) (w : IWidth) (t1 t0 : Target)
  | shli (pd : Pred) (imm : BitVec 13) (t0 : Target)
  | shri (pd : Pred) (imm : BitVec 13) (t0 : Target)
  | sari (pd : Pred) (imm : BitVec 13) (t0 : Target)
  | clz (pd : Pred) (w : IWidth) (t1 t0 : Target)
  | popc (pd : Pred) (w : IWidth) (t1 t0 : Target)
  | bfx (pd : Pred) (wide : Bool) (t1 t0 : Target)
  | bfi (pd : Pred) (wide : Bool) (t1 t0 : Target)
  | cmpeq (pd : Pred) (w : IWidth) (t1 t0 : Target)
  | cmpne (pd : Pred) (w : IWidth) (t1 t0 : Target)
  | cmplt (pd : Pred) (w : IWidth) (t1 t0 : Target)
  | cmple (pd : Pred) (w : IWidth) (t1 t0 : Target)
  | cmpltu (pd : Pred) (w : IWidth) (t1 t0 : Target)
  | cmpleu (pd : Pred) (w : IWidth) (t1 t0 : Target)
  | cmpeqi (pd : Pred) (imm : BitVec 13) (t0 : Target)
  | cmplti (pd : Pred) (imm : BitVec 13) (t0 : Target)
  | fcmpeq (pd : Pred) (w : FWidth) (t1 t0 : Target)
  | fcmplt (pd : Pred) (w : FWidth) (t1 t0 : Target)
  | fcmple (pd : Pred) (w : FWidth) (t1 t0 : Target)
  | fcmpun (pd : Pred) (w : FWidth) (t1 t0 : Target)
  | sel (pd : Pred) (w : IWidth) (t1 t0 : Target)
  | pand (pd : Pred) (w : IWidth) (t1 t0 : Target)
  | por (pd : Pred) (w : IWidth) (t1 t0 : Target)
  | pnot (pd : Pred) (w : IWidth) (t1 t0 : Target)
  | fadd (pd : Pred) (w : FWidth) (t1 t0 : Target)
  | fsub (pd : Pred) (w : FWidth) (t1 t0 : Target)
  | fmul (pd : Pred) (w : FWidth) (t1 t0 : Target)
  | fma (pd : Pred) (w : FWidth) (t1 t0 : Target)
  | fms (pd : Pred) (w : FWidth) (t1 t0 : Target)
  | fnma (pd : Pred) (w : FWidth) (t1 t0 : Target)
  | fmin (pd : Pred) (w : FWidth) (t1 t0 : Target)
  | fmax (pd : Pred) (w : FWidth) (t1 t0 : Target)
  | fabs (pd : Pred) (w : FWidth) (t1 t0 : Target)
  | fneg (pd : Pred) (w : FWidth) (t1 t0 : Target)
  | fcpys (pd : Pred) (w : FWidth) (t1 t0 : Target)
  | frint (pd : Pred) (mode : Round4) (w : FWidth) (t1 t0 : Target)
  | fscl (pd : Pred) (w : FWidth) (t1 t0 : Target)
  | frcp (pd : Pred) (w : FWidth) (t1 t0 : Target)
  | frsq (pd : Pred) (w : FWidth) (t1 t0 : Target)
  | fsqrt (pd : Pred) (w : FWidth) (t1 t0 : Target)
  | fdiv (pd : Pred) (w : FWidth) (t1 t0 : Target)
  | fexp2 (pd : Pred) (w : FWidth) (t1 t0 : Target)
  | flog2 (pd : Pred) (w : FWidth) (t1 t0 : Target)
  | fsin (pd : Pred) (w : FWidth) (t1 t0 : Target)
  | fcos (pd : Pred) (w : FWidth) (t1 t0 : Target)
  | ftanh (pd : Pred) (w : FWidth) (t1 t0 : Target)
  | fsigm (pd : Pred) (w : FWidth) (t1 t0 : Target)
  | cvt (pd : Pred) (dst : FloatFmt) (t1 t0 : Target)
  | cvtT (pd : Pred) (t1 t0 : Target)
  | cvtfi (pd : Pred) (mode : Round4) (w : FWidth) (t1 t0 : Target)
  | cvtif (pd : Pred) (uns : Bool) (w : FWidth) (t1 t0 : Target)
  | qblk (pd : Pred) (dst : QDest) (t1 t0 : Target)
  | scale (pd : Pred) (part : BitVec 2) (w : FWidth) (t1 t0 : Target)
  | srseed (pd : Pred)
  | shuf (pd : Pred) (t1 t0 : Target)
  | bcast (pd : Pred) (t1 t0 : Target)
  | lrot (pd : Pred) (t1 t0 : Target)
  | redadd (pd : Pred) (fmt : SumFmt) (t1 t0 : Target)
  | redmax (pd : Pred) (fmt : ExtFmt) (t1 t0 : Target)
  | redmin (pd : Pred) (fmt : ExtFmt) (t1 t0 : Target)
  | scanadd (pd : Pred) (fmt : SumFmt) (t1 t0 : Target)
  | pack (pd : Pred) (sat : Sat) (from16 : Bool) (t1 t0 : Target)
  | unpack (pd : Pred) (hi sx from8 : Bool) (t1 t0 : Target)
  | valid (pd : Pred) (t1 t0 : Target)
  | vmask (pd : Pred) (form : MaskForm) (t1 t0 : Target)
  | compact (pd : Pred) (t1 t0 : Target)
  | expand (pd : Pred) (t1 t0 : Target)
  | any (pd : Pred) (t1 t0 : Target)
  | all (pd : Pred) (t1 t0 : Target)
  | lext (pd : Pred) (form : LextForm) (t1 t0 : Target)
  | mma (pd : Pred) (fmt : MatFmt) (t1 t0 : Target)
  | mmat (pd : Pred) (fmt : MatFmt) (t1 t0 : Target)
  | mzero (pd : Pred) (bank : Bank)
  | mdrain (pd : Pred) (bank : Bank) (clear : Bool) (t1 t0 : Target)
  | mload (pd : Pred) (bank : Bank)
  | mswap (pd : Pred)
  | mscale (pd : Pred)
  | mwaddr (pd : Pred) (bank : Bank)
  | out (pd : Pred) (port : OutPort) (chan : BitVec 5)
  | crd (reg : BitVec 4) (t1 t0 : Target)
  | cwr (reg : BitVec 4) (t1 t0 : Target)
  | prd (reg : BitVec 2) (t1 t0 : Target)
  | pwr (reg : BitVec 2) (t1 t0 : Target)
  | fbits (pd : Pred) (k : BitVec 3) (t1 t0 : Target)
  | fget (pd : Pred) (k : BitVec 3) (t1 t0 : Target)
  | br (pd : Pred) (offset : BitVec 22)
  | call (pd : Pred) (offset : BitVec 22)
  | ret (pd : Pred)
  | read (reg : BitVec 6) (t1 t0 : Target)
  | readv (reg : BitVec 3) (t1 t0 : Target)
  | write (reg : BitVec 6)
  | yield (pd : Pred) (entry : BitVec 13)
  | fork (pd : Pred) (handle : BitVec 2) (sn : Strand) (m : SMask)
  | rdv (pd : Pred) (handle : BitVec 2) (t0 : Target)
  | trap (pd : Pred) (code : BitVec 13)
  | eret (pd : Pred)
  | brk (pd : Pred) (code : BitVec 7)
  | wait (pd : Pred) (cycles : BitVec 13) (t0 : Target)
  | done (pd : Pred)
  | ld8 (pd : Pred) (sp : Space) (sn : Strand) (m : SMask) (t0 : Target)
  | ld16 (pd : Pred) (sp : Space) (sn : Strand) (m : SMask) (t0 : Target)
  | ld32 (pd : Pred) (sp : Space) (sn : Strand) (m : SMask) (t0 : Target)
  | ld64 (pd : Pred) (sp : Space) (sn : Strand) (m : SMask) (t0 : Target)
  | ldt (pd : Pred) (sp : Space) (sn : Strand) (m : SMask) (t0 : Target)
  | ldx64 (pd : Pred) (sp : Space) (sn : Strand) (m : SMask) (t0 : Target)
  | st8 (pd : Pred) (sp : Space) (sn : Strand) (m : SMask)
  | st16 (pd : Pred) (sp : Space) (sn : Strand) (m : SMask)
  | st32 (pd : Pred) (sp : Space) (sn : Strand) (m : SMask)
  | st64 (pd : Pred) (sp : Space) (sn : Strand) (m : SMask)
  | stt (pd : Pred) (sp : Space) (sn : Strand) (m : SMask)
  | pref (pd : Pred) (sn : Strand) (m : SMask)
  | aadd (pd : Pred) (sp : Space) (sn : Strand) (m : SMask) (t0 : Target)
  | amin (pd : Pred) (sp : Space) (sn : Strand) (m : SMask) (t0 : Target)
  | amax (pd : Pred) (sp : Space) (sn : Strand) (m : SMask) (t0 : Target)
  | aminu (pd : Pred) (sp : Space) (sn : Strand) (m : SMask) (t0 : Target)
  | amaxu (pd : Pred) (sp : Space) (sn : Strand) (m : SMask) (t0 : Target)
  | aand (pd : Pred) (sp : Space) (sn : Strand) (m : SMask) (t0 : Target)
  | aor (pd : Pred) (sp : Space) (sn : Strand) (m : SMask) (t0 : Target)
  | axor (pd : Pred) (sp : Space) (sn : Strand) (m : SMask) (t0 : Target)
  | axchg (pd : Pred) (sp : Space) (sn : Strand) (m : SMask) (t0 : Target)
  | acas (pd : Pred) (sp : Space) (sn : Strand) (m : SMask) (t0 : Target)
  | afadd (pd : Pred) (sp : Space) (sn : Strand) (m : SMask) (t0 : Target)
  | afmax (pd : Pred) (sp : Space) (sn : Strand) (m : SMask) (t0 : Target)
  | kinit (pd : Pred) (sn : Strand) (m : SMask)
  | kadd (pd : Pred) (sn : Strand) (m : SMask)
  | kwait (pd : Pred) (trapErr : Bool) (sn : Strand) (m : SMask) (t0 : Target)
  | ktry (pd : Pred) (trapErr : Bool) (sn : Strand) (m : SMask) (t0 : Target)
  | kread (pd : Pred) (sn : Strand) (m : SMask) (t0 : Target)
  | lzresv (pd : Pred) (sn : Strand) (m : SMask) (t0 : Target)
  | lzresvDeclare (pd : Pred) (sn : Strand) (m : SMask)
  | lzrel (pd : Pred) (sn : Strand) (m : SMask)
  | lzrelRetire (pd : Pred) (sn : Strand) (m : SMask)
  | lzstat (pd : Pred) (sn : Strand) (m : SMask) (t0 : Target)
  | lzstatZone (pd : Pred) (sn : Strand) (m : SMask) (t0 : Target)
  | enq (pd : Pred) (sn : Strand) (m : SMask) (t0 : Target)
  | ingr (pd : Pred) (sn : Strand) (m : SMask) (t0 : Target)
  | egr (pd : Pred) (sn : Strand) (m : SMask)
  | sysr (pd : Pred) (index : BitVec 13) (t0 : Target)
  | sysw (pd : Pred) (index : BitVec 13)
  | gtime (pd : Pred) (t0 : Target)
  | feat (pd : Pred) (sel : FeatSel) (t0 : Target)
  | perf (pd : Pred) (counter : BitVec 3) (t0 : Target)
  | tlbinv (pd : Pred) (sn : Strand) (m : SMask)
  | ingressWrite (off : Nat) (data : List Byte)
  | cxlMemRead (pa n : Nat)
  | cxlMemWrite (pa : Nat) (data : List Byte)
  | egqConfigWrite (q : QueueId) (reg : EgqReg) (v : Word)
  | egqConsWrite (q : QueueId) (v : Word)
  | egressRecordVisible (q : QueueId)
  | registerWrite (off : Nat) (v : Word)
  | keySlotWrite (k : Fin 16) (off : Nat) (v : Word)
  | fuseSvnWrite (v : Word)
  | attestGo
  | attestDone
  | captureEnable (on : Bool)
  | replayGo (c : CtxId)
  | replayRecord
  | contextEnable (c : CtxId)
  | contextTeardown (c : CtxId)
  | teardownComplete (c : CtxId)
  | ctxConfigWrite (c : CtxId) (f : CtxField) (v : Word)
  | ctxTouchedWrite (c : CtxId) (v : Word)
  | taskQueueConfig (c : CtxId) (q : Fin 4) (reg : TqReg) (v : Word)
  | shootdownGo (c : CtxId)
  | shootdownPoint (r : RingId) (c : CtxId)
  | resumeGo (c : CtxId)
  | circuitRequest (n : Fin 64) (v : Word)
  | circuitTeardown (w : ConnWrite)
  | tuningComplete (n : Fin 64)
  | tuningFail (n : Fin 64)
  | circuitDrained (n : Fin 64)
  | circuitFault (n : Fin 64)
  | dieCoreReset (d : DieId)
  | dieUncoreReset (d : DieId)
  | coreResetDone (d : DieId)
  | uncoreResetDone (d : DieId) (verified : Bool)
  | flitReceive (p : LinkId) (f : Flit) (bad : BitVec 64)
  | wavelengthFail (p : LinkId) (w : Fin 16)
  | portNarrowDone (p : LinkId)
  | portLostNotice (chip : BitVec 16) (p : LinkId)
  | ptpSync (p : LinkId) (seq : BitVec 16) (arrived : Word)
  | ptpFollowUp (p : LinkId) (seq : BitVec 16) (origin correction : Word)
  | ptpPdelayReq (p : LinkId) (seq : BitVec 16) (arrived : Word)
  | ptpPdelayResp (p : LinkId) (seq : BitVec 16) (requestArrived arrived : Word)
  | ptpPdelayRespFollowUp (p : LinkId) (seq : BitVec 16) (responseSent : Word)
  | announce (p : LinkId) (exponent : BitVec 4)
  | windowBoundary (d : DieId)
  | sealReceive (path : Path) (vc : BitVec 2) (window : Nat)
  | sealLate (path : Path)
  | lateSealNotice (path : Path) (window : Nat)
  | sealTimeout (path : Path)
  | visibilityAck (r : RingId) (op : Nat) (ack : Stamped (Option (BitVec 6)))
  | orderModeWrite (v : Word)
  | flushMarkerReceive (path : Path)
  | orderModeSwitch
  | groundWindowWrite (v : Word)
  | pstateCommand (r : RingId) (v : Word)
  | pstateTransitionDone (r : RingId)
  | ceilWrite (v : Word)
  | powerMeasure (watts : BitVec 16)
  | dutyRelief
  | diePark (d : DieId)
  | dieUnpark (d : DieId)
  | parkDone (d : DieId)
  | unparkDone (d : DieId)
  | thermAllowUpdate (d : DieId) (ringTj : List Nat) (tj hbm : BitVec 8)
  | hbmRefreshDouble (d : DieId) (hbm : BitVec 8)
  | hbmRefreshNormal (d : DieId) (hbm : BitVec 8)
  | refreshHoldEnd (d : DieId)
  | thermalStop (d : DieId) (tj hbm : BitVec 8)
  | tstopClear (d : DieId)
  | powerGood
  | bootPhaseDone (passed : BitVec 8) (w : Wiring)
  | dieAuthTimeout (d : DieId)
  | launchConsume (c : CtxId) (q : Fin 4)
  | placement (d : DieId)
  | prefetchComplete (r : RingId) (j : Fin 4)
  | taskStart (r : RingId)
  | recordComplete (c : CtxId) (rec : Nat)
  | priorityAging (c : CtxId) (rec : Nat)
  | migration (r : RingId)
  | gangStart (r : RingId)
  | heartbeatTimeout (d : DieId)
  | machineCheck (site : CheckSite)
  | sliceEnd (r : RingId)
  | forcedSave (r : RingId)
  | yieldSave (r : RingId)
  | saveComplete (r : RingId)
  | restore (r : RingId) (c : CtxId)
  | eyeletRetry (r : RingId) (kind : RetryKind)
  | haltNotice (gang : Word)
  | containedRecovery (c : CtxId)
  | scrub (sector : Nat) (health : SectorHealth) (since : SinceRead)
  | blockFetch (r : RingId)
  | blockCommit (r : RingId)
  | deferredValueLand (r : RingId) (reg : BitVec 6)
  | ingrTake (r : RingId) (op : Nat)
  | forkAccept (r : RingId) (op : Nat)
  | forkComplete (r : RingId) (h : Fin 4)
  | tokenInlet (r : RingId) (p : StripeId) (j : ColId) (port : InPort)
  | multicastTake (r : RingId) (port : PortId)
  | runEnd (r : RingId) (p : StripeId)
  | reconfigure (r : RingId)
  | shadowFillStart (r : RingId) (p : StripeId)
  | shadowFillDone (r : RingId) (p : StripeId)
  | shadowDrainDone (r : RingId) (p : StripeId)
  | markerHandle (r : RingId) (p : StripeId)
  | rollbackRestart (r : RingId)
  | fabricFinish (r : RingId)
  | fabricStall (r : RingId)
  | walkerToken (r : RingId) (port : PortId)
  | periodMarker (r : RingId)
  | walkerWrite (r : RingId) (port : PortId)
  | walkerComplete (r : RingId) (dir : Dir) (port : PortId)
  | shuttleStart (r : RingId) (op : Nat)
  | shuttleCommandRead (r : RingId) (ch : ChanId)
  | shuttleBeat (r : RingId) (ch : ChanId)
  | shuttleCommandComplete (r : RingId) (ch : ChanId)
  | copyComplete (r : RingId) (ch : ChanId)
  | reservationRequest (r : RingId) (req : Stamped ResvReq)
  | reservationResult (r : RingId) (op : Nat) (res : Stamped Word)
  | eyeletBeat (r : RingId) (beat : Stamped EyeBeat)
  | checksumVerdict (r : RingId) (verdict : Stamped EyeVerdict)
  | reservationTimeout (r : RingId) (zone : Fin 16) (slot : Fin 64)
  | pipeEnter (r : RingId) (op : Nat)
  | operationPerform (r : RingId) (op : Nat)
  | strandErrorTimeout (r : RingId) (op : Nat)
  | translationWalkDone (r : RingId) (miss : Nat)
  | bypassForward (r : RingId) (p : StripeId) (j : ColId)
  | snapshotWritten (r : RingId) (p : StripeId)
  | portDirectFeed (r : RingId) (port : PortId)
  deriving DecidableEq, Repr

end Sys2Proof
end

