-- ==== Sys2Proof/Machine/Value.lean ====
section
/-!
DEFINITION. The values that instructions read and write: tokens with their format tags (R13, R261), the two kinds of
value of the sequencer (R295), and what travels on a link of the fabric (R175, R186, R206).
-/

namespace Sys2Proof.Machine

/-- A format tag: the channel-table fields a token carries (R177, R261). Its sideband is the token's own. -/
structure Tag where
  fmt : BitVec 4 := 0
  bscale : Bool := false
  spare : Bool := false
  flush : Bool := false
  tscale : BitVec 3 := 0
  deriving DecidableEq, Repr

/-- A token: 16 lanes of 32 bits with valid bits, channel, punctuation and sideband (R2, R13), and its tag if any. -/
structure Tok where
  data : BitVec 512 := 0
  valid : BitVec 16 := 0
  punct : BitVec 3 := 0
  chan : BitVec 5 := 0
  side : Word := 0
  tag : Option Tag := none
  deriving DecidableEq, Repr

/-- A value of the sequencer, scalar or token (R295); a cell's values are tokens. -/
inductive Val where
  | sc (x : Word)
  | tok (t : Tok)
  deriving DecidableEq, Repr

/-- What stands in a link FIFO, wrap buffer or port: a token, a run boundary (R186) or period marker `w` (R206). -/
inductive Entry where
  | tok (t : Tok)
  | boundary
  | marker (w : Nat)
  deriving DecidableEq, Repr

/-- Lane `i` of a token (R2). -/
def Tok.lane (t : Tok) (i : Nat) : W32 := t.data.extractLsb' (32 * i) 32

/-- Valid bit `i` of a token. -/
def Tok.ok (t : Tok) (i : Nat) : Bool := t.valid.getLsbD i

/-- 512 bits from a value for each lane, lane 0 lowest. -/
def lanesOf (f : Nat → W32) : BitVec 512 :=
  BitVec.ofNat 512 ((List.range 16).foldr (fun i n => (f i).toNat + 2 ^ 32 * n) 0)

/-- 16 valid bits from a truth value for each lane. -/
def validsOf (f : Nat → Bool) : BitVec 16 :=
  BitVec.ofNat 16 ((List.range 16).foldr (fun i n => (f i).toNat + 2 * n) 0)

/-- A token's data with zero in every invalid lane (R303, R349). -/
def zeroInvalid (v : BitVec 16) (f : Nat → W32) : BitVec 512 :=
  lanesOf fun i => if v.getLsbD i then f i else 0

/-- An untagged token with zero sideband and channel (R303, R349). -/
def Tok.mk' (f : Nat → W32) (v : BitVec 16) (punct : BitVec 3) : Tok :=
  { data := zeroInvalid v f, valid := v, punct := punct }

/-- A token with a value in lane 0 alone, as predicates and masks are (R314, R355, R357). -/
def Tok.lane0 (x : W32) (punct : BitVec 3) : Tok :=
  { data := x.setWidth 512, valid := 1, punct := punct }

/-- A token with one value in every lane, all valid (R316, R352). -/
def Tok.splat (x : W32) (punct : BitVec 3) : Tok :=
  { data := lanesOf fun _ => x, valid := 0xFFFF, punct := punct }

/-- Lane 0 of a token where it is valid (R349). -/
def Tok.ctl? (t : Tok) : Option W32 := if t.ok 0 then some (t.lane 0) else none

/-- The truth of a predicate value (R290). -/
def Val.truth : Val → Bool
  | .sc x => x.getLsbD 0
  | .tok t => t.ok 0 && (t.lane 0).getLsbD 0

/-- The larger punctuation (R303). -/
def maxPunct (a b : BitVec 3) : BitVec 3 := if a < b then b else a

/-- A seed of the stochastic-rounding LFSR: zero loads 1 (R264). -/
def seedOf (x : W32) : W32 := if x = 0 then 1 else x

/-- The bytes of a bit vector, lowest first (R9). -/
def bytesLE (n : Nat) (x : Nat) : List Byte := (List.range n).map fun i => BitVec.ofNat 8 (x / 256 ^ i)

/-- The number that bytes hold, lowest first (R9). -/
def natLE : List Byte → Nat
  | [] => 0
  | b :: t => b.toNat + 256 * natLE t

end Sys2Proof.Machine
end

