-- ==== Sys2Proof/Machine/State.lean ====
section
/-!
DEFINITION. Everything the spec gives the device to hold, as plain data, and its value right after reset. Every field's
default value is its reset value; where the spec states none, log entry 4 names it. INVENTORY.md lists each with its rule.
-/

namespace Sys2Proof.Machine

/-! ## Memory -/

/-- Bytes by address, rising, none equal to what an unlisted address reads as. -/
abbrev Memory := List Host.Cell

/-! ## The sequencer -/

/-- A value in an operand slot; a sticky one stays when its consumer fires (R180). -/
structure SlotVal where
  v : Val
  sticky : Bool := false
  /-- Ring cycle from which the slot holds it (R374). -/
  at' : Nat := 0
  deriving DecidableEq, Repr

/-- The operand slots of one instruction of a block, with what its firing has left (R178, R180, R299, R310). -/
structure Node where
  l : Option SlotVal := none
  r : Option SlotVal := none
  p : Option SlotVal := none
  t : Option SlotVal := none
  /-- CARRY's preloaded false predicate (R310). -/
  pre : Bool := false
  fired : Bool := false
  /-- Settled without firing (R299). -/
  dead : Bool := false
  deriving DecidableEq, Repr

/-- Where the byte of an access lives (R238). -/
inductive Home where
  | pool
  | slice
  | die (d : DieId)
  | host
  deriving DecidableEq, Repr

/-- One checked and translated access (R388): `key` is its first byte's place in the memory. -/
structure Acc where
  space : Space
  va : Word
  key : Nat
  n : Nat
  home : Home
  deriving DecidableEq, Repr

/-- The twelve atomics (R391). -/
inductive AtomKind where
  | add | min | max | minu | maxu | and | or | xor | xchg | cas | fadd | fmax
  deriving DecidableEq, Repr

/-- What an operation of the ordering machine does when it performs (R239). -/
inductive Work where
  | load (a : Acc) (node : Nat) (t0 : Target)
  | kread (k : BitVec 6) (node : Nat) (t0 : Target)
  | lzstat (zone : BitVec 4) (slot : Option (BitVec 6)) (node : Nat) (t0 : Target)
  | store (a : Acc) (data : BitVec 512) (lanes : BitVec 16)
  | aperture (ch : ChanId) (word : Word)
  | atomic (kind : AtomKind) (a : Acc) (b c : Word)
  | fork (h : BitVec 2) (image : Word)
  | kinit (k : BitVec 6) (value target : Word)
  | kadd (k : BitVec 6) (n : W32)
  | kwait (k : BitVec 6) (trapErr : Bool) (operand : Word)
  | ktry (k : BitVec 6) (trapErr : Bool) (operand : Word)
  | resv (target key : Word)
  | declare (word : Word)
  | release (zone : BitVec 4) (slot : BitVec 6) (full : Bool)
  | retire (zone : BitVec 4)
  | enq (a : Acc) (q : BitVec 2)
  | ingr (ch : BitVec 4)
  | egr (t : Tok) (info : Word)
  | tlbinv (va : Word) (size : BitVec 2)
  | pref (va : Word) (len : Nat) (trans : Bool)
  -- commit items that name no strand
  | write (reg : BitVec 6) (v : Val)
  | sysw (index : BitVec 13) (v : Word)
  | eret
  | yield (entry : BitVec 13)
  deriving DecidableEq, Repr

/-- A commit item as its instruction fired (R240, R378); `ret` is the deferred WRITE that its result feeds, by its index
and register, and none when its t0 is null (R379). -/
structure Item where
  idx : Nat
  strand : Option (Strand × SMask)
  work : Work
  ret : Option (Nat × BitVec 6) := none
  deriving DecidableEq, Repr

/-- How far an issued operation has come (R245 to R248). -/
inductive Stage where
  | queued
  /-- In a window pipe, stamped (R246). -/
  | piped (window : Nat)
  /-- Visible at its destination, acknowledgement on the way (R246, R247). -/
  | landed
  /-- Flush round started, and completed (R247). -/
  | flushing
  | flushed
  /-- Its data is uncorrectable, or it was bound for a lost die or over a lost path; it never performs (R164, R254). -/
  | failed
  /-- An engine start that has been accepted (R248). -/
  | started
  /-- A request sent to another ring (R229). -/
  | sent
  deriving DecidableEq, Repr

/-- An operation that has issued and not performed, with its snapshot (R241). -/
structure Op where
  id : Nat
  strand : Strand
  mask : SMask
  excl : Bool
  snap : List Nat
  work : Work
  committed : Bool
  stage : Stage := .queued
  /-- Register that a deferred WRITE marked for its result; none when its t0 was null (R379). -/
  ret : Option (BitVec 6) := none
  /-- Counted cycle of the last progress (R244), and the ring's cycle since which the count stands still while its context is halted and its task no
  longer runs there. -/
  since : Nat := 0
  heldAt : Option Nat := none
  /-- Ground time of its issue, by which INGRs of a context take their turns (R395). -/
  issuedAt : Nat := 0
  ctx : CtxId := 0
  /-- The old value that an atomic has read at its home, while its acknowledgement is on the way (R247). -/
  value : Option Word := none
  /-- Its task has ended: it counts in no strand counter of the ring's next task (R135). -/
  old : Bool := false
  /-- Whether ORDER_MODE selected flush mode when its snapshot emptied; none until then (R254). -/
  mode : Option Bool := none
  deriving DecidableEq, Repr

/-- An amount that a KWAIT or KTRY takes when the knot instructions of its block below it have taken effect (R393). -/
structure Owed where
  awaits : List Nat
  knot : BitVec 6
  amount : W32
  deriving DecidableEq, Repr

/-- The exit of an atomic block once it has fired (R380). -/
inductive Exit where
  | to (a : Word)
  | call (a ret : Word)
  | ret (a : Word)
  | done
  deriving DecidableEq, Repr

/-- Firings of a unit in one cycle, by kind (R179, R299). -/
structure Fires where
  at' : Nat := 0
  count : Tab Nat := []
  deriving DecidableEq, Repr

/-- An atomic block that has been fetched and checked (R285, R299). -/
structure Blk where
  addr : Word
  words : List W32
  pool : List W32 := []
  nodes : Tab Node := []
  items : List Item := []
  exit : Option Exit := none
  /-- The first ring cycle in which its words may fire: the one after it was fetched and checked (R299, R300, R386). -/
  since : Nat := 0
  /-- Ring cycle in which it could first commit, where a KWAIT of it traps on error: it commits after that cycle (R237). -/
  due : Option Nat := none
  /-- Strands of the value-returning operations that the block has issued (R243). -/
  vops : List Strand := []
  /-- Handles freed by an RDV of this block (R383). -/
  freed : List (BitVec 2) := []
  /-- Words that have fired in a cycle, FM words apart (R299). -/
  fires : Fires := {}
  deriving DecidableEq, Repr

/-- A v register: 64 data bytes and 16 valid bits (R381), and the sideband that a token brings into it (R345), which no instruction reads (log 23). -/
structure VReg where
  data : BitVec 512 := 0
  valid : BitVec 16 := 0xFFFF
  side : Word := 0
  deriving DecidableEq, Repr

/-- A fork handle (R383, R385): the fork it names, or a completed one with the cycles that it took. -/
inductive Handle where
  | free
  | outstanding (op : Nat)
  | complete (op cycles : Nat)
  deriving DecidableEq, Repr

/-- A slice and its request for pre-emption (R141, R142). -/
structure Slice where
  start : Nat := 0
  len : Nat := 0
  req : Bool := false
  /-- REMAIN, as it stood at cycle `remainAt`; with none it stands still (R142). -/
  remain : Nat := 0
  remainAt : Option Nat := none
  raised : Bool := false
  deriving DecidableEq, Repr

/-- The performance registers (R398). -/
structure Perf where
  step : Bool := false
  enable : Bool := false
  event : Tab (BitVec 8) := []
  waddr : Tab (BitVec 51) := []
  count : Tab Word := []
  deriving DecidableEq, Repr

/-- What a save takes from its live-range table (R144): where the record goes and how long it may be, and what is live. -/
structure Live where
  saveVa : Word
  saveBytes : Nat
  xmask : BitVec 64
  vmask : BitVec 8
  kmask : BitVec 64
  /-- First 4 KiB unit and count of units. -/
  ranges : List (Nat × Nat)
  deriving DecidableEq, Repr

/-- The ring sequencer's own state (R13, R381, R396). -/
structure Seqr where
  x : Tab Word := []
  v : Tab VReg := []
  pc : Word := 0
  blk : Option Blk := none
  stack : List Word := []
  /-- Registers that wait for a deferred value, with the operation that brings it (R379). -/
  pending : Tab Nat := []
  /-- Deferred values that have become available and not landed (R379). -/
  landing : Tab Word := []
  priv : Bool := false
  handles : Tab Handle := []
  issued : Tab (BitVec 16) := []
  done : Tab (BitVec 16) := []
  ops : List Op := []
  nextOp : Nat := 0
  owed : List Owed := []
  poolPart : BitVec 16 := 0
  perf : Perf := {}
  /-- A single-step trap that waits for a restore (R401). -/
  stepDue : Bool := false
  /-- A DONE has committed in a block whose FORK is not complete (log 70). -/
  ending : Bool := false
  /-- The live-range entry of a YIELD that has committed under REQ (R143). -/
  yielded : Option (BitVec 13) := none
  /-- What the table held when the checkpoint was reached (R145); none until it has been read. -/
  live : Option Live := none
  deriving DecidableEq, Repr

/-! ## Knots and eyelets -/

/-- A knot (R219). -/
structure Knot where
  count : W32 := 0
  phase : Bool := false
  error : Bool := false
  mode : Bool := false
  target : W32 := 0
  deriving DecidableEq, Repr

/-- The state of a slot (R228). -/
inductive SlotState where
  | free | reserved | full | torn
  deriving DecidableEq, Repr

/-- One slot of an eyelet zone (R228, R232). -/
structure EyeSlot where
  gen : BitVec 16 := 0
  state : SlotState := .free
  holder : BitVec 16 := 0
  arrived : Nat := 0
  /-- Ring cycle in which the timer last started (R234). -/
  timer : Nat := 0
  /-- A checksum-copy beat has arrived, so a verdict is awaited (R232). -/
  awaits : Bool := false
  /-- A good verdict has arrived before the last beat (R237). -/
  good : Bool := false
  deriving DecidableEq, Repr

/-- One of a ring's 16 zone entries (R225, R227). -/
structure Zone where
  owner : Option CtxId := none
  log2sz : BitVec 4 := 0
  nslot : BitVec 6 := 0
  knot : BitVec 6 := 0
  tout : BitVec 5 := 0
  base : BitVec 12 := 0
  key : BitVec 16 := 0
  slots : Tab EyeSlot := []
  deriving DecidableEq, Repr

/-! ## Forks, the fabric and its engines -/

/-- The pattern header (R181). -/
structure PatHdr where
  v : Nat
  q : Nat
  d : Nat
  runlvl : Nat
  period : Bool
  nseg : Nat
  nclause : Nat
  wrap : Nat
  sect : Word
  deriving DecidableEq, Repr

/-- A clause (R166, R169, R170). -/
structure Clause where
  first : Nat
  last : Nat
  inRate : Nat
  outRate : Nat
  /-- Data tokens in and out since the last marker at each end, and the counts in that wait for the marker at the other. -/
  tokIn : Nat := 0
  tokOut : Nat := 0
  counted : List Nat := []
  errors : Nat := 0
  deriving DecidableEq, Repr

/-- A fork that has been accepted and not freed (R383). -/
structure Fork where
  op : Nat
  h : BitVec 2
  strand : Strand
  mask : SMask
  image : Word
  hdr : PatHdr
  fabric : Bool
  inWalkers : List PortId
  outWalkers : List PortId
  /-- Start-list entries not yet completed, and those that wait for a place in their channel (R210, R383, R384). -/
  starts : Nat
  waiting : List (ChanId × Word) := []
  /-- Shuttle-side ports with their buffers (R384, type 8). -/
  sides : List (Dir × PortId)
  /-- Buffers in pool bytes: first byte and length (R383). -/
  buffers : List (Nat × Nat)
  /-- The wrap buffers, as first byte and length (R191). -/
  wrapBuf : Option (Nat × Nat) := none
  errKnot : Option (BitVec 6)
  start : Nat
  fabricDone : Bool := false
  locks : Bool := false
  /-- The last wave that a fork without a fabric part has completed (R146, R383). -/
  waves : Nat := 0
  /-- The wave at which the fork has stopped (R146). -/
  waved : Option Nat := none
  /-- Ring cycle of the last progress (R198); cycles in which the fork was saved are left out. -/
  moved : Nat := 0
  deriving DecidableEq, Repr

/-- A configuration of one virtual stripe in one column (R175). -/
structure Config where
  portWord : W32
  chans : List W32
  header : W32
  words : List W32
  pool : List W32
  deriving DecidableEq, Repr

/-- A cell register's content (R371). -/
structure CReg where
  data : BitVec 512 := 0
  valid : BitVec 16 := 0xFFFF
  deriving DecidableEq, Repr

/-- The state of a configuration that a drain writes and a fill loads (R190, R404). -/
structure CellImage where
  acc : Tab W32 := []
  c : Tab CReg := []
  g : Tab W32 := []
  lfsr : W32 := 1
  deriving DecidableEq, Repr

/-- A drain of the matrix unit that has rows to deliver (R366). -/
structure Drain where
  node : Nat
  rows : List (BitVec 512)
  row : Nat
  punct : BitVec 3
  bank : Bank
  clear : Bool
  /-- Targets that the row which is leaving has still to reach; none while the next row has not begun to leave. -/
  waits : List Target := []
  deriving DecidableEq, Repr

/-- A matrix bank's pointers (R358). -/
structure BankPtr where
  w : Nat := 0
  s : Nat := 0
  row : Nat := 0
  deriving DecidableEq, Repr

/-- A cell and the FIFOs of its in-ports (R13, R175, R358, R371, R373). -/
structure Cell where
  nodes : Tab Node := []
  up : List Entry := []
  left : List Entry := []
  right : List Entry := []
  edge : List Entry := []
  c : Tab CReg := []
  /-- The cell registers as they stood at the activation, which CRD delivers (R371). -/
  cAt : Tab CReg := []
  g : Tab W32 := []
  lfsr : W32 := 1
  acc : Tab W32 := []
  sacc : Tab W32 := []
  accPtr : BankPtr := {}
  saccPtr : BankPtr := {}
  wdesc : W32 := 0
  drain : Option Drain := none
  /-- Xm of its filet island, and the writes to come, each with the cycle in which it takes place (R373, R374). -/
  x : Word := 0
  xs : List (Nat × Word) := []
  /-- The link from EDGE to the outbound ports, each entry with its port (R175). -/
  out : List (Nat × Entry) := []
  /-- Ring cycle in which the head of each in-port came to the head (R177), by UP, LEFT, RIGHT, EDGE. -/
  headAt : Tab Nat := []
  /-- Firings of a cycle by class, as kind 4 the MMAs that its slice has served (R360), and as kinds from 5 on the tokens that each out-port has
  sent (R175), the last firing of class F, and the cycle since which each index has been ready (R179). -/
  fires : Fires := {}
  lastF : Option Nat := none
  since : Tab Nat := []
  deriving DecidableEq, Repr

/-- The stripe word's fields (R182). -/
structure StripeWord where
  valid : Bool := false
  stateful : Bool := false
  acc : Bool := false
  regs : Bool := false
  vstripe : BitVec 10 := 0
  plane : BitVec 2 := 0
  clause : BitVec 6 := 0
  deriving DecidableEq, Repr

/-- The shadow bank of a stripe (R189); `snap` is the wave of a snapshot written with a drain (R194). -/
inductive Shadow where
  | free
  | filling (a start : Nat)
  | loaded (a : Nat)
  | draining (a start : Nat) (snap : Option Nat)
  deriving DecidableEq, Repr

/-- A physical stripe (R182, R187, R189, R194). -/
structure Stripe where
  word : StripeWord := {}
  /-- Absolute index of the resident configuration (R185). -/
  a : Nat := 0
  ended : Bool := false
  shadow : Shadow := .free
  /-- What the shadow bank holds, by column. -/
  bank : Tab CellImage := []
  /-- Wave and first cycle of a snapshot being taken in resident mode (R194). -/
  snapping : Option (Nat × Nat) := none
  /-- The marker that closes the run of the resident configuration (R186, R194), and the last one that a stripe without
  marker inputs has handled. -/
  closed : Option Nat := none
  handled : Nat := 0
  deriving DecidableEq, Repr

/-- Where a rollback stands (R168). -/
structure Rollback where
  trigger : BitVec 6
  clause : Nat
  deriving DecidableEq, Repr

/-- The fabric pattern a ring runs, and its scroll controller (R181 to R199). -/
structure Fabric where
  op : Nat
  image : Word
  hdr : PatHdr
  /-- The ring that forked the pattern: its stream ports, walkers and clause counts are the pattern's (R196, log 21). -/
  lead : RingId
  /-- Allotment in force (R193), and whether the segment scrolls (R185). -/
  p : Nat
  scroll : Bool
  /-- First virtual stripe and count of this ring's segment, and the rings before and after it (R196). -/
  segFirst : Nat
  segCount : Nat
  prevRing : RingId
  nextRing : RingId
  /-- Each cell's directory: by virtual stripe and column, VALID in [11] and an offset in [10:0] (R183). -/
  dirs : Tab (BitVec 12) := []
  /-- Block stores, by the group of virtual stripes that share one (R193) and column: their configurations in order, each with where the image
  has it. -/
  configs : Tab (List (Word × Config)) := []
  islands : Tab (List (BitVec 16)) := []
  planes : Tab (BitVec 2) := []
  stripes : Tab Stripe := []
  cells : Tab Cell := []
  wraps : Tab (List Entry) := []
  /-- Tokens that each column's wrap buffer has taken, by which the next one's place in scratch is known (R191). -/
  wrapped : Tab Nat := []
  passEntry : Tab Tok := []
  passReg : Tab Tok := []
  /-- What FORK read of the image's initial state, by virtual stripe and column (R190). -/
  init : Tab CellImage := []
  /-- Stateful virtual stripes, ascending (R190). -/
  stateful : List Nat := []
  oldest : Nat := 0
  clauses : List Clause := []
  waveDone : Nat := 0
  /-- Markers that the inbound walkers have sent (R206). -/
  markers : Nat := 0
  /-- Window position at each marker (R194), and stripes that have written a wave's snapshot. -/
  waveAt : Tab Nat := []
  snapped : Tab (List Nat) := []
  rollback : Option Rollback := none
  /-- The lead ring's counted cycle (R244) and its cycle (R198) of the last progress. -/
  moved : Nat := 0
  stirred : Nat := 0
  deriving DecidableEq, Repr

/-- A column that takes a port's tokens (R209): the entries it has taken that the head has not released, and its run. -/
structure Branch where
  ring : RingId
  col : Nat
  pos : Nat := 0
  run : Nat := 0
  deriving DecidableEq, Repr

/-- An inbound stream port (R201, R209). -/
structure InPortSt where
  op : Nat
  fifo : List Entry := []
  cap : Nat := 0
  /-- Pool offset of the buffer, and the tokens that it has taken (R201). -/
  first : Nat := 0
  count : Nat := 0
  shuttle : Bool := false
  /-- The virtual stripe that binds the port (R202). -/
  vs : Nat := 0
  branches : List Branch := []
  /-- The first ring cycle in which its branches take again (R209). -/
  next : Nat := 0
  /-- Data tokens of the run that is open, and whether its closing token waits for a marker (R186). -/
  inRun : Nat := 0
  closing : Bool := false
  /-- Runs closed, and whether the last data has been sent (R199). -/
  runs : Nat := 0
  ended : Bool := false
  /-- A shuttle has delivered a token into the port. -/
  fed : Bool := false
  deriving DecidableEq, Repr

/-- An outbound stream port (R201). -/
structure OutPortSt where
  op : Nat
  fifo : List Entry := []
  cap : Nat := 0
  /-- Pool offset of the buffer, and the tokens that it has taken (R201). -/
  first : Nat := 0
  count : Nat := 0
  shuttle : Bool := false
  /-- Virtual stripes that bind the port, each of which sends every marker into it (R194). -/
  binders : Nat := 0
  deriving DecidableEq, Repr

/-- A walker and its descriptor (R203, R205 to R208). -/
structure Walker where
  op : Nat
  desc : Word
  space : Space
  scalearr : Bool
  port : PortId
  counts : List Nat
  strides : List Int
  chan : BitVec 5
  knot : Option (BitVec 6)
  base : Word
  scale : Word
  period : Nat
  /-- Data tokens moved, and markers sent (R205, R206). -/
  n : Nat := 0
  markers : Nat := 0
  /-- Counters at the last two markers (R166). -/
  marks : Tab Nat := []
  error : Bool := false
  done : Bool := false
  /-- Writes bound for another die that are not yet visible (R248). -/
  inFlight : Nat := 0
  /-- Stopped after a marker while REQ is set (R146). -/
  stopped : Bool := false
  deriving DecidableEq, Repr

/-- An endpoint of a template (R213). -/
structure Endpoint where
  type : BitVec 8
  zone : BitVec 8
  chip : BitVec 16
  loc : BitVec 8
  slot : BitVec 8
  gen : BitVec 16
  addr : Word
  stride1 : BitVec 32
  stride2 : BitVec 32
  deriving DecidableEq, Repr

/-- A template as a shuttle has read it (R212). -/
structure Template where
  kind : BitVec 8
  chain : Bool
  knotv : Bool
  bytecnt : Bool
  next : BitVec 16
  knot : BitVec 6
  rfmt : BitVec 8
  carry : BitVec 32
  expect : BitVec 32
  src : Endpoint
  dst : Endpoint
  count0 : Nat
  count1 : Nat
  count2 : Nat
  deriving DecidableEq, Repr

/-- An accepted start: by an aperture store, or by the start list of a fork (R210, R383). -/
structure Start where
  op : Option Nat
  fork : Option Nat
  word : Word
  deriving DecidableEq, Repr

/-- The chain a channel runs (R211 to R217). -/
structure Copy where
  start : Start
  template : BitVec 12
  cmd : Option Template := none
  /-- Commands read, and beats moved of the present one. -/
  length : Nat := 0
  beat : Nat := 0
  crc : BitVec 32 := 0
  /-- The knot of the chain's last command with KNOTV (R217). -/
  knot : Option (BitVec 6) := none
  /-- The knot a chain's last command adds 1 to, and an error to carry to the next add. -/
  chainKnot : List (BitVec 6) := []
  /-- The knot and the bytes of the chain's last command, where it counts them (R217). -/
  lastAdd : Option (BitVec 6 × Nat) := none
  error : Option (BitVec 6) := none
  /-- The last command is complete. -/
  finished : Bool := false
  /-- Writes, eyelet beats and a verdict on their way (R211, R231, R411). -/
  inFlight : Nat := 0
  /-- It stopped at a lost route and never completes (R235). -/
  stopped : Bool := false
  deriving DecidableEq, Repr

/-- A shuttle channel (R210). -/
structure Chan where
  queue : List Start := []
  run : Option Copy := none
  deriving DecidableEq, Repr

/-! ## Tasks -/

/-- An input declaration (R121). -/
structure InDecl where
  src : Word
  bytes : Nat
  poff : Nat
  indexed : Bool
  keep : Bool
  deriving DecidableEq, Repr

/-- A task record's fields (R120). -/
structure TaskRec where
  prio : Nat
  gang : Bool
  pinned : Bool
  migrate : Bool
  span : Nat
  ring : RingId
  entry : Word
  arg : Word
  ibase : Nat
  icount : Nat
  yclass : Nat
  live : Word
  succs : List (BitVec 2 × Nat)
  ins : List (Option InDecl)
  deriving DecidableEq, Repr

/-- A consumed record of the dispatch table (R124 to R132). -/
structure PendRec where
  addr : Nat
  queue : Fin 4
  index : W32
  fields : TaskRec
  launch : Nat
  /-- Indices of each die's share that have not started (R128), and those to be split (R129, R130). -/
  split : Bool := false
  shares : Tab (List Nat) := []
  unsplit : List Nat := []
  /-- Indices started, and those that have committed DONE (R127). -/
  started : List Nat := []
  done : List Nat := []
  reissues : Tab Nat := []
  ready : Bool := false
  readyAt : Nat := 0
  levels : Nat := 0
  retired : Bool := false
  /-- Operations that were outstanding when an index committed DONE, by ring (R125). -/
  left : List (Nat × Nat) := []
  /-- Gang tick and identifier (R138, R160). -/
  tick : Word := 0
  gangId : Word := 0
  deriving DecidableEq, Repr

/-- A launch that has not completed (R76, R81). -/
structure Launch where
  id : Nat
  queue : Fin 4
  /-- The records from `first` to `prod` - 1. -/
  first : W32
  prod : W32
  report : Bool
  deriving DecidableEq, Repr

/-- A tile task (R14, R135). -/
structure Task where
  ctx : CtxId
  record : Nat
  queue : Fin 4
  index : W32
  tile : W32
  count : W32
  arg : Word
  entry : Word
  live : Word
  yclass : Nat
  span : Nat
  /-- The ring that runs its blocks; with a span the rings after it belong to the task too (R137). -/
  lead : RingId
  gangId : Word
  ins : List (Option InDecl)
  /-- WEIGHT as it stood when the task started (R106). -/
  weight : BitVec 8 := 0
  deriving DecidableEq, Repr

/-- A staged task with its operand records (R131, R136). -/
structure Staged where
  task : Task
  /-- Declared inputs that are not resident yet. -/
  need : List Nat := []
  /-- Ring cycle since which every input has been resident. -/
  since : Nat := 0
  /-- A saved task of the ring that is to be restored (R151). -/
  resumes : Bool := false
  migrate : Bool := false
  moved : Bool := false
  /-- Ground time a gang waits for, and whether it came with an input or a ring missing (R138). -/
  tick : Option Word := none
  missed : Bool := false
  deriving DecidableEq, Repr

/-- What a ring's engines hold that a save record carries in sections 5 to 8 (R147, R149, log 10). -/
structure Engines where
  forks : List Fork := []
  fabric : Option Fabric := none
  inPorts : Tab InPortSt := []
  outPorts : Tab OutPortSt := []
  inWalkers : Tab Walker := []
  outWalkers : Tab Walker := []
  chans : Tab Chan := []
  deriving DecidableEq, Repr

/-- What crosses a die or chip boundary (R48, R238), or reaches a ring's eyelets from a ring of its own die. -/
inductive Msg where
  | write (cells : List Host.Cell)
  /-- A beat that marks the sectors it covers as poisoned (R164). -/
  | spoil (cells : List Host.Cell)
  | atomic (kind : AtomKind) (key : Nat) (b c : Word)
  | reduce (rfmt : BitVec 8) (key : Nat) (data : BitVec 512)
  | beat (dst : RingId) (b : EyeBeat)
  | verdict (dst : RingId) (v : EyeVerdict)
  | request (dst : RingId) (q : ResvReq)
  | grant (dst : RingId) (op : Nat) (result : Word)
  /-- Another chip's answer to a beat or verdict of a copy: accepted, or refused for a cause (R231). -/
  | ack (dst : RingId) (op : Nat) (refused : Option (BitVec 6))
  /-- The flush marker of an operation's round (R50). -/
  | marker (ring : RingId) (op : Nat)
  deriving DecidableEq, Repr

/-- A saved task (R151). -/
structure Saved where
  task : Task
  /-- Save buffer, and the allotment in force (R149, R151). -/
  buffer : Word
  stripes : BitVec 5
  /-- Engines of the ring, and of the rings of its span, by ring. -/
  engines : Tab Engines
  ops : List Op
  /-- Registers that wait for an INGR (R401), and those that wait for it. -/
  pending : Tab Nat
  owed : List Owed
  handles : Tab Handle
  zones : Tab Zone
  /-- Requests, beats and verdicts of the task that wait for a retry (R152). -/
  retries : List Msg := []
  /-- Knots that have taken ERROR since the save (R165, R235). -/
  errors : List Nat := []
  /-- What pools hold beside the record's section 4: the snapshot area of a fork stopped at a wave, and the other pools of a
  span, by key (R194, R409). -/
  pools : List Host.Cell
  stepDue : Bool
  ending : Bool
  priv : Bool
  forced : Bool
  /-- Ring cycle of the save's end, from which timers of the zones stood still (R152), and the count of R244 then. -/
  since : Nat
  counted : Nat
  /-- Cycles that its save has taken (R153). -/
  took : Nat
  deriving DecidableEq, Repr

/-- A save in progress (R143, R147): its kind, what its table held when it was checked (R145), and its first cycle. -/
structure Saving where
  forced : Bool
  live : Live
  start : Nat
  deriving DecidableEq, Repr

/-! ## Translation -/

/-- A cached translation (R114). -/
structure Trans where
  ctx : CtxId
  page : Nat
  size : Nat
  base : Nat
  s : Bool
  w : Bool
  x : Bool
  deriving DecidableEq, Repr

/-- A non-leaf entry of a die's walk cache (R114): the context, the lowest bit that its level indexes, the address above that bit, and the
node it points to. -/
structure NodeEntry where
  ctx : CtxId
  lo : Nat
  tag : Nat
  node : Nat
  deriving DecidableEq, Repr

/-- An engine of a ring (R158). -/
inductive Engine where
  | sequencer
  | fabric
  | walker (dir : Dir) (p : PortId)
  | shuttle (ch : ChanId)
  | prefetch
  | dispatcher
  | eyelet
  deriving DecidableEq, Repr

/-- A queued translation miss (R114). -/
structure Miss where
  ctx : CtxId
  va : Word
  write : Bool
  engine : Engine
  block : Word
  /-- Ground time at which it joined the queue. -/
  arrived : Nat := 0
  deriving DecidableEq, Repr

/-- A line of a sequencer's block cache (R96, R98): its page in the context and whether a shootdown made it invalid. -/
structure CodeLine where
  ctx : CtxId
  sector : Nat
  data : BitVec 512
  deriving DecidableEq, Repr

/-- A configuration that a ring's block stores hold: where its context has it, its words, and its stale mark (R96). -/
structure BlockCopy where
  ctx : CtxId
  addr : Word
  words : List W32
  stale : Bool := false
  deriving DecidableEq, Repr

/-! ## The ring -/

/-- A ring (R13). -/
structure Ring where
  -- clock (R54, R56, R59)
  cmd : BitVec 3 := 0
  eff : BitVec 3 := 0
  busy : Bool := false
  nextCmd : Option (BitVec 3) := none
  duty : Nat := 16
  /-- Clock progress, in sixteen-thousandths of a cycle, up to ground time `tickAt` (log 2). -/
  ticks : Nat := 0
  tickAt : Word := 0
  /-- Cycles that the counts of R244 leave out, and the cycle since which they stand still. -/
  paused : Nat := 0
  pausedAt : Option Nat := none
  -- tasks (R131, R227)
  resident : Option CtxId := none
  /-- A task of that context has started or been restored since the ring was cleared for it (R227). -/
  entered : Bool := false
  /-- The staged place was open when the dispatchers' present cycle began (R414). -/
  wasOpen : Bool := false
  residency : List InDecl := []
  cur : Option Task := none
  staged : Option Staged := none
  saved : List Saved := []
  saving : Option Saving := none
  slice : Slice := {}
  srCycles : Tab (BitVec 32) := []
  /-- First cycle of a restore whose RESUME has not been fetched, and the cycles of its save (R153). -/
  restored : Option (Nat × Nat) := none
  forcedLast : Bool := false
  stripes : BitVec 5 := 16
  -- engines
  seqr : Seqr := {}
  knots : Tab Knot := []
  /-- Cycle and rank of the last add to each knot (R221), and by zone the cycle of its last answer to a request (R237). -/
  added : Tab (Nat × Nat) := []
  asked : Tab Nat := []
  zones : Tab Zone := []
  eng : Engines := {}
  errInject : Word := 0
  injectCount : Nat := 0
  -- translation and code (R96, R98, R114)
  tlb : List Trans := []
  misses : List Miss := []
  code : List CodeLine := []
  /-- Copies in the block stores of the ring's stripes (R96). -/
  blocks : List BlockCopy := []
  -- slices (R24)
  locks : List Nat := []
  /-- Writes accepted for locked slices, in order, each with whether its data was uncorrectable (R24, R164). -/
  heldSlice : List (List Host.Cell × Bool) := []
  /-- Requests, beats and verdicts that were answered with retry, in the order in which they came (R152, R412). -/
  retries : List Msg := []
  deriving DecidableEq, Repr

/-! ## The context -/

/-- A stop record (R158) without the counters of its last 40 bytes' device-defined part (log 15). -/
structure StopRec where
  engine : BitVec 8
  cause : BitVec 6
  primary : Bool
  retry : Bool
  ring : BitVec 8
  block : Word
  va : Word
  counters : Word
  issued : Tab (BitVec 16)
  done : Tab (BitVec 16)
  deriving DecidableEq, Repr

/-- The fault registers of a context on a ring (R159). -/
structure FaultRegs where
  cause : Word := 0
  block : Word := 0
  va : Word := 0
  engine : Word := 0
  deriving DecidableEq, Repr

/-- An egress record before its ground time and PHASE are known (R80). -/
structure Egr where
  kind : BitVec 8
  ctx : BitVec 16
  a : BitVec 32
  b : List Byte
  deriving DecidableEq, Repr

/-- An egress queue (R79 to R82). -/
structure EgQueue where
  base : Word := 0
  vector : BitVec 8 := 0
  irqEn : Bool := false
  log2n : BitVec 5 := 0
  prod : BitVec 32 := 0
  cons : BitVec 32 := 0
  lostCount : BitVec 32 := 0
  lost : Bool := false
  /-- Device-generated records held while the queue is full or disabled, at most 16. -/
  held : List Egr := []
  /-- Records accepted, in order, whose line is not yet visible, with the EGR operation each serves. -/
  lines : List (Egr × Option (RingId × Nat)) := []
  /-- EGRs that wait for room (R82). -/
  waiting : List (Egr × RingId × Nat) := []
  deriving DecidableEq, Repr

/-- A task queue (R119). -/
structure TaskQueue where
  base : Word := 0
  owner : Bool := false
  log2n : BitVec 5 := 0
  prod : BitVec 32 := 0
  cons : BitVec 32 := 0
  deriving DecidableEq, Repr

/-- Classes of cause (R154). -/
inductive CauseClass where
  | none | info | serviceable | contained | halting
  deriving DecidableEq, Repr

/-- A context (R105). -/
structure Ctx where
  weight : BitVec 8 := 1
  stripes : BitVec 5 := 16
  unsignedOk : Bool := false
  priv : Bool := false
  closing : Bool := false
  enable : Bool := false
  rings : BitVec 32 := 0
  ptbase : Word := 0
  touched : BitVec 8 := 0
  keys : BitVec 16 := 0
  shootVa : Word := 0
  shootBusy : Bool := false
  /-- Rings still to pass their point, the range, and the TLBINV that waits (R115, R400). -/
  shootRings : List RingId := []
  shootRange : Word := 0
  shootOp : Option (RingId × Nat) := none
  halted : Bool := false
  refused : Bool := false
  haltClass : CauseClass := .none
  stops : List StopRec := []
  -- ingress (R75 to R79)
  ingress : Tab (List Word) := []
  stray : Bool := false
  ovf : BitVec 16 := 0
  bad : BitVec 16 := 0
  egq : EgQueue := {}
  tq : Tab TaskQueue := []
  -- dispatch (R124 to R132)
  table : List PendRec := []
  launches : List Launch := []
  nextLaunch : Nat := 0
  /-- Records that are queued and that the master has still to read, since a page was missing or a stack held its reads back: queue, launch, how
  many, and the first (R118, R138, R416). -/
  unread : List (Fin 4 × Nat × Nat × W32) := []
  /-- The dispatchers' cycle of the last placement or start of a task, and a teardown written in that cycle, which takes effect in the next (R140). -/
  actedAt : Option Nat := none
  tearing : Bool := false
  fault : Tab FaultRegs := []
  deriving DecidableEq, Repr

/-! ## The die -/

/-- States of DIE_RST (R35). -/
inductive RstState where
  | idle | core | uncore
  deriving DecidableEq, Repr

/-- States of DIE_PWR (R60). -/
inductive PwrState where
  | running | parking | parked | unparking
  deriving DecidableEq, Repr

/-- A compute die (R21, R33, R60, R63, R114, R131). -/
structure Die where
  rst : RstState := .idle
  /-- The die is lost when its uncore reset's firmware check fails, or with its tasks (R35, R162). -/
  pwr : PwrState := .running
  park : Bool := false
  parkNext : Option Bool := none
  parkRefused : Bool := false
  tstop : Bool := false
  refresh2x : Bool := false
  /-- The 3 microsecond hold on reads, and the ground time at which it began (R416). -/
  hold : Bool := false
  holdFrom : Nat := 0
  hbmC : BitVec 8 := 0
  tjC : BitVec 8 := 0
  allow : Tab (BitVec 8) := []
  ringTj : Tab Nat := []
  tcache : List Trans := []
  /-- The walk cache of non-leaf entries (R114). -/
  wcache : List NodeEntry := []
  /-- Host writes to the parked die's slices (R62). -/
  heldHost : List (List Host.Cell) := []
  /-- Windows that the die has left: every window below the number (R48). -/
  left : Nat := 0
  pass : Tab Nat := []
  /-- Contexts that had a ready index at the last placement (R131). -/
  hadReady : List Nat := []
  /-- Ground time of the dispatcher's last placement (R131). -/
  placedAt : Option Nat := none
  firmwareOk : Bool := false
  authOk : Bool := false
  deriving DecidableEq, Repr

/-! ## Links, pipes and circuits -/

/-- States of a connection-table entry (R26). -/
inductive ConnState where
  | idle | tuning | up | draining | rejected | fault
  deriving DecidableEq, Repr

/-- A connection-table entry (R26). -/
structure Conn where
  valid : Bool := false
  state : ConnState := .idle
  lambda : BitVec 16 := 0
  src : BitVec 8 := 0
  dst : BitVec 8 := 0
  deriving DecidableEq, Repr

/-- A flit that waits for its sequence number and its place on a port (R39, R40); `bad` is an injected error of its CRC (R172). -/
structure Outgoing where
  vc : BitVec 2
  type : FlitType
  window : BitVec 16
  dest : BitVec 16
  payload : List Byte
  bad : Bool := false
  deriving DecidableEq, Repr

/-- A Galsin port (R38 to R47). -/
structure Link where
  up : Bool := false
  lost : Bool := false
  width : BitVec 2 := 0
  lambdaOk : BitVec 16 := 0
  wmismatch : Bool := false
  peerChip : BitVec 16 := 0
  peerPort : BitVec 4 := 0
  replays : BitVec 12 := 0
  /-- First wavelength of the group in use (R42). -/
  group : Nat := 0
  narrowing : Option (BitVec 2 × Nat) := none
  /-- SEQ of the next flit to be sent and of the next to be accepted (R39, R41). -/
  sendSeq : BitVec 12 := 0
  recvSeq : BitVec 12 := 0
  /-- Flits that wait for a credit or a place, by VC (R40). -/
  queue : Tab (List Outgoing) := []
  /-- Flits that are kept until the peer acknowledges them, and those of them that are to be sent again (R41). -/
  kept : List Flit := []
  resend : List Flit := []
  /-- Whether an acknowledgement, and a NAK, is to be sent (R41). -/
  ackDue : Bool := false
  nakDue : Bool := false
  /-- What has left the port, oldest first. -/
  wire : List Flit := []
  /-- Flits accepted for this chip, oldest first. -/
  inbox : List Flit := []
  /-- Flits that have come, and the numbers of those in which a wavelength's parity failed, by wavelength (R42). -/
  seen : Nat := 0
  parityFails : Tab (List Nat) := []
  /-- Windows that the peer's seals close, and that this port's seals have closed, by VC; and the ports whose flits have been relayed
  to this one, by VC (R48). -/
  sealIn : Tab Nat := []
  sealOut : Tab Nat := []
  fedBy : List (LinkId × BitVec 2) := []
  -- IEEE 1588 (R45): the last Sync, its arrival, and its departure on the other ports
  syncSeq : BitVec 16 := 0
  syncAt : Word := 0
  syncOut : Word := 0
  /-- The window exponent that the peer has announced, once it has (R47). -/
  peerExp : Option (BitVec 4) := none
  pdelaySeq : BitVec 16 := 0
  pdelaySent : Word := 0
  pdelayReqAt : Word := 0
  pdelayRespAt : Word := 0
  linkDelay : Word := 0
  deriving DecidableEq, Repr

/-- Who gets a notice: the peer of a port, a chip, or every chip. -/
inductive Recipient where
  | port (p : LinkId)
  | chip (n : BitVec 16)
  | all
  deriving DecidableEq, Repr

/-- What leaves the device beside the messages of its pipes: halt notices (R160), late seals (R49), changes of width (R43), lost ports
(R235), ground-time messages (R45, R47), and the answers that return to other chips (R229, R231). -/
inductive Notice where
  | halt (gang : Word)
  | lateSeal (path : Path) (window : Nat)
  | narrowed (p : LinkId) (old new : BitVec 2) (at' : Word)
  | portLost (p : LinkId)
  | sync (seq : BitVec 16)
  | followUp (seq : BitVec 16) (origin correction : Word)
  | delayReq (seq : BitVec 16)
  | delayResp (seq : BitVec 16) (arrived : Word)
  | delayFollowUp (seq : BitVec 16) (sent : Word)
  | announce (exponent : BitVec 4)
  | grant (ring : RingId) (op : Nat) (result : Word)
  | answer (ring : RingId) (ch : ChanId) (refused : Option (BitVec 6))
  /-- Every flush marker of a path has been gathered here (R50). -/
  | gathered (path : Path)
  deriving DecidableEq, Repr

/-- A message in a window pipe (R246): its stamp, who sent it, and the operation it belongs to. -/
structure PipeWrite where
  window : Nat
  ring : RingId
  ctx : CtxId
  who : Engine
  op : Nat
  msg : Msg
  /-- The circuit that carries it; with none it takes the ground mesh (R25, R29). -/
  via : Option (Fin 64) := none
  /-- The ports of the system that it crosses (R50, R52). -/
  route : List (BitVec 16 × LinkId) := []
  /-- It was sent in flush mode: no window holds it, and it performs when its acknowledgement returns (R247, R254). -/
  flush : Bool := false
  deriving DecidableEq, Repr

/-- A window pipe (R238, R246): its writes in order, its seals, and the windows held as late (R48, R49). -/
structure Pipe where
  path : Path
  writes : List PipeWrite := []
  /-- Windows sealed at the destination on each windowed VC: every window below the number (R48). -/
  seals : Tab Nat := []
  /-- Windows that the source has left and sent seals for: every window below the number. -/
  sent : Nat := 0
  /-- Windows that were late, each with the contexts and rings whose writes it held (R49). -/
  late : List (Nat × List (CtxId × RingId)) := []
  /-- Late windows whose notice has reached the source. -/
  noticed : List Nat := []
  lost : Bool := false
  /-- The flush marker of a change of ORDER_MODE has been sent down the path, and gathered at its end (R51). -/
  marker : Bool := false
  gathered : Bool := false
  deriving DecidableEq, Repr

/-! ## The device -/

/-- An entry of the MSI-X table (R82, log 17). -/
structure MsixEntry where
  addr : Word := 0
  data : BitVec 32 := 0
  masked : Bool := true
  deriving DecidableEq, Repr

/-- A key slot (R92). -/
structure KeySlot where
  hash : BitVec 384 := 0
  valid : Bool := false
  deriving DecidableEq, Repr

/-- A task start that replay has fixed (R87). -/
structure FixedStart where
  record : Nat
  tile : W32
  ring : RingId
  valid : BitVec 4
  crcs : List (BitVec 32)
  deriving DecidableEq, Repr

/-- The registers of the package (R26, R44, R51, R57 to R70, R79, R84 to R92). -/
structure Dev where
  ready : Bool := false
  bootFail : Bool := false
  phase : BitVec 3 := 0
  fenced : BitVec 8 := 0
  live : BitVec 8 := 0
  parked : BitVec 8 := 0
  /-- S, the striped share in GiB, which firmware sets at boot (R30). -/
  share : Nat := 16
  /-- The dies the striped region was built over, ascending (R31). -/
  striped : List DieId := []
  svnFuse : Word := 0
  nonce : Tab Word := []
  attDest : Word := 0
  attBusy : Bool := false
  attDone : Bool := false
  attErr : Bool := false
  keySlots : Tab KeySlot := []
  /-- PWR_CEIL.CEIL_W; none until it is first written, when it holds the form's reset value (R57). -/
  ceilW : Option (BitVec 11) := none
  powerW : BitVec 16 := 0
  ceilMiss : Bool := false
  /-- Whether the last measurement throttled, and ground time since which power has been low (R59). -/
  throttling : Bool := false
  lowSince : Option Nat := none
  flush : Bool := true
  modeNext : Option Bool := none
  window : BitVec 4 := 10
  conns : Tab Conn := []
  links : Tab Link := []
  pipes : List Pipe := []
  /-- Messages visible at a ring's eyelets and not yet acted on, and reservation results on their way back, oldest first. -/
  arrived : List Msg := []
  answers : List (RingId × Nat × Word) := []
  events : EgQueue := {}
  capBase : Word := 0
  capSize : Word := 0
  capOn : Bool := false
  capFull : Bool := false
  /-- The buffer has filled since ENABLE was set (R85). -/
  capStopped : Bool := false
  capBytes : BitVec 32 := 0
  capCtx : Word := 0
  capCount : Nat := 0
  repBase : Word := 0
  repLen : Word := 0
  repActive : Bool := false
  repDiverged : Bool := false
  /-- The context that DIVERGED was set for (R86). -/
  repStopped : Option CtxId := none
  repCtx : CtxId := 0
  repPos : Nat := 0
  repLast : Option (BitVec 32) := none
  repFixed : List FixedStart := []
  /-- The route table: for each chip its routes in table order, each as the ports that it crosses (R52). -/
  routes : List (BitVec 16 × List (List (BitVec 16 × LinkId))) := []
  /-- Ports of the system that are lost (R235). -/
  lostPorts : List (BitVec 16 × LinkId) := []
  /-- The route that the next flit to a chip takes, by place in the chip's list (R50). -/
  spray : Tab Nat := []
  /-- Flush markers of other chips' paths that have come, by path (R50). -/
  gathers : List (Path × Nat) := []
  /-- Writes of flush mode whose acknowledgement is on the way, by ring, engine and starting operation (R247). -/
  acks : List (RingId × Engine × Nat) := []
  /-- Notices and answers that have left the device on VC 1 and VC 2, oldest first. -/
  sent : List (Recipient × Notice) := []
  /-- The MSI-X table, its pending bits, and the messages raised, oldest first (R82, log 17). -/
  msix : Tab MsixEntry := []
  pba : BitVec 65 := 0
  irqs : List (BitVec 8) := []
  /-- Sectors that were found correctable or uncorrectable, oldest first (R36, R37). -/
  eccLog : List (Nat × SectorHealth) := []
  /-- What the host's CXL reads returned, `none` for poison (R74). -/
  reads : List (Option (List Byte)) := []
  deriving DecidableEq, Repr

/-! ## The machine -/

/-- A unit that fires words: a ring's sequencer, or a cell (R238, R297, R299). -/
inductive UnitId where
  | seq (r : RingId)
  | cell (r : RingId) (p : StripeId) (j : ColId)
  deriving DecidableEq, Repr

/-- One turn of the schedule (log 1): a device move, or the firing of an instruction index of a unit. -/
inductive Turn where
  | move (i : Instr)
  | fire (u : UnitId) (idx : Nat)
  deriving DecidableEq, Repr

/-- The state of the machine. -/
structure State where
  gt : Word := 0
  agenda : List (Nat × Turn) := []
  focus : UnitId := .seq 0
  focusIdx : Nat := 0
  freeCtr : Nat := 0
  mem : Memory := []
  poison : List Nat := []
  dev : Dev := {}
  dies : Tab Die := []
  rings : Tab Ring := []
  ctxs : Tab Ctx := []
  deriving DecidableEq, Repr

/-- Why a step can stop the machine. No meaning of this model raises one: every fault of the spec is a cause that its
context takes (R154), and the device goes on. -/
inductive Fault where
  /-- Raised by `step` alone, when the unit in focus holds no instruction at the scheduled index. Safe: the hardware
  has no such turn. -/
  | nothingThere
  deriving DecidableEq, Repr

/-- Why an instruction has no meaning. -/
inductive Refusal where
  /-- Raised by `exec` for an instruction the model gives no meaning. Safe: a run stops. -/
  | notModelled (mnemonic : String)
  deriving DecidableEq, Repr

/-- The machine at power-good, before phase 1 of bring-up (R67): every field at its default. The form's ceiling (R57) is
read from the fuses when power-good is taken. -/
def State.reset : State := {}

end Sys2Proof.Machine
end

