-- ==== Sys2Proof/Machine/Mem.lean ====
section
/-!
DEFINITION. The memory of the device: one canonical list of bytes for HBM, host memory, pools and weight slices (R13,
R23, R30, R110), and the named operations over it. An address of the list is a physical address below 2^52, a pool byte
of a ring or a slice byte of a ring.
-/

namespace Sys2Proof.Machine

/-! ## The list of bytes -/

/-- The canonical form: addresses strictly rising, and no byte that an unlisted address reads as. -/
abbrev Memory.wf (m : Memory) : Prop := m.Pairwise (fun a b => a.1 < b.1) ∧ ∀ c ∈ m, c.2 ≠ 0

/-- What an address that the list does not name reads as: HBM, pools and slices are zeroed at bring-up (R67); host
memory reads zero by log 5. DESIGN CHOICE for host memory, unsafe. -/
def Memory.unlisted : Byte := 0

/-- The byte at an address. -/
def Memory.get : Memory → Nat → Byte
  | [], _ => Memory.unlisted
  | (k, v) :: t, a => if k = a then v else Memory.get t a

/-- The memory with byte `b` at `a`; writing what an unlisted address reads as removes the entry. -/
def Memory.set : Memory → Nat → Byte → Memory
  | [], a, b => if b = Memory.unlisted then [] else [(a, b)]
  | (k, v) :: t, a, b =>
    if k < a then (k, v) :: Memory.set t a b
    else if k = a then (if b = Memory.unlisted then t else (a, b) :: t)
    else if b = Memory.unlisted then (k, v) :: t
    else (a, b) :: (k, v) :: t

/-- The bytes of a write, applied in order. -/
def Memory.apply (m : Memory) (w : List Host.Cell) : Memory := w.foldl (fun m c => m.set c.1 c.2) m

/-- The memory with every byte of a range unlisted. -/
def Memory.clear (m : Memory) (first n : Nat) : Memory := m.filter fun c => !(first ≤ c.1 && c.1 < first + n)

/-- The listed bytes of a range, by offset. -/
def Memory.slice (m : Memory) (first n : Nat) : List Host.Cell :=
  (m.filter fun c => first ≤ c.1 && c.1 < first + n).map fun c => (c.1 - first, c.2)

/-- The memory with the range at `dst` made equal to the range at `src`. -/
def Memory.copy (m : Memory) (dst src n : Nat) : Memory :=
  (m.clear dst n).apply ((m.slice src n).map fun c => (dst + c.1, c.2))

/-- `n` bytes from `a`, lowest first. -/
def Memory.bytes (m : Memory) (a n : Nat) : List Byte := (List.range n).map fun i => m.get (a + i)

/-- The little-endian number of `n` bytes at `a` (R9). -/
def Memory.read (m : Memory) (a n : Nat) : Nat := natLE (m.bytes a n)

/-! ## Places -/

/-- First key of a ring's pool: byte 0 of the 16 MiB pool (R110). -/
def poolKey (r off : Nat) : Nat := 2 ^ 52 + r * 2 ^ 24 + off

/-- A byte of a ring's w space (R23). -/
def sliceKey (r a : Nat) : Nat := 2 ^ 53 + r * 0x3000000 + a

/-- The ring whose slices hold a key. -/
def sliceRing? (key : Nat) : Option Nat :=
  if 2 ^ 53 ≤ key ∧ key < 2 ^ 53 + 32 * 0x3000000 then some ((key - 2 ^ 53) / 0x3000000) else none

def poolRing? (key : Nat) : Option Nat :=
  if 2 ^ 52 ≤ key ∧ key < 2 ^ 53 then some ((key - 2 ^ 52) / 2 ^ 24) else none

/-- The cells of a write of bytes at consecutive addresses. -/
def cellsAt (a : Nat) : List Byte → List Host.Cell
  | [] => []
  | b :: t => (a, b) :: cellsAt (a + 1) t

/-- The bytes of the lanes of a token that are written (R387, STT). -/
def laneCells (a : Nat) (data : BitVec 512) (lanes : BitVec 16) : List Host.Cell :=
  (List.range 64).filterMap fun i =>
    if lanes.getLsbD (i / 4) then some (a + i, data.extractLsb' (8 * i) 8) else none

/-! ## The rings, dies and contexts of a state -/

def State.ring (s : State) (r : Nat) : Ring := s.rings.get {} r
def State.die (s : State) (d : Nat) : Die := s.dies.get {} d
def State.ctx (s : State) (c : Nat) : Ctx := s.ctxs.get {} c

def State.setRing (s : State) (r : Nat) (x : Ring) : State := { s with rings := s.rings.put r x }
def State.setDie (s : State) (d : Nat) (x : Die) : State := { s with dies := s.dies.put d x }
def State.setCtx (s : State) (c : Nat) (x : Ctx) : State := { s with ctxs := s.ctxs.put c x }

def State.modRing (s : State) (r : Nat) (f : Ring → Ring) : State := s.setRing r (f (s.ring r))
def State.modDie (s : State) (d : Nat) (f : Die → Die) : State := s.setDie d (f (s.die d))
def State.modCtx (s : State) (c : Nat) (f : Ctx → Ctx) : State := s.setCtx c (f (s.ctx c))
def State.modDev (s : State) (f : Dev → Dev) : State := { s with dev := f s.dev }
def State.modSeqr (s : State) (r : Nat) (f : Seqr → Seqr) : State := s.modRing r fun x => { x with seqr := f x.seqr }
def State.modEng (s : State) (r : Nat) (f : Engines → Engines) : State := s.modRing r fun x => { x with eng := f x.eng }

/-- The die of a global ring (R2). -/
def ringDie (r : Nat) : Nat := r / 4

/-- The rings of a die (R2). -/
def dieRings (d : Nat) : List Nat := (List.range 4).map (4 * d + ·)

/-! ## Poison (R36) -/

/-- The 64-byte sector of a key. -/
def sectorOf (key : Nat) : Nat := key / 64

/-- Whether any sector that the range touches is poisoned. -/
def State.poisoned (s : State) (key n : Nat) : Bool :=
  (List.range ((key % 64 + n + 63) / 64)).any fun i => s.poison.contains (sectorOf key + i)

/-- The state with a sector marked. -/
def State.mark (s : State) (sector : Nat) : State :=
  if s.poison.contains sector then s else { s with poison := sector :: s.poison }

/-- Sectors that a write covers whole lose their poison (R164). -/
def State.unmark (s : State) (w : List Host.Cell) : State :=
  { s with poison := s.poison.filter fun p => !((List.range 64).all fun i => w.any fun c => c.1 == 64 * p + i) }

/-! ## Writes at a home -/

/-- A write applied at its home, past any lock. -/
def State.put (s : State) (w : List Host.Cell) : State := { (s.unmark w) with mem := s.mem.apply w }

/-- A write applied at its home; where its data is uncorrectable the sector that it begins in is poisoned (R164). -/
def State.putAs (s : State) (w : List Host.Cell) (bad : Bool) : State :=
  match w, bad with
  | (k, _) :: _, true => (s.put w).mark (sectorOf k)
  | _, _ => s.put w

/-- A write as its home accepts it: one to a locked slice is held until the pattern ends (R24). -/
def State.storeAs (s : State) (w : List Host.Cell) (bad : Bool) : State :=
  match w.head?.bind (fun c => sliceRing? c.1) with
  | some r =>
    if (s.ring r).locks.isEmpty then s.putAs w bad
    else s.modRing r fun x => { x with heldSlice := x.heldSlice ++ [(w, bad)] }
  | none => s.putAs w bad

/-- A write of good data as its home accepts it. -/
def State.store (s : State) (w : List Host.Cell) : State := s.storeAs w false

/-- The end of a lock: when no fork of the ring holds one, the held writes are applied in order (R24). -/
def State.unlock (s : State) (r op : Nat) : State :=
  let x := s.ring r
  let locks := x.locks.filter (· != op)
  if locks.isEmpty then
    (x.heldSlice.foldl (fun s e => s.putAs e.1 e.2) s).modRing r fun x => { x with locks := [], heldSlice := [] }
  else s.setRing r { x with locks := locks }

/-- `n` bytes at a key as one number (R9). -/
def State.load (s : State) (key n : Nat) : Nat := s.mem.read key n

/-- A free word of the manual's open values, and the state that has used it up. -/
def State.useFree (s : State) : State := { s with freeCtr := s.freeCtr + 1 }

end Sys2Proof.Machine
end

