-- ==== Sys2Proof/Machine/Ports.lean ====
section
/-!
DEFINITION. Galsin ports as the device drives them: routes (R50, R52), flits and their codes (R39), virtual channels with their credits
(R40), what a port sends and keeps (R41), the seals of links (R48), and the device's notices (R43, R45, R49, R160, R235).
-/

namespace Sys2Proof.Machine

/-- The current window (R46). -/
def State.curWindow (s : State) : Nat := s.gt.toNat / 2 ^ s.dev.window.toNat

/-- Free bytes of the manual's open layouts. -/
def State.freeBytes (s : State) (n : Nat) : List Byte := (List.range n).map fun i => Config.freeByte (s.freeCtr + i)

/-! ## Error injection (R172) -/

/-- Fields of ERR_INJECT (R172). -/
def injTarget (w : Word) : Nat := (w.extractLsb' 57 3).toNat
def injUnit (w : Word) : Nat := (w.extractLsb' 48 9).toNat
def injDelay (w : Word) : Nat := (w.extractLsb' 32 16).toNat
def injBit (w : Word) : Nat := (w.extractLsb' 0 9).toNat

/-- An event of a target and unit passes: whether an armed injection takes place there, and the state after it. -/
def State.inject (s : State) (r target unit : Nat) : Bool × State :=
  let x := s.ring r
  let w := x.errInject
  if w.getLsbD 63 ∧ injTarget w = target ∧ injUnit w = unit then
    if x.injectCount = injDelay w then
      (true, s.setRing r { x with errInject := (w &&& ~~~(1#64 <<< 63)) ||| (1#64 <<< 62), injectCount := 0 })
    else (false, s.setRing r { x with injectCount := x.injectCount + 1 })
  else (false, s)

/-- A read of a ring's pool by its own sequencer, walkers, shuttles or eyelets is an event of its bank, of 32 KiB; an injection that takes place
there makes the sector uncorrectable (R172, log 94). -/
def State.poolRead (s : State) (r key : Nat) : State :=
  if poolKey r 0 ≤ key && key < poolKey r 0 + 2 ^ 24 then
    let (hit, s1) := s.inject r 3 ((key - poolKey r 0) / 0x8000)
    if hit then s1.mark (sectorOf key) else s1
  else s

/-! ## Routes (R50, R52) -/

/-- This device's own chip number. -/
def ownChip : BitVec 16 := Config.chip.setWidth 16

/-- The routes to a chip that cross no lost port, in table order (R52, R235). -/
def State.liveRoutes (s : State) (chip : BitVec 16) : List (List (BitVec 16 × LinkId)) :=
  match s.dev.routes.find? fun e => e.1 == chip with
  | some e => e.2.filter fun l => l.all fun p => !s.dev.lostPorts.contains p
  | none => []

/-- The one route of window mode. -/
def State.routeOf (s : State) (chip : BitVec 16) : Option (List (BitVec 16 × LinkId)) := (s.liveRoutes chip).head?

/-- Whether a destination is reachable: a route leads there, or a live die of this device is named (R230). -/
def State.reachable (s : State) (chip : BitVec 16) (d : Nat) : Bool :=
  if chip = ownChip then s.dev.live.getLsbD d
  else chip.toNat < 8192 && s.dev.routes.any fun e => e.1 == chip && !e.2.isEmpty

/-- Whether traffic to a chip has a way left. -/
def State.routed (s : State) (chip : BitVec 16) : Bool := chip == ownChip || (s.routeOf chip).isSome

def State.link (s : State) (p : Nat) : Link := s.dev.links.get {} p

def State.setLink (s : State) (p : Nat) (x : Link) : State := s.modDev fun d => { d with links := d.links.put p x }

/-- The port of this device that a route leaves by. -/
def ownPort (l : List (BitVec 16 × LinkId)) : Option LinkId := (l.find? fun e => e.1 == ownChip).map (·.2)

/-! ## The code of a flit (R39) -/

/-- CRC-64/ECMA-182: one bit, one byte, a run. -/
def crc64Bit (c : Word) : Word := (c <<< 1) ^^^ (if c.getLsbD 63 then 0x42F0E1EBA9EA3693 else 0)

def crc64Byte (c : Word) (b : Byte) : Word :=
  (List.range 8).foldl (fun c _ => crc64Bit c) (c ^^^ (b.setWidth 64 <<< 56))

def crc64 (l : List Byte) : Word := l.foldl crc64Byte 0

/-- TYPE of a flit. -/
def flitTypeCode : FlitType → Nat
  | .data => 0 | .seal => 1 | .control => 2 | .idle => 3

/-- Bytes 0 to 247 of a flit. -/
def flitBytes (f : Flit) : List Byte :=
  bytesLE 8 (f.seq.toNat + 2 ^ 12 * f.vc.toNat + 2 ^ 14 * flitTypeCode f.type + 2 ^ 16 * f.ack.toNat + 2 ^ 28 * (BitVec.ofBool f.nak).toNat +
    2 ^ 32 * f.window.toNat + 2 ^ 48 * f.dest.toNat) ++ f.payload

/-! ## Sending (R40, R41) -/

/-- Whether a VC of a port has a credit: one is taken when a flit is sent and returns with its acknowledgement (log 75). -/
def Link.hasCredit (x : Link) (vc : BitVec 2) : Bool := (x.kept.filter fun f => f.vc == vc).length < Config.credits vc.toNat

/-- A flit as it leaves the port now, with the acknowledgement that is due. -/
def Link.form (x : Link) (o : Outgoing) : Flit :=
  let f : Flit := { seq := x.sendSeq, vc := o.vc, type := o.type, ack := x.recvSeq - 1, nak := x.nakDue, window := o.window, dest := o.dest,
                    payload := o.payload, crc := 0 }
  { f with crc := crc64 (flitBytes f) }

/-- The first VC that has a flit waiting and a credit (log 75). -/
def Link.nextVc (x : Link) : Option (BitVec 2) :=
  ([0, 1, 2, 3] : List (BitVec 2)).find? fun vc => !(x.queue.get [] vc.toNat).isEmpty && x.hasCredit vc

/-- One flit leaves, if one may: a flit to be sent again, else the next one of a VC that has a credit, while fewer than 2,048 are kept. -/
def Link.sendOne (x : Link) : Link :=
  match x.resend with
  | f :: t => { x with resend := t, wire := x.wire ++ [f] }
  | [] =>
    match x.nextVc with
    | none => x
    | some vc =>
      match x.queue.get [] vc.toNat with
      | [] => x
      | o :: t =>
        if 2048 ≤ x.kept.length then x
        else
          let f := x.form o
          { x with queue := x.queue.put vc.toNat t, kept := x.kept ++ [f], sendSeq := x.sendSeq + 1, ackDue := false, nakDue := false
                   wire := x.wire ++ [if o.bad then { f with crc := ~~~f.crc } else f] }

/-- Flits that wait on a port. -/
def Link.waiting (x : Link) : Nat := x.resend.length + ((x.queue.map fun e => e.2.length).sum)

/-- A port sends all that it may; while its width changes, or once it is lost, nothing (R42). -/
def Link.pump (x : Link) : Link :=
  if x.up && x.narrowing.isNone then (List.range x.waiting).foldl (fun x _ => x.sendOne) x else x

/-- An idle flit in window `now`, which carries the SEQ of the next flit and the acknowledgement that is due; it is not kept. -/
def Link.idle (x : Link) (now : Nat) : Flit := x.form { vc := 0, type := .idle, window := BitVec.ofNat 16 now, dest := x.peerChip, payload := List.replicate 240 0 }

/-- A port answers what it has received: with the flits it has to send, or with an idle flit (R39, R41). -/
def Link.respond (x : Link) (now : Nat) : Link :=
  let y := x.pump
  if y.up && y.narrowing.isNone && (y.ackDue || y.nakDue) then { y with wire := y.wire ++ [y.idle now], ackDue := false, nakDue := false } else y

/-- A flit joins a VC of a port. -/
def Link.enqueue (x : Link) (o : Outgoing) : Link :=
  Link.pump { x with queue := x.queue.put o.vc.toNat (x.queue.get [] o.vc.toNat ++ [o]) }

/-- A flit of the device joins a VC of a port; a data flit is the event of an injection that a ring has armed there (R172). -/
def State.queueOn (s : State) (p : LinkId) (o : Outgoing) : State :=
  let (hit, s1) :=
    if o.type = .data then
      (List.range 32).foldl (fun (a : Bool × State) r => let (b, t) := a.2.inject r 4 p.val; (a.1 || b, t)) (false, s)
    else (false, s)
  s1.setLink p.val ((s1.link p.val).enqueue { o with bad := hit })

/-! ## The choice of a route (R50, R52) -/

/-- A list begun at a place. -/
def rotate {α : Type} (l : List α) (n : Nat) : List α := l.drop n ++ l.take n

/-- The route of the next flit to a chip on a VC. In window mode it is the first that is left; in flush mode the next in turn whose port
has a credit, and the turn moves on. -/
def State.pickRoute (s : State) (chip : BitVec 16) (vc : BitVec 2) : Option (List (BitVec 16 × LinkId)) × State :=
  let live := s.liveRoutes chip
  if !s.dev.flush then (live.head?, s)
  else
    let n := s.dev.spray.get 0 chip.toNat % live.length
    let open' (l : List (BitVec 16 × LinkId)) : Bool := match ownPort l with | some p => (s.link p.val).hasCredit vc | none => false
    match ((rotate live n).find? open').orElse fun _ => (rotate live n).head? with
    | none => (none, s)
    | some l => (some l, s.modDev fun d => { d with spray := d.spray.put chip.toNat (live.idxOf l + 1) })

/-- A flit of the device's own for a chip, of a payload that the spec does not lay out (log 75): the route it takes, and the state. -/
def State.flitTo (s : State) (chip : BitVec 16) (vc : BitVec 2) (type : FlitType) :
    List (BitVec 16 × LinkId) × State :=
  match s.pickRoute chip vc with
  | (none, s1) => ([], s1)
  | (some l, s1) =>
    match ownPort l with
    | none => (l, s1)
    | some p =>
      let o : Outgoing := { vc := vc, type := type, window := BitVec.ofNat 16 s.curWindow, dest := chip, payload := s.freeBytes 240 }
      (l, { (s1.queueOn p o) with freeCtr := s.freeCtr + 240 })

/-- A flush marker on every route to a chip, whether or not VC 2 has a credit on it now: one that has none waits its turn there (R50). -/
def State.markFlits (s : State) (chip : BitVec 16) : State :=
  (s.liveRoutes chip).foldl (fun s l =>
    match ownPort l with
    | none => s
    | some p =>
      let o : Outgoing := { vc := 2, type := .control, window := BitVec.ofNat 16 s.curWindow, dest := chip, payload := s.freeBytes 240 }
      { (s.queueOn p o) with freeCtr := s.freeCtr + 240 }) s

/-! ## Notices -/

/-- The VC of a notice (R40). -/
def Notice.vc : Notice → BitVec 2
  | .grant .. | .answer .. | .gathered _ => 1
  | _ => 2

/-- A notice leaves: on its port, along the route to its chip, or to every chip of the route table. -/
def State.notify (s : State) (to' : Recipient) (n : Notice) : State :=
  let type : FlitType := if n.vc = 2 then .control else .data
  let s1 := s.modDev fun d => { d with sent := d.sent ++ [(to', n)] }
  match to' with
  | .port p =>
    let o : Outgoing := { vc := n.vc, type := type, window := BitVec.ofNat 16 s.curWindow, dest := (s.link p.val).peerChip, payload := s.freeBytes 240 }
    { (s1.queueOn p o) with freeCtr := s.freeCtr + 240 }
  | .chip c => (s1.flitTo c n.vc type).2
  | .all => s.dev.routes.foldl (fun s e => (s.flitTo e.1 n.vc type).2) s1

/-! ## Seals of links (R48) -/

/-- The windowed VCs. -/
def windowedVcs : List (BitVec 2) := [0, 1, 3]

/-- The window whose low 16 bits a flit carries: the latest that is not past the next one. -/
def State.fullWindow (s : State) (w : BitVec 16) : Nat :=
  let top := s.curWindow + 1
  top - (BitVec.ofNat 16 top - w).toNat

/-- Windows that every live die has left. -/
def State.leftByAll (s : State) : Nat :=
  (((List.range 8).filter fun d => s.dev.live.getLsbD d).map fun d => (s.die d).left).foldl min s.curWindow

/-- The inputs that feed a port's VC: those that are up and that the topology leads to it, and those from which a flit of the VC has gone on
there (R48, log 98). -/
def State.feeders (s : State) (q : LinkId) (vc : BitVec 2) : List LinkId :=
  (List.finRange 16).filter fun p => p != q && (s.link p.val).up && (Config.feeds p.val q.val || (s.link q.val).fedBy.contains (p, vc))

/-- Windows that a port may seal on a VC: the dies have left them, and seals for them have come on each input that feeds it. -/
def State.mayClose (s : State) (q : LinkId) (vc : BitVec 2) : Nat :=
  ((s.feeders q vc).map fun p => (s.link p.val).sealIn.get 0 vc.toNat).foldl min s.leftByAll

/-- The seals that a port owes on a VC follow what has been queued there before; WINDOW of a seal is the window that it closes (log 98). -/
def State.closeWindows (s : State) (q : LinkId) (vc : BitVec 2) : State :=
  let x := s.link q.val
  let first := x.sealOut.get 0 vc.toNat
  let n := s.mayClose q vc
  if !x.up || s.dev.flush || n ≤ first then s
  else
    let closing (k : Nat) : Outgoing := { vc := vc, type := .seal, window := BitVec.ofNat 16 (first + k), dest := x.peerChip, payload := List.replicate 240 0 }
    let y := (List.range (n - first)).foldl (fun x k => x.enqueue (closing k)) x
    s.setLink q.val { y with sealOut := y.sealOut.put vc.toNat n }

/-- Every seal that is owed leaves. -/
def State.sendSeals (s : State) : State :=
  (List.finRange 16).foldl (fun s q => windowedVcs.foldl (fun s vc => s.closeWindows q vc) s) s

/-- Windows begin to be sealed from now on: a mode takes effect. -/
def Link.openWindows (x : Link) (n : Nat) : Link :=
  { x with sealIn := [(0, n), (1, n), (3, n)], sealOut := [(0, n), (1, n), (3, n)] }

/-- A flit for another chip goes on along the route to it, behind what the output holds. -/
def State.relay (s : State) (p : LinkId) (f : Flit) : State :=
  match (s.routeOf f.dest).bind ownPort with
  | none => s
  | some q =>
    let s1 := s.queueOn q { vc := f.vc, type := f.type, window := f.window, dest := f.dest, payload := f.payload }
    let x := s1.link q.val
    if x.fedBy.contains (p, f.vc) then s1 else s1.setLink q.val { x with fedBy := (p, f.vc) :: x.fedBy }

end Sys2Proof.Machine
end

