-- ==== Sys2Proof/Machine/Ops.lean ====
section
/-!
DEFINITION. The named operations of the machine: time and clocks (R45, R54), egress records (R80, R82), taking a cause
(R154 to R160), physical addresses (R30, R31) and translation (R109 to R117).
-/

namespace Sys2Proof.Machine

abbrev Out := Host.Outcome State Fault Refusal

/-- A cause code (R155). -/
abbrev Cause := BitVec 6

/-! ## Time -/

/-- Ground time passes (R45). -/
def State.advance (s : State) (ns : Nat) : State := { s with gt := s.gt + BitVec.ofNat 64 ns }

/-- The clock of a P-state in MHz (R54). -/
def mhz (p : BitVec 3) : Nat :=
  match p.toNat with
  | 0 => 600 | 1 => 525 | 2 => 450 | 3 => 375 | 4 => 300 | 5 => 250 | 6 => 200 | _ => 150

/-- Whether a ring's arrays have their clock: a parked die's are off (R61). -/
def State.clocked (s : State) (r : Nat) : Bool :=
  let p := (s.die (r / 4)).pwr
  p == .running || p == .parking

/-- Clock progress of a ring up to now, in sixteen-thousandths of a cycle (R54, R56, log 2). -/
def State.ticksNow (s : State) (r : Nat) : Nat :=
  let x := s.ring r
  if s.clocked r then x.ticks + (s.gt - x.tickAt).toNat * mhz x.eff * x.duty else x.ticks

/-- Arithmetic-clock cycles of a ring. -/
def State.cycle (s : State) (r : Nat) : Nat := s.ticksNow r / 16000

/-- Cycles that count under R198 and R244. -/
def State.counted (s : State) (r : Nat) : Nat :=
  let x := s.ring r
  match x.pausedAt with
  | some c => c - x.paused
  | none => s.cycle r - x.paused

/-- The clock so far is put down before the rate of a ring changes. -/
def State.rebase (s : State) (r : Nat) : State :=
  s.modRing r fun x => { x with ticks := s.ticksNow r, tickAt := s.gt }

/-- The counts of R198 and R244 stand still from now. -/
def State.pause (s : State) (r : Nat) : State :=
  s.modRing r fun x => { x with pausedAt := some (x.pausedAt.getD (s.cycle r)) }

/-- They go on. -/
def State.unpause (s : State) (r : Nat) : State :=
  s.modRing r fun x =>
    match x.pausedAt with
    | some c => { x with paused := x.paused + (s.cycle r - c), pausedAt := none }
    | none => x

/-- REMAIN (R142). -/
def State.remain (s : State) (r : Nat) : Nat :=
  let l := (s.ring r).slice
  match l.remainAt with
  | some c => l.remain - (s.cycle r - c)
  | none => l.remain

/-! ## Performance counters (R398) -/

/-- Counters whose event is `e` count `n` more while ENABLE is set. -/
def Perf.bump (p : Perf) (e : BitVec 8) (n : Nat) : Perf :=
  let one (t : Tab Word) (i : Nat) : Tab Word :=
    if Tab.get 0 p.event i = e then Tab.put t i (Tab.get 0 t i + BitVec.ofNat 64 n) else t
  if p.enable then { p with count := (List.range 8).foldl one p.count } else p

/-- An event of a ring. -/
def State.event (s : State) (r : Nat) (e : BitVec 8) (n : Nat := 1) : State :=
  s.modSeqr r fun q => { q with perf := q.perf.bump e n }

/-! ## Egress (R79 to R82) -/

/-- Whether a queue can take records (R82). -/
def EgQueue.usable (q : EgQueue) : Bool :=
  6 ≤ q.log2n.toNat && q.log2n.toNat ≤ 16 && 2 ^ 51 ≤ q.base.toNat && q.base.toNat + 2 ^ q.log2n.toNat * 64 ≤ 2 ^ 52

/-- Records that stand in the queue, those on their way among them. -/
def EgQueue.used (q : EgQueue) : Nat := (q.prod - q.cons).toNat + q.lines.length

def EgQueue.room (q : EgQueue) : Bool := q.usable && q.used < 2 ^ q.log2n.toNat

/-- Held records, then waiting EGRs, go to the queue as far as it has room (R82). -/
def EgQueue.pump (q : EgQueue) : Nat → EgQueue
  | 0 => q
  | n + 1 =>
    if q.room then
      match q.held, q.waiting with
      | h :: t, _ => EgQueue.pump { q with held := t, lines := q.lines ++ [(h, none)] } n
      | [], (e, op) :: t => EgQueue.pump { q with waiting := t, lines := q.lines ++ [(e, some op)] } n
      | [], [] => q
    else q

def EgQueue.flow (q : EgQueue) : EgQueue := q.pump (q.held.length + q.waiting.length)

/-- A record is lost (R82). -/
def EgQueue.lose (q : EgQueue) : EgQueue :=
  { q with lost := true, lostCount := if q.lostCount = BitVec.allOnes 32 then q.lostCount else q.lostCount + 1 }

/-- A device-generated record (R82). -/
def EgQueue.post (q : EgQueue) (e : Egr) : EgQueue :=
  if q.room ∧ q.held = [] then { q with lines := q.lines ++ [(e, none)] }
  else if q.held.length < 16 then { q with held := q.held ++ [e] }
  else q.lose

def State.egq (s : State) : QueueId → EgQueue
  | .ctx c => (s.ctx c).egq
  | .dev => s.dev.events

def State.modEgq (s : State) (q : QueueId) (f : EgQueue → EgQueue) : State :=
  match q with
  | .ctx c => s.modCtx c fun x => { x with egq := f x.egq }
  | .dev => s.modDev fun d => { d with events := f d.events }

/-- A device-generated record of a context. -/
def State.postCtx (s : State) (c : Nat) (kind : BitVec 8) (a : BitVec 32) (b : List Byte) : State :=
  s.modCtx c fun x => { x with egq := x.egq.post { kind := kind, ctx := BitVec.ofNat 16 c, a := a, b := b } }

/-- A record of the device event queue. -/
def State.postDev (s : State) (kind : BitVec 8) (a : BitVec 32) (b : List Byte) : State :=
  s.modDev fun d => { d with events := d.events.post { kind := kind, ctx := 0xFFFF, a := a, b := b } }

/-- A FAULT record (R80, R159); a context that is being torn down posts none (R140). -/
def State.postFault (s : State) (c r : Nat) (cause : Cause) (block va : Word) : State :=
  if (s.ctx c).closing then s
  else s.postCtx c 0x03 (BitVec.ofNat 32 (cause.toNat + 256 * r)) (bytesLE 8 block.toNat ++ bytesLE 8 va.toNat)

/-! ## Physical addresses (R30 to R32) -/

def hostBase : Nat := 2 ^ 51
def homeSize : Nat := 0xC00000000
def stripedBase : Nat := 0x8000000000

/-- Where a physical address lives, or the cause that a use of it traps with (R30, R32). -/
def State.locate (s : State) (pa : Nat) : Except Cause (Nat × Home) :=
  let gib := 2 ^ 30
  let share := s.dev.share * gib
  let own := homeSize - share
  if hostBase ≤ pa then
    if pa < 2 ^ 52 then .ok (pa, .host) else .error 0x0D
  else if h : pa / homeSize < 8 then
    let d : DieId := ⟨pa / homeSize, h⟩
    if own ≤ pa % homeSize then .error 0x0D
    else if s.dev.fenced.getLsbD d then .error 0x0D
    else if s.dev.live.getLsbD d then .ok (pa, .die d) else .error 0x32
  else if stripedBase ≤ pa then
    let o := pa - stripedBase
    let n := s.dev.striped.length
    let c := o / 4096
    match s.dev.striped[c % n]? with
    | some d =>
      if o < n * share then
        if s.dev.live.getLsbD d then .ok (d.val * homeSize + own + c / n * 4096 + o % 4096, .die d) else .error 0x32
      else .error 0x0D
    | none => .error 0x0D
  else .error 0x0D

/-- TOUCHED_DIES gains the die of a home (R109). -/
def State.touch (s : State) (c : Nat) (h : Home) : State :=
  match h with
  | .die d => s.modCtx c fun x => { x with touched := x.touched ||| (1#8 <<< d.val) }
  | _ => s

/-! ## Translation (R111 to R114) -/

/-- What an access asks of its page (R113, check 4). -/
inductive Use where
  | read | write | exec
  deriving DecidableEq, Repr

/-- Checks 4 of R113 and the super rule of R108. -/
def Trans.permits (t : Trans) (super : Bool) (u : Use) : Bool :=
  (!t.s || super) &&
    (match u with
    | .read => true
    | .write => t.w
    | .exec => t.x)

/-- The levels of the tree: the lowest bit indexed, the number of index bits, and whether a leaf is allowed (R111). -/
def levels : List (Nat × Nat × Bool) := [(48, 9, false), (39, 9, false), (30, 9, true), (21, 9, true), (16, 5, true)]

/-- Whether a place lies in a stack that takes no reads now (R416). -/
def State.heldKey (s : State) (key : Nat) : Bool := key < 8 * homeSize && (s.die (key / homeSize)).hold

/-- No cause, for a read that its stack holds back: what asked for it waits (R416). -/
def heldRead : Cause := 0

/-- What a walk gives: where the nodes that it read live, the non-leaf entries it followed, and the leaf or the cause of its first failure. -/
structure Walked where
  homes : List Home := []
  nodes : List NodeEntry := []
  res : Except Cause Trans

/-- A walk (R111 to R113) from a node of the first of the levels left. `lo` of the last level is 16. -/
def State.walkFrom (s : State) (c : CtxId) (va : Nat) : List (Nat × Nat × Bool) → Nat → Walked
  | [], _ => { res := .error 0x02 }
  | (lo, bits, leafOk) :: rest, node =>
    match s.locate node with
    | .error e => { res := .error e }
    | .ok (key, home) =>
      if home = .host then { res := .error 0x0D }
      else if s.heldKey key then { res := .error heldRead }
      else
        let key := key + 8 * (va / 2 ^ lo % 2 ^ bits)
        let stop (r : Except Cause Trans) : Walked := { homes := [home], res := r }
        if s.poisoned key 8 then stop (.error 0x0E)
        else
          let e := BitVec.ofNat 64 (s.load key 8)
          let adr := (e.extractLsb' 8 44 ++ (0#8)).toNat
          let leaf := e.getLsbD 1
          if !e.getLsbD 0 then stop (.error 0x09)
          else if e.extractLsb' 52 12 != 0 || e.extractLsb' 5 3 != 0 then stop (.error 0x02)
          else if leaf then
            if !leafOk || adr % 2 ^ lo != 0 then stop (.error 0x02)
            else if e.getLsbD 2 && e.getLsbD 3 then stop (.error 0x0B)
            else stop (.ok { ctx := c, page := va / 2 ^ lo, size := lo, base := adr, s := e.getLsbD 4, w := e.getLsbD 2, x := e.getLsbD 3 })
          else if rest.isEmpty then stop (.error 0x02)
          else if rest.length != 1 && e.extractLsb' 8 4 != 0 then stop (.error 0x02)
          else
            let w := s.walkFrom c va rest adr
            { w with homes := home :: w.homes, nodes := { ctx := c, lo := lo, tag := va / 2 ^ lo, node := adr } :: w.nodes }

/-- The lowest non-leaf entry that a die's walk cache holds for an address (R114). -/
def Die.nodeFor (x : Die) (c : CtxId) (va : Nat) : Option NodeEntry :=
  (levels.reverse.findSome? fun l => x.wcache.find? fun n => n.ctx == c && n.lo == l.1 && n.tag == va / 2 ^ l.1)

/-- A walk of a die for an address below 2^57: from the lowest entry of its walk cache, else from CTX_PTBASE. -/
def State.walk (s : State) (d : Nat) (c : CtxId) (va : Word) : Walked :=
  match (s.die d).nodeFor c va.toNat with
  | some n => s.walkFrom c va.toNat (levels.filter (·.1 < n.lo)) n.node
  | none => s.walkFrom c va.toNat levels (s.ctx c).ptbase.toNat

/-! ## Causes (R154 to R160) -/

/-- The class of a cause (R155). -/
def causeClass (c : Cause) : CauseClass :=
  match c.toNat with
  | 0x00 => .none
  | 0x14 | 0x2E | 0x34 | 0x35 => .info
  | 0x09 => .serviceable
  | 0x0E | 0x32 | 0x33 | 0x36 | 0x3E | 0x3F => .contained
  | _ => .halting

/-- H before C before S (R156). -/
def CauseClass.rank : CauseClass → Nat
  | .none => 0 | .info => 1 | .serviceable => 2 | .contained => 3 | .halting => 4

def CauseClass.max (a b : CauseClass) : CauseClass := if a.rank < b.rank then b else a

/-- ENGINE of a stop record (R158). -/
def Engine.code : Engine → BitVec 8
  | .sequencer => 0x00
  | .fabric => 0x01
  | .walker .inbound p => BitVec.ofNat 8 (0x08 + p.val)
  | .walker .outbound p => BitVec.ofNat 8 (0x10 + p.val)
  | .shuttle ch => BitVec.ofNat 8 (0x20 + ch.val)
  | .prefetch => 0x30
  | .dispatcher => 0x31
  | .eyelet => 0x32

/-- RING of a stop record: the dispatcher names none (R158). -/
def Engine.ringNo (e : Engine) (r : Nat) : Nat :=
  match e with
  | .dispatcher => 0xFF
  | _ => r

/-- Rings where a context has a current or staged task (R157). -/
def State.ctxRings (s : State) (c : Nat) : List Nat :=
  (List.range 32).filter fun r =>
    let x := s.ring r
    (match x.cur with | some t => t.ctx.val == c | none => false) ||
      (match x.staged with | some g => g.task.ctx.val == c | none => false)

/-- Rings whose engines run a task of a context: those that a halt of it stops (R157). -/
def State.runRings (s : State) (c : Nat) : List Nat :=
  (List.range 32).filter fun r => match (s.ring r).cur with | some t => t.ctx.val == c | none => false

/-- Causes of an access that did not perform (R158, RETRY); the dispatcher takes DIE_LOST and LINK_LOST for no access of its own. -/
def accessCause (e : Engine) (c : Cause) : Bool :=
  match c.toNat with
  | 0x09 | 0x0A | 0x0B | 0x0C | 0x0D | 0x0E | 0x0F | 0x11 | 0x3B => true
  | 0x32 | 0x33 => e != .dispatcher
  | _ => false

/-- Whether a walk of an address fails with a cause: a cause that words take too is one of an access only then (R113). -/
def State.walkFails (s : State) (d : Nat) (c : Nat) (va : Word) (cause : Cause) : Bool :=
  match (s.walk d (Fin.ofNat 64 c) va).res with
  | .error e => e == cause
  | .ok _ => false

/-- RETRY: the faulting access did not perform (R158). -/
def State.unperformed (s : State) (c : Nat) (e : Engine) (r : Nat) (cause : Cause) (va : Word) : Bool :=
  accessCause e cause || (cause == 0x02 && s.walkFails (ringDie r) c va cause)

/-- A stop record of an engine of a context at its stop (R158). COUNTERS are the device's own (log 15). -/
def State.stopRec (s : State) (c : Nat) (e : Engine) (r : Nat) (cause : Cause) (primary : Bool) (block va : Word) : StopRec :=
  let q := (s.ring r).seqr
  { engine := e.code, cause := cause, primary := primary, retry := s.unperformed c e r cause va, ring := BitVec.ofNat 8 (e.ringNo r),
    block := block, va := va, counters := Config.freeWord s.freeCtr, issued := q.issued, done := q.done }

/-- The virtual address of a template (R212): the window is the last MiB of space g. -/
def templateVa (k : Nat) : Word := BitVec.ofNat 64 (2 ^ 57 - 2 ^ 20 + 256 * k)

/-- The engines of a ring that a halt stops, with the address each one's record gives (R157, R158). -/
def Ring.engines (x : Ring) : List (Engine × Word) :=
  [(.sequencer, match x.seqr.blk with | some b => b.addr | none => x.seqr.pc)] ++
  (match x.eng.fabric with | some f => [(.fabric, f.image)] | none => []) ++
  ((List.finRange 8).filterMap fun p => ((x.eng.inWalkers.find? (·.1 == p.val)).map fun w => (.walker .inbound p, w.2.desc))) ++
  ((List.finRange 8).filterMap fun p => ((x.eng.outWalkers.find? (·.1 == p.val)).map fun w => (.walker .outbound p, w.2.desc))) ++
  ((List.finRange 16).filterMap fun ch =>
    match (x.eng.chans.find? (·.1 == ch.val)).bind (·.2.run) with
    | some c => some (.shuttle ch, templateVa c.template.toNat)
    | none => none)

/-- The uncommitted block of a ring goes; its value-returning operations leave the machine (R240, R301). -/
def Seqr.discard (q : Seqr) : Seqr :=
  let gone := (q.ops.filter (!·.committed)).map (·.id)
  let ops := (q.ops.filter (·.committed)).map fun o => { o with snap := o.snap.filter (!gone.contains ·) }
  match q.blk with
  | some b => { q with blk := none, pc := b.addr, ops := ops }
  | none => { q with ops := ops }

/-- A ring stops under its context's halt line (R157): REMAIN and the counts stand still (R142, R244), and a save or a rollback is
given up (R148, R173). -/
def State.stopRing (s : State) (r : Nat) : State :=
  let m := s.remain r
  ((s.pause r).modRing r fun x =>
    { x with slice := { x.slice with remain := m, remainAt := none }, saving := none
             eng := { x.eng with fabric := x.eng.fabric.map fun f => { f with rollback := none } } }).modSeqr r Seqr.discard

/-- Gang identifiers of the tasks that a context holds, running, staged or saved, and of its records that have not ended (R138, R160). -/
def State.gangIds (s : State) (c : Nat) : List Word :=
  let ts := (List.range 32).flatMap fun r =>
    let x := s.ring r
    x.cur.toList ++ x.staged.toList.map (·.task) ++ x.saved.map (·.task)
  let tasks := (ts.filter fun t => t.ctx.val == c).map (·.gangId)
  let records := ((s.ctx c).table.filter fun p => p.done.isEmpty && !p.retired).map (·.gangId)
  ((tasks ++ records).filter (· != 0)).dedup

/-- The counts of a context's operations on rings that do not run it stand still from now (R244). -/
def State.holdOps (s : State) (c : Nat) (rings : List Nat) : State :=
  ((List.range 32).filter (!rings.contains ·)).foldl (fun s k =>
    s.modSeqr k fun q => { q with ops := q.ops.map fun o => if o.ctx.val == c then { o with heldAt := some (o.heldAt.getD (s.cycle k)) } else o }) s

/-- They go on. -/
def State.freeOps (s : State) (c : Nat) : State :=
  (List.range 32).foldl (fun s k =>
    s.modSeqr k fun q =>
      { q with ops := q.ops.map fun o =>
          match o.heldAt with
          | some n => if o.ctx.val == c then { o with since := o.since + (s.cycle k - n), heldAt := none } else o
          | none => o }) s

/-- DIVERGED is set for the context that replay names (R86). -/
def Dev.diverged (d : Dev) : Dev := { d with repDiverged := true, repStopped := if d.repDiverged then d.repStopped else some d.repCtx }

/-- A fault of a context whose tokens and starts are replayed (R86). -/
def State.replayFault (s : State) (c : Nat) : State :=
  if s.dev.repActive && s.dev.repCtx.val == c then s.modDev Dev.diverged else s

/-- A context halts (R156 to R160). The fault registers are of a ring, so a record of the dispatcher, which names none, leaves them (R159). -/
def State.haltCtx (s : State) (c r : Nat) (e : Engine) (cause : Cause) (block va : Word) : State :=
  let cls := causeClass cause
  let first := s.stopRec c e r cause true block va
  let rings := s.runRings c
  let others := rings.flatMap fun k =>
    ((s.ring k).engines.filter fun p => !(k == r && p.1 == e)).map fun p => s.stopRec c p.1 k 0 false p.2 0
  let gangs := s.gangIds c
  let s1 := (rings.foldl State.stopRing s).holdOps c rings
  let regs : FaultRegs := { cause := cause.setWidth 64, block := block, va := va, engine := BitVec.ofNat 64 (e.code.toNat + 256 * e.ringNo r) }
  let s2 := s1.modCtx c fun x =>
    { x with halted := true, haltClass := cls, stops := first :: others, fault := if e = .dispatcher then x.fault else x.fault.put r regs }
  let s3 := s2.replayFault c
  ((gangs.foldl (fun s g => s.notify .all (.halt g)) s3).postFault c (e.ringNo r) cause block va).useFree

/-- Whether a stop record says that an engine of a ring stopped without a fault (R118). -/
def StopRec.restsOf (k : StopRec) (e : Engine) (r : Nat) : Bool := k.engine == e.code && k.ring.toNat == e.ringNo r && k.cause == 0

/-- A cause that joins the halt that is up and raises its class: it stands in the record of the engine that took it (R156, R173). -/
def State.joinHalt (s : State) (c r : Nat) (e : Engine) (cause : Cause) (block va : Word) : State :=
  let k := s.stopRec c e r cause false block va
  (s.modCtx c fun x =>
    { x with haltClass := x.haltClass.max (causeClass cause)
             stops := if x.stops.any (·.restsOf e r) then x.stops.map fun l => if l.restsOf e r then k else l else x.stops ++ [k] }).replayFault c

/-- A cause taken by a context (R154): an informational one only posts its record; any other halts the context, or joins
the halt that is up. -/
def State.raise (s : State) (c r : Nat) (e : Engine) (cause : Cause) (block va : Word) : State :=
  match causeClass cause with
  | .none => s
  | .info => s.postFault c (e.ringNo r) cause block va
  | _ =>
    if (s.ctx c).halted then (s.joinHalt c r e cause block va).postFault c (e.ringNo r) cause block va
    else s.haltCtx c r e cause block va

/-! ## Host registers -/

/-- A control-window write has its effect once DEV_READY is set (R67). -/
def State.atReady (s : State) (f : State → State) : Out := if s.dev.ready then .next (f s) else .next s

/-! ## What runs -/

/-- The task that a ring's engines run now: none while its context is halted or closing, its die is stopped, or it is
being saved (R107, R147, R157). -/
def State.running (s : State) (r : Nat) : Option Task :=
  let x := s.ring r
  let d := s.die (ringDie r)
  match x.cur with
  | some t =>
    let c := s.ctx t.ctx
    if c.halted || c.closing || x.saving.isSome || d.tstop || d.pwr != .running || d.rst != .idle then none else some t
  | none => none

/-- The context whose copies a ring moves: that of its task, or once the task has ended that of the context resident there (R125, R150,
R157). -/
def State.served (s : State) (r : Nat) : Option CtxId :=
  let x := s.ring r
  match x.cur, x.resident with
  | some _, _ => (s.running r).map (·.ctx)
  | none, some c =>
    let d := s.die (ringDie r)
    if (s.ctx c).halted || (s.ctx c).closing || x.saving.isSome || d.tstop || d.pwr != .running || d.rst != .idle then none else some c
  | none, none => none

/-- A cause taken by an engine of a ring that runs a task. -/
def State.trapOn (s : State) (r : Nat) (e : Engine) (cause : Cause) (block va : Word) : State :=
  match (s.ring r).cur with
  | some t => s.raise t.ctx r e cause block va
  | none => s

/-- A cause raised by the sequencer's block: FAULT_BLOCK is its header's address (R294, R301). -/
def State.trapSeq (s : State) (r : Nat) (cause : Cause) (va : Word) : State :=
  let q := (s.ring r).seqr
  s.trapOn r .sequencer cause (match q.blk with | some b => b.addr | none => q.pc) va

/-- A cause raised in a cell or by the scroll controller: the fabric's record names the pattern image (R294, R383). -/
def State.trapFabric (s : State) (r : Nat) (cause : Cause) (va : Word := 0) : State :=
  s.trapOn r .fabric cause (match (s.ring r).eng.fabric with | some f => f.image | none => 0) va

/-! ## Translation by what is cached, and accesses (R113, R114) -/

/-- A cached translation of an address in a list of them. -/
def findTrans (l : List Trans) (c : CtxId) (va : Word) : Option Trans :=
  l.find? fun t => t.ctx == c && va.toNat / 2 ^ t.size == t.page

/-- The ring's cache, then the die's (R114). -/
def State.cached (s : State) (r : Nat) (c : CtxId) (va : Word) : Option Trans :=
  match findTrans (s.ring r).tlb c va with
  | some t => some t
  | none => findTrans (s.die (ringDie r)).tcache c va

/-- What a walk found enters its die's caches: the leaf of 4,096, and the non-leaf entries (R114). -/
def State.installDie (s : State) (d : Nat) (t : Trans) (nodes : List NodeEntry) : State :=
  s.modDie d fun x =>
    { x with tcache := (t :: x.tcache.filter (· != t)).take 4096, wcache := nodes ++ x.wcache.filter (!nodes.contains ·) }

/-- The leaf enters the ring's cache of 256 entries too (R114). -/
def State.install (s : State) (r : Nat) (t : Trans) (nodes : List NodeEntry) : State :=
  (s.modRing r fun x => { x with tlb := (t :: x.tlb.filter (· != t)).take 256 }).installDie (ringDie r) t nodes

/-- The physical address under a translation, checked (checks 4 and 5 of R113). A user access through an entry with S set takes 0x0A,
as R113 says, where R108 says 0x08 (log 80). -/
def State.through (s : State) (t : Trans) (super : Bool) (u : Use) (va : Word) : Except Cause (Nat × Home) :=
  if t.permits super u then s.locate (t.base + va.toNat % 2 ^ t.size) else .error 0x0A

/-- The result of asking for a translation: a cause, a miss, or a place. -/
inductive Found where
  | cause (c : Cause)
  | miss
  | place (key : Nat) (home : Home)
  deriving DecidableEq, Repr

/-- A translation that the ring's cache lacks and the die's holds enters the ring's (R98, R114); a miss of the ring's cache is an event (R398). -/
def State.fromDie (s : State) (r : Nat) (c : CtxId) (va : Word) : State :=
  match findTrans (s.ring r).tlb c va with
  | some _ => s
  | none =>
    let s1 := s.event r 0x06
    match findTrans (s.die (ringDie r)).tcache c va with
    | some t => s1.modRing r fun x => { x with tlb := (t :: x.tlb.filter (· != t)).take 256 }
    | none => s1

/-- Translation by what is cached (R114). -/
def State.lookup (s : State) (r : Nat) (c : CtxId) (va : Word) (u : Use) : Found :=
  match s.cached r c va with
  | none => .miss
  | some t =>
    match s.through t (s.ring r).seqr.priv u va with
    | .error e => .cause e
    | .ok (k, h) => .place k h

/-- A miss joins the ring's queue of up to 256; misses of one page are one (R114). -/
def State.miss (s : State) (r : Nat) (c : CtxId) (va : Word) (u : Use) (e : Engine) (block : Word) : State :=
  let m : Miss := { ctx := c, va := va, write := u == .write, engine := e, block := block, arrived := s.gt.toNat }
  let x := s.ring r
  if x.misses.any (fun n => n.ctx == c && n.va.toNat / 2 ^ 16 == va.toNat / 2 ^ 16 && n.engine == e) then s
  else if x.misses.length < 256 then (s.setRing r { x with misses := x.misses ++ [m] }).event r 0x06
  else s

/-- What an access that is translated leaves: the die that it touches (R109), and the entry that the ring has from its die's cache. -/
def State.reached (s : State) (r : Nat) (c : CtxId) (va : Word) (h : Home) : State := (s.fromDie r c va).touch c h

/-- TOUCHED_DIES gains the dies of several homes. -/
def State.touchAll (s : State) (c : Nat) (l : List Home) : State := l.foldl (fun s h => s.touch c h) s

/-- An access through a translation: its die is touched as the translation completes (R109). -/
def State.passThrough (s : State) (c : CtxId) (t : Trans) (super : Bool) (u : Use) (va : Word) : State × Except Cause (Nat × Home) :=
  match s.through t super u va with
  | .error e => (s, .error e)
  | .ok (k, h) => (s.touch c h, .ok (k, h))

/-- An access through a walk by a die: the dies of the nodes that it read are touched even where it fails (R109), and only a walk without a
fault installs what it found, by `inst` (R114). -/
def State.walkThrough (s : State) (d : Nat) (c : CtxId) (super : Bool) (u : Use) (va : Word)
    (inst : State → Trans → List NodeEntry → State) : State × Except Cause (Nat × Home) :=
  let w := s.walk d c va
  let s1 := s.touchAll c w.homes
  match w.res with
  | .error e => (s1, .error e)
  | .ok t =>
    match s1.passThrough c t super u va with
    | (s2, .error e) => (s2, .error e)
    | (s2, .ok p) => (inst s2 t w.nodes, .ok p)

/-- A translation for a ring's own engines, made inside one whole step: by what is cached, else by a walk (R110, R114). -/
def State.translate (s : State) (r : Nat) (c : CtxId) (va : Word) (u : Use) : State × Except Cause (Nat × Home) :=
  let super := (s.ring r).seqr.priv
  if 2 ^ 57 ≤ va.toNat then (s, .error 0x0D)
  else
    let s1 := s.fromDie r c va
    match s1.cached r c va with
    | some t => s1.passThrough c t super u va
    | none => s1.walkThrough (ringDie r) c super u va fun s t ns => s.install r t ns

/-- `n` bytes of a context's virtual memory inside one step: 64-byte pieces, each translated, with the cause of the first
failure; data that is uncorrectable fails with 0x0E (R164), and what its stack holds back waits (R416). -/
def State.fetchBytes (s : State) (r : Nat) (c : CtxId) (u : Use) : Nat → Word → Nat → State × Except (Cause × Word) (List Byte)
  | 0, _, _ => (s, .ok [])
  | _, _, 0 => (s, .ok [])
  | fuel + 1, va, n =>
    let k := min n (64 - va.toNat % 64)
    match s.translate r c va u with
    | (s1, .error e) => (s1, .error (e, va))
    | (s1, .ok (key, _)) =>
      if s1.heldKey key then (s1, .error (heldRead, va))
      else if s1.poisoned key k then (s1, .error (0x0E, va))
      else
        match State.fetchBytes s1 r c u fuel (va + BitVec.ofNat 64 k) (n - k) with
        | (s2, .error e) => (s2, .error e)
        | (s2, .ok bs) => (s2, .ok (s1.mem.bytes key k ++ bs))

/-- `n` bytes at an address, read whole. -/
def State.readVirt (s : State) (r : Nat) (c : CtxId) (va : Word) (n : Nat) (u : Use := .read) : State × Except (Cause × Word) (List Byte) :=
  s.fetchBytes r c u (n / 64 + 2) va n

/-- What reads or writes a context's memory inside one step: it may end in a cause with the address that VA names, and keeps what its
translations have touched and installed even then (R109). -/
abbrev Load := ExceptT (Cause × Word) (StateM State)

/-- A load from a state. -/
def Load.go {α : Type} (m : Load α) (s : State) : Except (Cause × Word) α × State := m s

/-- Bytes at an address, as a load. -/
def readBytes (r : Nat) (c : CtxId) (va : Word) (n : Nat) (u : Use := .read) : Load (List Byte) := fun s =>
  match s.readVirt r c va n u with
  | (s1, x) => (x, s1)

/-! ## The block in focus -/

/-- The ring that a unit belongs to. -/
def UnitId.ring : UnitId → Nat
  | .seq r => r
  | .cell r _ _ => r

/-- The number of a cell: stripe × 32 + column. -/
def cellNo (p j : Nat) : Nat := 32 * p + j

/-- The atomic block that a ring's sequencer has fetched. -/
def State.blk? (s : State) (r : Nat) : Option Blk := (s.ring r).seqr.blk

def State.setBlk (s : State) (r : Nat) (b : Blk) : State := s.modSeqr r fun q => { q with blk := some b }

end Sys2Proof.Machine
end

