-- ==== Sys2Proof/Machine/Links.lean ====
section
/-!
DEFINITION. The links of the fabric (R175): which FIFO, wrap buffer or port takes what a stripe sends, its room, and the
entry put there. A wrap buffer is kept by the absolute index of the configuration it is bound for (R191).
-/

namespace Sys2Proof.Machine

/-- Where an entry written to an out-port goes. -/
inductive Dest where
  | inlet (r p j : Nat) (port : InPort)
  | wrap (r a j : Nat)
  | edge (r p j n : Nat)
  | outPort (r n : Nat)
  deriving DecidableEq, Repr

/-- Data tokens among the entries of a FIFO; boundaries and markers take no slot (R186, R191). -/
def tokens : List Entry → Nat
  | [] => 0
  | .tok _ :: t => tokens t + 1
  | _ :: t => tokens t

def State.fabric (s : State) (r : Nat) : Option Fabric := (s.ring r).eng.fabric

def State.modFabric (s : State) (r : Nat) (f : Fabric → Fabric) : State :=
  s.modEng r fun e => { e with fabric := e.fabric.map f }

/-- Whether a ring's pattern has stopped at a wave (R146). -/
def State.atWave (s : State) (r : Nat) : Bool :=
  match s.fabric r with
  | some f => (s.ring f.lead).eng.forks.any fun k => k.op == f.op && k.waved.isSome
  | none => false

def Fabric.cell (f : Fabric) (p j : Nat) : Cell := f.cells.get {} (cellNo p j)

def Fabric.setCell (f : Fabric) (p j : Nat) (c : Cell) : Fabric := { f with cells := f.cells.put (cellNo p j) c }

def Fabric.stripe (f : Fabric) (p : Nat) : Stripe := f.stripes.get {} p

def Fabric.setStripe (f : Fabric) (p : Nat) (x : Stripe) : Fabric := { f with stripes := f.stripes.put p x }

/-- The key of a directory entry: virtual stripe and column (R183). -/
def configKey (v j : Nat) : Nat := 32 * v + j

/-- The virtual stripe of this ring's segment that absolute index `a` acts as (R184, R185, R196); in resident mode the indices past the last one
are bypass stripes. -/
def Fabric.vstripe (f : Fabric) (a : Nat) : Nat := if f.scroll then f.segFirst + a % f.segCount else f.segFirst + a

/-! ## Block stores and directories (R175, R183, R193) -/

/-- The number of words that a configuration takes in a block store (R175). -/
def Config.length (c : Config) : Nat := 34 + c.words.length + (if c.header.getLsbD 7 then 1 + c.pool.length else 0)

/-- The group of virtual stripes whose configurations share the block stores of one physical stripe (R193). -/
def Fabric.group (f : Fabric) (v : Nat) : Nat := if f.scroll then (v - f.segFirst) % Nat.gcd f.segCount f.p else v - f.segFirst

def Fabric.storeOf (f : Fabric) (v j : Nat) : List (Word × Config) := f.configs.get [] (32 * f.group v + j)

/-- The configuration that begins at a word of a block store. -/
def configAt : List (Word × Config) → Nat → Option Config
  | [], _ => none
  | (_, c) :: t, n => if n = 0 then some c else if n < c.length then none else configAt t (n - c.length)

/-- Where a store has the configuration of an address of the image; past its end where it has none. -/
def offsetOf (addr : Word) (c : Config) : List (Word × Config) → Nat
  | [] => 0
  | (a, k) :: t => if a = addr ∧ k = c then 0 else k.length + offsetOf addr c t

/-- A configuration enters the store of its cells, where one that is already there stands once, and the directory names it (log 90). -/
def Fabric.place (f : Fabric) (v j : Nat) (addr : Word) (c : Config) : Fabric :=
  let l := f.storeOf v j
  let held := l.any fun e => e.1 == addr && e.2 == c
  { f with configs := f.configs.put (32 * f.group v + j) (if held then l else l ++ [(addr, c)])
           dirs := f.dirs.put (configKey v j) (0x800#12 ||| BitVec.ofNat 12 (offsetOf addr c l)) }

/-- What the directory names for a virtual stripe in a column (R183). -/
def Fabric.configOf (f : Fabric) (v j : Nat) : Option Config :=
  let d := f.dirs.get 0 (configKey v j)
  if d.getLsbD 11 then configAt (f.storeOf v j) (d.toNat % 0x800) else none

/-- The configuration resident in a cell; none in a bypass cell (R182, R183). -/
def Fabric.config (f : Fabric) (p j : Nat) : Option Config :=
  let w := (f.stripe p).word
  if w.valid then f.configOf w.vstripe.toNat j else none

/-! ## Destinations -/

/-- Whether a configuration is in the window (R185). -/
def Fabric.inWindow (f : Fabric) (a : Nat) : Bool := f.oldest ≤ a && a < f.oldest + f.p

/-- The ring, and the absolute index there, of the successor of configuration `a` (R185, R196). -/
def State.successor (s : State) (r : Nat) (f : Fabric) (a : Nat) : Nat × Nat :=
  if f.nextRing.val == r || (a + 1) % f.segCount != 0 then (r, a + 1)
  else
    let run := a / f.segCount + (if f.segFirst + f.segCount == f.hdr.v then 1 else 0)
    match s.fabric f.nextRing with
    | some g => (f.nextRing.val, run * g.segCount)
    | none => (f.nextRing.val, run)

/-- Entries of a wrap buffer for configuration `a`, column `j`. -/
def wrapKey (a j : Nat) : Nat := 32 * a + j

def Fabric.wrapOf (f : Fabric) (a j : Nat) : List Entry := f.wraps.get [] (wrapKey a j)

/-- Data tokens that a column's wrap buffer holds (R191). -/
def Fabric.wrapTokens (f : Fabric) (j : Nat) : Nat :=
  ((f.wraps.filter fun e => e.1 % 32 == j).map fun e => tokens e.2).sum

/-- Where DOWN of stripe `p`, column `j` leads: UP of the next stripe, or a wrap buffer while the successor is not resident
or tokens bound for it still wait there (R175, R184, R191). -/
def State.downDest (s : State) (r : Nat) (f : Fabric) (p j : Nat) : Dest :=
  if f.scroll then
    let (r', a') := s.successor r f (f.stripe p).a
    match s.fabric r' with
    | some g =>
      if g.inWindow a' && (g.wrapOf a' j).isEmpty && r' == r then .inlet r' (a' % g.p) j .up else .wrap r' a' j
    | none => .wrap r' a' j
  else .inlet r ((p + 1) % f.p) j .up

/-- Where an out-port of a cell leads (R175, R176). -/
def State.outDest (s : State) (r : Nat) (f : Fabric) (p j : Nat) (cfg : Config) : OutPort → Dest
  | .down => s.downDest r f p j
  | .right => .inlet r p (j + 1) .left
  | .left => .inlet r p (j - 1) .right
  | .edge => .edge r p j (cfg.portWord.extractLsb' 24 3).toNat

def Cell.fifo (c : Cell) : InPort → List Entry
  | .up => c.up
  | .left => c.left
  | .right => c.right
  | .edge => c.edge

def Cell.setFifo (c : Cell) (q : InPort) (l : List Entry) : Cell :=
  match q with
  | .up => { c with up := l }
  | .left => { c with left := l }
  | .right => { c with right := l }
  | .edge => { c with edge := l }

/-- An EDGE link's entry is bound for an outbound port, from a virtual stripe. -/
def outKey (n v : Nat) : Nat := n + 8 * v

/-- The number of an in-port in the order of R177. -/
def inPortNo : InPort → Nat
  | .up => 0
  | .left => 1
  | .right => 2
  | .edge => 3

/-- An entry joins the tail of an in-port's FIFO in a cycle. -/
def Cell.push (c : Cell) (q : InPort) (e : Entry) (now : Nat) : Cell :=
  let c1 := c.setFifo q (c.fifo q ++ [e])
  if (c.fifo q).isEmpty then { c1 with headAt := c1.headAt.put (inPortNo q) now } else c1

/-- The head of an in-port's FIFO goes. -/
def Cell.pop (c : Cell) (q : InPort) (now : Nat) : Cell :=
  { c.setFifo q ((c.fifo q).drop 1) with headAt := c.headAt.put (inPortNo q) now }

/-- Depth of a link FIFO in tokens (R175). -/
def fifoDepth : InPort → Nat
  | .up => 8
  | .left => 4
  | .right => 4
  | .edge => 8

/-- Whether a destination has room for one more data token (R175, R191, R201). -/
def State.hasRoom (s : State) : Dest → Bool
  | .inlet r p j q =>
    match s.fabric r with
    | some f => tokens ((f.cell p j).fifo q) < fifoDepth q
    | none => false
  | .wrap r _ j =>
    match s.fabric r with
    | some f => f.wrapTokens j < f.hdr.q
    | none => false
  | .edge r p j _ =>
    match s.fabric r with
    | some f => tokens ((f.cell p j).out.map (·.2)) < fifoDepth .edge
    | none => false
  | .outPort r n =>
    match (s.ring r).eng.outPorts.look n with
    | some o => tokens o.fifo < o.cap
    | none => false

/-- A token's data in scratch: the place of the `n`-th token of a circular buffer of `cap` places (R191, R201). -/
def State.bufferToken (s : State) (r first cap n : Nat) (e : Entry) : State :=
  match e with
  | .tok t => s.store (cellsAt (poolKey r (first + 64 * (n % cap))) (bytesLE 64 t.data.toNat))
  | _ => s

/-- The first byte of a column's wrap buffer (R191): Q token places, then the pass entry. -/
def PatHdr.wrapBase (h : PatHdr) (j : Nat) : Nat := 0x10000 * h.wrap + j * (h.q + 4) * 64

/-- Whether an entry is a data token. -/
def Entry.isTok : Entry → Bool
  | .tok _ => true
  | _ => false

/-- An entry joins a column's wrap buffer. -/
def State.wrapPut (s : State) (r a j : Nat) (e : Entry) : State :=
  match s.fabric r with
  | none => s
  | some f =>
    let n := f.wrapped.get 0 j
    let s1 := s.modFabric r fun f =>
      { f with wraps := f.wraps.put (wrapKey a j) (f.wrapOf a j ++ [e]), wrapped := if e.isTok then f.wrapped.put j (n + 1) else f.wrapped }
    s1.bufferToken r (f.hdr.wrapBase j) f.hdr.q n e

/-- An entry joins an outbound port. -/
def State.outPut (s : State) (r n : Nat) (e : Entry) : State :=
  match (s.ring r).eng.outPorts.look n with
  | none => s
  | some o =>
    let o1 := { o with fifo := o.fifo ++ [e], count := if e.isTok then o.count + 1 else o.count }
    (s.modEng r fun g => { g with outPorts := g.outPorts.put n o1 }).bufferToken r o.first o.cap o.count e

/-- An entry joins the tail of its destination. -/
def State.send (s : State) (e : Entry) : Dest → State
  | .inlet r p j q =>
    s.modFabric r fun f =>
      f.setCell p j ((f.cell p j).push q e (s.cycle r))
  | .wrap r a j => s.wrapPut r a j e
  | .edge r p j n =>
    s.modFabric r fun f =>
      let c := f.cell p j
      f.setCell p j { c with out := c.out ++ [(outKey n (f.stripe p).word.vstripe.toNat, e)] }
  | .outPort r n => s.outPut r n e

/-- Progress of the fabric: the counts of R198 and R244 begin anew. -/
def State.moved (s : State) (r : Nat) : State :=
  s.modFabric r fun f => { f with moved := s.counted f.lead, stirred := s.cycle f.lead }

end Sys2Proof.Machine
end

