-- ==== Sys2Proof/Machine/FabricOps.lean ====
section
/-!
DEFINITION. Shared operations of the fabric: the response of a cell or a clause to uncorrectable
data (R164, R168, R169), and the error bit of a knot (R165).
-/

namespace Sys2Proof.Machine

/-- A knot's error bit is set (R165). -/
def State.knotError (s : State) (r k : Nat) : State :=
  s.modRing r fun x => { x with knots := x.knots.put k { x.knots.get {} k with error := true } }

/-- The knot of a fork's error section, or the KNOT_ERROR cause where it has none (R164, R384). -/
def State.forkError (s : State) (r op : Nat) : State :=
  match ((s.ring r).eng.forks.find? fun f => f.op == op).bind (·.errKnot) with
  | some k => s.knotError r k.toNat
  | none => s.trapFabric r 0x27

/-- Rings that hold the segments of the pattern that a ring takes part in (R196). -/
def State.fabricRings (s : State) (r : Nat) : List Nat :=
  match s.fabric r with
  | some f => (List.range 32).filter fun k => match s.fabric k with | some g => g.lead == f.lead | none => false
  | none => []

/-- The pattern's fabrics all change. -/
def State.modFabrics (s : State) (r : Nat) (g : Fabric → Fabric) : State := (s.fabricRings r).foldl (fun s k => s.modFabric k g) s

/-- An error consumed in a clause, or a failed rate check: a rollback, or after three failed ones cause 0x36
(R168, R169). A pattern that already rolls back goes on doing so, and none starts while its context is halted (R173). -/
def State.clauseError (s : State) (r c : Nat) (trigger : Cause) : State :=
  match s.fabric r, (s.ring r).cur with
  | some f, some t =>
    if f.rollback.isSome || (s.ctx t.ctx).halted then s
    else
      match f.clauses[c]? with
      | none => s
      | some k =>
        let n := k.errors + 1
        let s1 := s.modFabrics r fun f =>
          { f with clauses := f.clauses.modify c fun k => { k with errors := n },
                   rollback := if n < 4 then some { trigger := trigger, clause := c } else f.rollback }
        if n < 4 then
          s1.raise t.ctx r .fabric 0x35 f.image
            (BitVec.ofNat 64 (trigger.toNat + 2 ^ 8 * (c % 64) + 2 ^ 32 * f.waveDone))
        else s1.trapFabric r 0x36
  | _, _ => s

/-- A data token enters or leaves a stripe of a ring (R170). -/
def State.countToken (s : State) (r p : Nat) (out : Bool) : State :=
  match s.fabric r with
  | some f =>
    let w := (f.stripe p).word
    if f.clauses.isEmpty || !w.valid then s
    else
      s.modFabric f.lead fun g =>
        { g with clauses := g.clauses.modify w.clause.toNat fun k =>
            if out then (if k.last = w.vstripe.toNat then { k with tokOut := k.tokOut + 1 } else k)
            else if k.first = w.vstripe.toNat then { k with tokIn := k.tokIn + 1 } else k }
  | none => s

/-- A cell consumes uncorrectable data (R164): its clause rolls back; outside clauses the data is used as read and the
error knot records it. -/
def State.cellError (s : State) (r p : Nat) : State :=
  match s.fabric r with
  | some f => if f.clauses.isEmpty then s.forkError f.lead f.op else s.clauseError r (f.stripe p).word.clause.toNat 0x0E
  | none => s

/-- The cell of a unit changes. -/
def State.modCell (s : State) (r p j : Nat) (g : Cell → Cell) : State :=
  s.modFabric r fun f => f.setCell p j (g (f.cell p j))

/-! ## The links to the outbound ports (R175, R194, R201) -/

/-- The columns of a stripe whose EDGE link holds a marker under a key: its port, and the virtual stripe that sends it. -/
def Fabric.markerCols (f : Fabric) (p k w : Nat) : List Nat := (List.range 32).filter fun i => (f.cell p i).out.contains (k, .marker w)

/-- The head of a cell's EDGE link goes on into its port: a token where the port has room, a marker once every cell of the stripe that sends it has
nothing before it. -/
def State.flowCell (s : State) (r p j : Nat) : Option State :=
  match s.fabric r with
  | none => none
  | some f =>
    let pop (s : State) (i : Nat) : State := s.modCell r p i fun c => { c with out := c.out.drop 1 }
    match (f.cell p j).out with
    | (k, .tok t) :: _ => if s.hasRoom (.outPort f.lead (k % 8)) then some ((pop s j).send (.tok t) (.outPort f.lead (k % 8))) else none
    | (k, .marker w) :: _ =>
      let cols := f.markerCols p k w
      if cols.all fun i => (f.cell p i).out.head? == some (k, .marker w) then some ((cols.foldl pop s).send (.marker w) (.outPort f.lead (k % 8))) else none
    | (_, .boundary) :: _ => some (pop s j)
    | [] => none

/-- Cells of a pattern whose EDGE links hold entries, by ring and number. -/
def State.edgeCells (s : State) (r : Nat) : List (Nat × Nat) :=
  (s.fabricRings r).flatMap fun k =>
    match s.fabric k with
    | some f => (f.cells.filter fun e => !e.2.out.isEmpty).map fun e => (k, e.1)
    | none => []

/-- Entries flow on from EDGE links until no head can (R175). -/
def State.flowSteps : Nat → State → Nat → State
  | 0, s, _ => s
  | fuel + 1, s, r =>
    match (s.edgeCells r).findSome? fun e => s.flowCell e.1 (e.2 / 32) (e.2 % 32) with
    | some s1 => State.flowSteps fuel s1 r
    | none => s

/-- Everything that an EDGE link of a ring's pattern can deliver reaches its port. -/
def State.flowOut (s : State) (r : Nat) : State :=
  State.flowSteps ((s.edgeCells r).map fun e => match s.fabric e.1 with | some f => (f.cell (e.2 / 32) (e.2 % 32)).out.length | none => 0).sum s r

end Sys2Proof.Machine
end

