-- ==== Sys2Proof/WellFormed.lean ====
section
/-!
DEFINITION. Which instruction terms have a meaning in the machine at all: the static checks that the types of
Syntax.lean do not already make (R289, R291, R293 to R295, R314, R315), and the bounds of the moves' operands.
-/

namespace Sys2Proof

/-- The kind of a block (R285): streaming blocks run in cells, atomic blocks on the sequencer. -/
inductive BlockKind where
  | streaming | atomic
  deriving DecidableEq, Repr

/-- The block kinds an opcode may stand in (R293). -/
inductive Domain where
  | c | s | cs
  deriving DecidableEq, Repr

/-- A consumer field other than slot T of index 127, which is the null target's code (R289). -/
def Target.ok : Target → Bool
  | .null => true
  | .to .t i => i != 127
  | .to _ _ => true

/-- Punctuation levels an instruction may name (R314, R315). -/
def levelOk (n : BitVec 3) : Bool := n != 7

/-- The checks on the fields of an instruction that hold in either kind of block: its word exists. -/
def Instr.wf : Instr → Bool
  | .punct _ _ n t1 t0 | .setpn _ _ n t1 t0 => levelOk n && t1.ok && t0.ok
  | .mov _ t1 t0 | .steer t1 t0 | .merge t1 t0 | .carry t1 t0 | .invar t1 t0 | .gate _ t1 t0 | .strip _ _ t1 t0
  | .add _ _ _ t1 t0 | .sub _ _ _ t1 t0 | .mul _ _ _ t1 t0 | .mulhs _ _ t1 t0 | .mulhu _ _ t1 t0 | .mad _ _ _ t1 t0
  | .neg _ _ _ t1 t0 | .abs _ _ _ t1 t0 | .mins _ _ t1 t0 | .minu _ _ t1 t0 | .maxs _ _ t1 t0 | .maxu _ _ t1 t0
  | .divs _ _ t1 t0 | .divu _ _ t1 t0 | .remu _ _ t1 t0
  | .and _ _ t1 t0 | .or _ _ t1 t0 | .xor _ _ t1 t0 | .andn _ _ t1 t0 | .not _ _ t1 t0
  | .shl _ _ t1 t0 | .shr _ _ t1 t0 | .sar _ _ t1 t0 | .rol _ _ t1 t0 | .clz _ _ t1 t0 | .popc _ _ t1 t0
  | .bfx _ _ t1 t0 | .bfi _ _ t1 t0
  | .cmpeq _ _ t1 t0 | .cmpne _ _ t1 t0 | .cmplt _ _ t1 t0 | .cmple _ _ t1 t0 | .cmpltu _ _ t1 t0 | .cmpleu _ _ t1 t0
  | .fcmpeq _ _ t1 t0 | .fcmplt _ _ t1 t0 | .fcmple _ _ t1 t0 | .fcmpun _ _ t1 t0
  | .sel _ _ t1 t0 | .pand _ _ t1 t0 | .por _ _ t1 t0 | .pnot _ _ t1 t0
  | .fadd _ _ t1 t0 | .fsub _ _ t1 t0 | .fmul _ _ t1 t0 | .fma _ _ t1 t0 | .fms _ _ t1 t0 | .fnma _ _ t1 t0
  | .fmin _ _ t1 t0 | .fmax _ _ t1 t0 | .fabs _ _ t1 t0 | .fneg _ _ t1 t0 | .fcpys _ _ t1 t0 | .frint _ _ _ t1 t0
  | .fscl _ _ t1 t0
  | .frcp _ _ t1 t0 | .frsq _ _ t1 t0 | .fsqrt _ _ t1 t0 | .fdiv _ _ t1 t0 | .fexp2 _ _ t1 t0 | .flog2 _ _ t1 t0
  | .fsin _ _ t1 t0 | .fcos _ _ t1 t0 | .ftanh _ _ t1 t0 | .fsigm _ _ t1 t0
  | .cvt _ _ t1 t0 | .cvtT _ t1 t0 | .cvtfi _ _ _ t1 t0 | .cvtif _ _ _ t1 t0 | .qblk _ _ t1 t0 | .scale _ _ _ t1 t0
  | .shuf _ t1 t0 | .bcast _ t1 t0 | .lrot _ t1 t0 | .redadd _ _ t1 t0 | .redmax _ _ t1 t0 | .redmin _ _ t1 t0
  | .scanadd _ _ t1 t0 | .pack _ _ _ t1 t0 | .unpack _ _ _ _ t1 t0 | .valid _ t1 t0 | .vmask _ _ t1 t0
  | .compact _ t1 t0 | .expand _ t1 t0 | .any _ t1 t0 | .all _ t1 t0 | .lext _ _ t1 t0
  | .mma _ _ t1 t0 | .mmat _ _ t1 t0 | .mdrain _ _ _ t1 t0
  | .crd _ t1 t0 | .cwr _ t1 t0 | .prd _ t1 t0 | .pwr _ t1 t0 | .fbits _ _ t1 t0 | .fget _ _ t1 t0
  | .read _ t1 t0 | .readv _ t1 t0 => t1.ok && t0.ok
  | .const _ t0 | .lit _ t0 | .addi _ _ t0 | .shli _ _ t0 | .shri _ _ t0 | .sari _ _ t0 | .cmpeqi _ _ t0
  | .cmplti _ _ t0 | .rdv _ _ t0 | .wait _ _ t0
  | .ld8 _ _ _ _ t0 | .ld16 _ _ _ _ t0 | .ld32 _ _ _ _ t0 | .ld64 _ _ _ _ t0 | .ldt _ _ _ _ t0 | .ldx64 _ _ _ _ t0
  | .aadd _ _ _ _ t0 | .amin _ _ _ _ t0 | .amax _ _ _ _ t0 | .aminu _ _ _ _ t0 | .amaxu _ _ _ _ t0 | .aand _ _ _ _ t0
  | .aor _ _ _ _ t0 | .axor _ _ _ _ t0 | .axchg _ _ _ _ t0 | .acas _ _ _ _ t0 | .afadd _ _ _ _ t0 | .afmax _ _ _ _ t0
  | .kwait _ _ _ _ t0 | .ktry _ _ _ _ t0 | .kread _ _ _ t0 | .lzresv _ _ _ t0 | .lzstat _ _ _ t0 | .lzstatZone _ _ _ t0
  | .enq _ _ _ t0 | .ingr _ _ _ t0 | .sysr _ _ t0 | .gtime _ t0 | .feat _ _ t0 | .perf _ _ t0 => t0.ok
  | .flitReceive _ f _ => f.payload.length == 240
  | .keySlotWrite _ off _ => off < 64 && off % 8 == 0
  | .thermAllowUpdate _ tj _ _ => tj.length == 4
  | _ => true

/-- The domain of a Hexek word (R293); a device move stands in no block. -/
def Instr.domain : Instr → Option Domain
  | .divs .. | .divu .. | .remu .. | .br .. | .call .. | .ret .. | .read .. | .readv .. | .write .. | .yield .. | .fork ..
  | .rdv .. | .trap .. | .eret .. | .brk .. | .wait .. | .done .. | .ld8 .. | .ld16 .. | .ld32 .. | .ld64 .. | .ldt ..
  | .ldx64 .. | .st8 .. | .st16 .. | .st32 .. | .st64 .. | .stt .. | .pref .. | .aadd .. | .amin .. | .amax .. | .aminu ..
  | .amaxu .. | .aand .. | .aor .. | .axor .. | .axchg .. | .acas .. | .afadd .. | .afmax .. | .kinit .. | .kadd ..
  | .kwait .. | .ktry .. | .kread .. | .lzresv .. | .lzresvDeclare .. | .lzrel .. | .lzrelRetire .. | .lzstat ..
  | .lzstatZone .. | .enq .. | .ingr .. | .egr .. | .sysr .. | .sysw .. | .gtime .. | .feat .. | .perf .. | .tlbinv .. =>
    some .s
  | .srseed .. | .shuf .. | .bcast .. | .lrot .. | .redadd .. | .redmax .. | .redmin .. | .scanadd .. | .pack ..
  | .unpack .. | .valid .. | .vmask .. | .compact .. | .expand .. | .mma .. | .mmat .. | .mzero .. | .mdrain ..
  | .mload .. | .mswap .. | .mscale .. | .mwaddr .. | .out .. | .crd .. | .cwr .. | .prd .. | .pwr .. | .fbits .. | .fget .. =>
    some .c
  | .mov .. | .steer .. | .merge .. | .carry .. | .invar .. | .gate .. | .sink .. | .punct .. | .setpn .. | .strip ..
  | .const .. | .lit .. | .add .. | .sub .. | .addi .. | .mul .. | .mulhs .. | .mulhu .. | .mad .. | .neg .. | .abs ..
  | .mins .. | .minu .. | .maxs .. | .maxu .. | .and .. | .or .. | .xor .. | .andn .. | .not .. | .shl .. | .shr ..
  | .sar .. | .rol .. | .shli .. | .shri .. | .sari .. | .clz .. | .popc .. | .bfx .. | .bfi .. | .cmpeq .. | .cmpne ..
  | .cmplt .. | .cmple .. | .cmpltu .. | .cmpleu .. | .cmpeqi .. | .cmplti .. | .fcmpeq .. | .fcmplt .. | .fcmple ..
  | .fcmpun .. | .sel .. | .pand .. | .por .. | .pnot .. | .fadd .. | .fsub .. | .fmul .. | .fma .. | .fms .. | .fnma ..
  | .fmin .. | .fmax .. | .fabs .. | .fneg .. | .fcpys .. | .frint .. | .fscl .. | .frcp .. | .frsq .. | .fsqrt ..
  | .fdiv .. | .fexp2 .. | .flog2 .. | .fsin .. | .fcos .. | .ftanh .. | .fsigm .. | .cvt .. | .cvtT .. | .cvtfi ..
  | .cvtif .. | .qblk .. | .scale .. | .any .. | .all .. | .lext .. => some .cs
  | _ => none

/-- Whether the domain lets the opcode stand in a block of the kind (R293). -/
def Domain.allows : Domain → BlockKind → Bool
  | .cs, _ => true
  | .c, .streaming => true
  | .s, .atomic => true
  | _, _ => false

/-- i64 is the sequencer's alone (R291). -/
def IWidth.okIn : IWidth → BlockKind → Bool
  | .i64, .streaming => false
  | _, _ => true

/-- The sequencer computes on FP32 alone (R291, R329). -/
def FWidth.okIn : FWidth → BlockKind → Bool
  | .f32, _ => true
  | _, .streaming => true
  | _, .atomic => false

/-- The field values that one kind of block allows and the other does not (R291, R322, R329). -/
def Instr.widthOk (k : BlockKind) : Instr → Bool
  | .add _ _ w _ _ | .sub _ _ w _ _ | .mul _ _ w _ _ | .mad _ _ w _ _ | .neg _ _ w _ _ | .abs _ _ w _ _
  | .mulhs _ w _ _ | .mulhu _ w _ _ | .mins _ w _ _ | .minu _ w _ _ | .maxs _ w _ _ | .maxu _ w _ _
  | .and _ w _ _ | .or _ w _ _ | .xor _ w _ _ | .andn _ w _ _ | .not _ w _ _ | .shl _ w _ _ | .shr _ w _ _
  | .sar _ w _ _ | .rol _ w _ _ | .clz _ w _ _ | .popc _ w _ _
  | .cmpeq _ w _ _ | .cmpne _ w _ _ | .cmplt _ w _ _ | .cmple _ w _ _ | .cmpltu _ w _ _ | .cmpleu _ w _ _
  | .sel _ w _ _ | .pand _ w _ _ | .por _ w _ _ | .pnot _ w _ _ => w.okIn k
  | .bfx _ wide _ _ | .bfi _ wide _ _ => !wide || k == .atomic
  | .fcmpeq _ w _ _ | .fcmplt _ w _ _ | .fcmple _ w _ _ | .fcmpun _ w _ _
  | .fadd _ w _ _ | .fsub _ w _ _ | .fmul _ w _ _ | .fma _ w _ _ | .fms _ w _ _ | .fnma _ w _ _ | .fmin _ w _ _
  | .fmax _ w _ _ | .fabs _ w _ _ | .fneg _ w _ _ | .fcpys _ w _ _ | .frint _ _ w _ _ | .fscl _ w _ _
  | .frcp _ w _ _ | .frsq _ w _ _ | .fsqrt _ w _ _ | .fdiv _ w _ _ | .fexp2 _ w _ _ | .flog2 _ w _ _
  | .fsin _ w _ _ | .fcos _ w _ _ | .ftanh _ w _ _ | .fsigm _ w _ _
  | .cvtfi _ _ w _ _ | .cvtif _ _ w _ _ | .scale _ _ w _ _ => w.okIn k
  -- md[1:0] must be 00 there, as in each of its group but QBLK (R329)
  | .cvt _ d _ _ => k == .streaming || d == .f32 || d == .e5m2
  | _ => true

/-- An instruction that may stand in a block of the kind (checks 2 to 4 of R294). -/
def Instr.wfIn (k : BlockKind) (i : Instr) : Bool :=
  i.wf && i.widthOk k &&
    match i.domain with
    | some d => d.allows k
    | none => false

end Sys2Proof
end

