-- ==== Sys2Proof/Decode.lean ====
section
/-!
DEFINITION. The decoder of Hexek words, total on any word and any bytes, and after it the encoder. A word that is no
instruction is refused by the cause the spec gives it: an unassigned code (R292), a reserved field (R288, R290, R291),
or a target where the instruction delivers nothing (R305, R347, R349, R377).
-/

namespace Sys2Proof

/-- Why a word is no instruction, by the cause of R294. -/
inductive DecodeErr where
  /-- Cause 0x01: the opcode is unassigned (R292). -/
  | illegalOpcode
  /-- Cause 0x02: pd, md, reg, field7, imm13, zero or offset holds no defined value (checks 3 and 4 of R294). -/
  | reservedField
  /-- Cause 0x05: a target field other than 0x1FF on an instruction that delivers nothing (check 5 of R294). -/
  | badTarget
  deriving DecidableEq, Repr

abbrev Dec := Except DecodeErr

/-! ## Fields -/

/-- Bits `lo` to `lo + n - 1` of a word. -/
def bitsOf (w : W32) (lo n : Nat) : BitVec n := w.extractLsb' lo n

/-- The consumer field's meaning (R289). -/
def decodeTarget (t : BitVec 9) : Target :=
  if t = 0x1FF#9 then .null
  else .to (match t.extractLsb' 7 2 with | 0#2 => .l | 1#2 => .r | 2#2 => .p | _ => .t) (t.extractLsb' 0 7)

def decodePred (p : BitVec 2) : Dec Pred :=
  match p with
  | 0#2 => .ok .always
  | 1#2 => .error .reservedField
  | 2#2 => .ok .ifTrue
  | _ => .ok .ifFalse

def decodeIWidth (m : BitVec 2) : IWidth :=
  match m with
  | 0#2 => .i32
  | 1#2 => .i16
  | 2#2 => .i8
  | _ => .i64

def decodeLWidth (m : BitVec 2) : Dec LWidth :=
  match m with
  | 0#2 => .ok .i32
  | 1#2 => .ok .i16
  | 2#2 => .ok .i8
  | _ => .error .reservedField

def decodeFWidth (m : BitVec 2) : Dec FWidth :=
  match m with
  | 0#2 => .ok .f32
  | 1#2 => .ok .bf16
  | 2#2 => .ok .f16
  | _ => .error .reservedField

def decodeSat (m : BitVec 2) : Dec Sat :=
  match m with
  | 0#2 => .ok .wrap
  | 1#2 => .ok .sats
  | 2#2 => .ok .satu
  | _ => .error .reservedField

def decodeRound (m : BitVec 2) : Round4 :=
  match m with
  | 0#2 => .rne
  | 1#2 => .rz
  | 2#2 => .rd
  | _ => .ru

def decodeSpace (m : BitVec 2) : Space :=
  match m with
  | 0#2 => .g
  | 1#2 => .p
  | 2#2 => .w
  | _ => .io

def decodeBank (b : BitVec 1) : Bank := if b = 0#1 then .acc else .sacc

def decodeFloatFmt (m : BitVec 3) : Dec FloatFmt :=
  match m with
  | 0#3 => .ok .f32
  | 1#3 => .ok .bf16
  | 2#3 => .ok .f16
  | 3#3 => .ok .e4m3
  | 4#3 => .ok .e5m2
  | 5#3 => .ok .e2m1
  | _ => .error .reservedField

def decodeMatFmt (m : BitVec 4) : Dec MatFmt :=
  match m with
  | 0#4 => .ok .f32
  | 1#4 => .ok .bf16
  | 2#4 => .ok .f16
  | 3#4 => .ok .e4m3
  | 4#4 => .ok .e5m2
  | 5#4 => .ok .e2m1
  | 7#4 => .ok .int8
  | 8#4 => .ok .uint8
  | _ => .error .reservedField

/-- REDADD and SCANADD: md[3:2] is 00 floating or 01 integer (R350). -/
def decodeSumFmt (m : BitVec 4) : Dec SumFmt :=
  match m.extractLsb' 2 2 with
  | 0#2 => (decodeFWidth (m.extractLsb' 0 2)).map .flt
  | 1#2 => (decodeLWidth (m.extractLsb' 0 2)).map .int
  | _ => .error .reservedField

/-- REDMAX and REDMIN: md[3:2] is 00 floating, 01 signed or 10 unsigned (R350). -/
def decodeExtFmt (m : BitVec 4) : Dec ExtFmt :=
  match m.extractLsb' 2 2 with
  | 0#2 => (decodeFWidth (m.extractLsb' 0 2)).map .flt
  | 1#2 => (decodeLWidth (m.extractLsb' 0 2)).map .sgn
  | 2#2 => (decodeLWidth (m.extractLsb' 0 2)).map .uns
  | _ => .error .reservedField

def decodeStrip (m : BitVec 4) : Dec StripWhat :=
  match m with
  | 0#4 => .ok .both
  | 1#4 => .ok .tag
  | 2#4 => .ok .punct
  | _ => .error .reservedField

def decodeMaskForm (m : BitVec 4) : Dec MaskForm :=
  match m with
  | 0#4 => .ok .and
  | 1#4 => .ok .set
  | 2#4 => .ok .join
  | _ => .error .reservedField

def decodeLext (m : BitVec 4) : Dec LextForm :=
  match m with
  | 0#4 => .ok .zero
  | 1#4 => .ok .sign
  | 2#4 => .ok .pair
  | _ => .error .reservedField

/-- QBLK's md: DEST, SPARE and BLOCK (R344). -/
def decodeQDest (m : BitVec 4) : Dec QDest :=
  if m.getLsbD 3 then
    if m.getLsbD 2 || m.getLsbD 1 then .error .reservedField else .ok (.e4m3 (m.getLsbD 0))
  else .ok (.e2m1 (m.getLsbD 2) (m.extractLsb' 0 2))

def decodePort (m : BitVec 2) : OutPort :=
  match m with
  | 0#2 => .down
  | 1#2 => .left
  | 2#2 => .right
  | _ => .edge

/-- A field that must be zero (R288, R291). -/
def mustBeZero {n : Nat} (b : BitVec n) : Dec Unit := if b = 0#n then .ok () else .error .reservedField

/-- A target field of an instruction that delivers nothing (check 5 of R294). -/
def mustBeNull (t : BitVec 9) : Dec Unit := if t = 0x1FF#9 then .ok () else .error .badTarget

/-- The fields of an F2 word (R288), read under its predicate mode. -/
def decF2 (w : W32) (k : Pred → BitVec 4 → Target → Target → Dec Instr) : Dec Instr := do
  let pd ← decodePred (bitsOf w 22 2)
  k pd (bitsOf w 18 4) (decodeTarget (bitsOf w 9 9)) (decodeTarget (bitsOf w 0 9))

/-- An F2 word that reads slot P as an operand, so its pd is 00 (R290), and whose md is zero. -/
def decF2P (w : W32) (k : Target → Target → Instr) : Dec Instr := do
  mustBeZero (bitsOf w 22 2)
  mustBeZero (bitsOf w 18 4)
  .ok (k (decodeTarget (bitsOf w 9 9)) (decodeTarget (bitsOf w 0 9)))

/-- An F2 word whose md is zero. -/
def decF2Z (w : W32) (k : Pred → Target → Target → Instr) : Dec Instr :=
  decF2 w fun pd md t1 t0 => do
    mustBeZero md
    .ok (k pd t1 t0)

/-- An F2 word that delivers nothing. -/
def decF2N (w : W32) (k : Pred → BitVec 4 → Dec Instr) : Dec Instr := do
  let pd ← decodePred (bitsOf w 22 2)
  let i ← k pd (bitsOf w 18 4)
  mustBeNull (bitsOf w 9 9)
  mustBeNull (bitsOf w 0 9)
  .ok i

/-- md[3:2] zero and md[1:0] an integer width. -/
def decIW (w : W32) (k : Pred → IWidth → Target → Target → Instr) : Dec Instr :=
  decF2 w fun pd md t1 t0 => do
    mustBeZero (md.extractLsb' 2 2)
    .ok (k pd (decodeIWidth (md.extractLsb' 0 2)) t1 t0)

/-- md[3:2] a saturation and md[1:0] an integer width. -/
def decSat (w : W32) (k : Pred → Sat → IWidth → Target → Target → Instr) : Dec Instr :=
  decF2 w fun pd md t1 t0 => do
    let s ← decodeSat (md.extractLsb' 2 2)
    .ok (k pd s (decodeIWidth (md.extractLsb' 0 2)) t1 t0)

/-- md[3] zero, md[2] signed saturation, md[1:0] an integer width. -/
def decSatBit (w : W32) (k : Pred → Bool → IWidth → Target → Target → Instr) : Dec Instr :=
  decF2 w fun pd md t1 t0 => do
    mustBeZero (md.extractLsb' 3 1)
    .ok (k pd (md.getLsbD 2) (decodeIWidth (md.extractLsb' 0 2)) t1 t0)

/-- md is 0000, or 0011 for the 64-bit form (R318, R322). -/
def decWide (w : W32) (k : Pred → Bool → Target → Target → Instr) : Dec Instr :=
  decF2 w fun pd md t1 t0 =>
    match md with
    | 0#4 => .ok (k pd false t1 t0)
    | 3#4 => .ok (k pd true t1 t0)
    | _ => .error .reservedField

/-- md[3:2] zero and md[1:0] a floating-point width. -/
def decFW (w : W32) (k : Pred → FWidth → Target → Target → Instr) : Dec Instr :=
  decF2 w fun pd md t1 t0 => do
    mustBeZero (md.extractLsb' 2 2)
    let f ← decodeFWidth (md.extractLsb' 0 2)
    .ok (k pd f t1 t0)

/-- The fields of an FI word (R288). -/
def decFI (w : W32) (k : Pred → BitVec 13 → Target → Dec Instr) : Dec Instr := do
  let pd ← decodePred (bitsOf w 22 2)
  k pd (bitsOf w 9 13) (decodeTarget (bitsOf w 0 9))

/-- An FI word that delivers nothing. -/
def decFIN (w : W32) (k : Pred → BitVec 13 → Dec Instr) : Dec Instr := do
  let pd ← decodePred (bitsOf w 22 2)
  let i ← k pd (bitsOf w 9 13)
  mustBeNull (bitsOf w 0 9)
  .ok i

/-- The fields of an FR word, which has no pd (R288). -/
def decFR (w : W32) (k : BitVec 6 → Target → Target → Dec Instr) : Dec Instr :=
  k (bitsOf w 18 6) (decodeTarget (bitsOf w 9 9)) (decodeTarget (bitsOf w 0 9))

/-- The fields of an FW word (R288), whose low 15 bits are zero. -/
def decFW7 (w : W32) (k : Pred → BitVec 7 → Dec Instr) : Dec Instr := do
  let pd ← decodePred (bitsOf w 22 2)
  let i ← k pd (bitsOf w 15 7)
  mustBeZero (bitsOf w 0 15)
  .ok i

/-- The fields of an FM word (R288). -/
def decFM (w : W32) (k : Pred → BitVec 2 → Strand → SMask → Target → Dec Instr) : Dec Instr := do
  let pd ← decodePred (bitsOf w 22 2)
  k pd (bitsOf w 20 2) (bitsOf w 17 3) (bitsOf w 9 8) (decodeTarget (bitsOf w 0 9))

/-- An FM word that names a space and delivers a value. -/
def decMem (w : W32) (k : Pred → Space → Strand → SMask → Target → Instr) : Dec Instr :=
  decFM w fun pd sp sn m t0 => .ok (k pd (decodeSpace sp) sn m t0)

/-- An FM word that names a space and delivers nothing. -/
def decStore (w : W32) (k : Pred → Space → Strand → SMask → Instr) : Dec Instr :=
  decFM w fun pd sp sn m _ => do
    mustBeNull (bitsOf w 0 9)
    .ok (k pd (decodeSpace sp) sn m)

/-- An FM word whose space field is zero and which delivers a value. -/
def decK (w : W32) (k : Pred → Strand → SMask → Target → Instr) : Dec Instr :=
  decFM w fun pd sp sn m t0 => do
    mustBeZero sp
    .ok (k pd sn m t0)

/-- An FM word whose space field is zero and which delivers nothing. -/
def decKN (w : W32) (k : Pred → Strand → SMask → Instr) : Dec Instr :=
  decFM w fun pd sp sn m _ => do
    mustBeZero sp
    mustBeNull (bitsOf w 0 9)
    .ok (k pd sn m)

/-- An FM word with the E bit at [21] and [20] zero (R392). -/
def decKE (w : W32) (k : Pred → Bool → Strand → SMask → Target → Instr) : Dec Instr :=
  decFM w fun pd sp sn m t0 => do
    mustBeZero (sp.extractLsb' 0 1)
    .ok (k pd (sp.getLsbD 1) sn m t0)

/-- An FB word (R288). -/
def decFB (w : W32) (k : Pred → BitVec 22 → Dec Instr) : Dec Instr := do
  let pd ← decodePred (bitsOf w 22 2)
  k pd (bitsOf w 0 22)

/-! ## The opcode map (R292), a group at a time -/

/-- Group 0x0, dataflow. -/
def decodeGroup0 (w : W32) : Dec Instr :=
  match bitsOf w 24 4 with
  | 0x0#4 => decF2Z w .mov
  | 0x1#4 => decF2P w .steer
  | 0x2#4 => decF2P w .merge
  | 0x3#4 => decF2P w .carry
  | 0x4#4 => decF2P w .invar
  | 0x5#4 => decF2Z w .gate
  | 0x6#4 => decF2N w fun pd md => do
      mustBeZero md
      .ok (.sink pd)
  | 0x7#4 => decF2 w fun pd md t1 t0 =>
      if levelOk (md.extractLsb' 0 3) then .ok (.punct pd (md.getLsbD 3) (md.extractLsb' 0 3) t1 t0) else .error .reservedField
  | 0x8#4 => decF2 w fun pd md t1 t0 =>
      if levelOk (md.extractLsb' 0 3) then .ok (.setpn pd (md.getLsbD 3) (md.extractLsb' 0 3) t1 t0) else .error .reservedField
  | 0x9#4 => decF2 w fun pd md t1 t0 => do
      let what ← decodeStrip md
      .ok (.strip pd what t1 t0)
  | 0xA#4 => do
      mustBeZero (bitsOf w 22 2)
      .ok (.const (bitsOf w 9 13) (decodeTarget (bitsOf w 0 9)))
  | 0xB#4 => do
      mustBeZero (bitsOf w 22 2)
      .ok (.lit (bitsOf w 9 13) (decodeTarget (bitsOf w 0 9)))
  | _ => .error .illegalOpcode

/-- Group 0x1, integer. -/
def decodeGroup1 (w : W32) : Dec Instr :=
  match bitsOf w 24 4 with
  | 0x0#4 => decSat w .add
  | 0x1#4 => decSat w .sub
  | 0x2#4 => decFI w fun pd imm t0 => .ok (.addi pd imm t0)
  | 0x3#4 => decSat w .mul
  | 0x4#4 => decIW w .mulhs
  | 0x5#4 => decIW w .mulhu
  | 0x6#4 => decSat w .mad
  | 0x7#4 => decSatBit w .neg
  | 0x8#4 => decSatBit w .abs
  | 0x9#4 => decIW w .mins
  | 0xA#4 => decIW w .minu
  | 0xB#4 => decIW w .maxs
  | 0xC#4 => decIW w .maxu
  | 0xD#4 => decWide w .divs
  | 0xE#4 => decWide w .divu
  | 0xF#4 => decWide w .remu
  | _ => .error .illegalOpcode

/-- Group 0x2, logic. -/
def decodeGroup2 (w : W32) : Dec Instr :=
  match bitsOf w 24 4 with
  | 0x0#4 => decIW w .and
  | 0x1#4 => decIW w .or
  | 0x2#4 => decIW w .xor
  | 0x3#4 => decIW w .andn
  | 0x4#4 => decIW w .not
  | 0x5#4 => decIW w .shl
  | 0x6#4 => decIW w .shr
  | 0x7#4 => decIW w .sar
  | 0x8#4 => decIW w .rol
  | 0x9#4 => decFI w fun pd imm t0 => .ok (.shli pd imm t0)
  | 0xA#4 => decFI w fun pd imm t0 => .ok (.shri pd imm t0)
  | 0xB#4 => decFI w fun pd imm t0 => .ok (.sari pd imm t0)
  | 0xC#4 => decIW w .clz
  | 0xD#4 => decIW w .popc
  | 0xE#4 => decWide w .bfx
  | 0xF#4 => decWide w .bfi
  | _ => .error .illegalOpcode

/-- Group 0x3, compare. -/
def decodeGroup3 (w : W32) : Dec Instr :=
  match bitsOf w 24 4 with
  | 0x0#4 => decIW w .cmpeq
  | 0x1#4 => decIW w .cmpne
  | 0x2#4 => decIW w .cmplt
  | 0x3#4 => decIW w .cmple
  | 0x4#4 => decIW w .cmpltu
  | 0x5#4 => decIW w .cmpleu
  | 0x6#4 => decFI w fun pd imm t0 => .ok (.cmpeqi pd imm t0)
  | 0x7#4 => decFI w fun pd imm t0 => .ok (.cmplti pd imm t0)
  | 0x8#4 => decFW w .fcmpeq
  | 0x9#4 => decFW w .fcmplt
  | 0xA#4 => decFW w .fcmple
  | 0xB#4 => decFW w .fcmpun
  | 0xC#4 => decIW w .sel
  | 0xD#4 => decIW w .pand
  | 0xE#4 => decIW w .por
  | 0xF#4 => decIW w .pnot
  | _ => .error .illegalOpcode

/-- Group 0x4, float. -/
def decodeGroup4 (w : W32) : Dec Instr :=
  match bitsOf w 24 4 with
  | 0x0#4 => decFW w .fadd
  | 0x1#4 => decFW w .fsub
  | 0x2#4 => decFW w .fmul
  | 0x3#4 => decFW w .fma
  | 0x4#4 => decFW w .fms
  | 0x5#4 => decFW w .fnma
  | 0x6#4 => decFW w .fmin
  | 0x7#4 => decFW w .fmax
  | 0x8#4 => decFW w .fabs
  | 0x9#4 => decFW w .fneg
  | 0xA#4 => decFW w .fcpys
  | 0xB#4 => decF2 w fun pd md t1 t0 => do
      let f ← decodeFWidth (md.extractLsb' 0 2)
      .ok (.frint pd (decodeRound (md.extractLsb' 2 2)) f t1 t0)
  | 0xC#4 => decFW w .fscl
  | _ => .error .illegalOpcode

/-- Group 0x5, special functions. -/
def decodeGroup5 (w : W32) : Dec Instr :=
  match bitsOf w 24 4 with
  | 0x0#4 => decFW w .frcp
  | 0x1#4 => decFW w .frsq
  | 0x2#4 => decFW w .fsqrt
  | 0x3#4 => decFW w .fdiv
  | 0x4#4 => decFW w .fexp2
  | 0x5#4 => decFW w .flog2
  | 0x6#4 => decFW w .fsin
  | 0x7#4 => decFW w .fcos
  | 0x8#4 => decFW w .ftanh
  | 0x9#4 => decFW w .fsigm
  | _ => .error .illegalOpcode

/-- Group 0x6, conversion. -/
def decodeGroup6 (w : W32) : Dec Instr :=
  match bitsOf w 24 4 with
  | 0x0#4 => decF2 w fun pd md t1 t0 =>
      if md.getLsbD 3 then do
        mustBeZero (md.extractLsb' 0 3)
        .ok (.cvtT pd t1 t0)
      else do
        let d ← decodeFloatFmt (md.extractLsb' 0 3)
        .ok (.cvt pd d t1 t0)
  | 0x1#4 => decF2 w fun pd md t1 t0 => do
      let f ← decodeFWidth (md.extractLsb' 0 2)
      .ok (.cvtfi pd (decodeRound (md.extractLsb' 2 2)) f t1 t0)
  | 0x2#4 => decF2 w fun pd md t1 t0 => do
      mustBeZero (md.extractLsb' 3 1)
      let f ← decodeFWidth (md.extractLsb' 0 2)
      .ok (.cvtif pd (md.getLsbD 2) f t1 t0)
  | 0x3#4 => decF2 w fun pd md t1 t0 => do
      let q ← decodeQDest md
      .ok (.qblk pd q t1 t0)
  | 0x4#4 => decF2 w fun pd md t1 t0 => do
      let f ← decodeFWidth (md.extractLsb' 0 2)
      .ok (.scale pd (md.extractLsb' 2 2) f t1 t0)
  | 0x5#4 => decF2N w fun pd md => do
      mustBeZero md
      .ok (.srseed pd)
  | _ => .error .illegalOpcode

/-- Group 0x7, lane. -/
def decodeGroup7 (w : W32) : Dec Instr :=
  match bitsOf w 24 4 with
  | 0x0#4 => decF2Z w .shuf
  | 0x1#4 => decF2Z w .bcast
  | 0x2#4 => decF2Z w .lrot
  | 0x3#4 => decF2 w fun pd md t1 t0 => do
      let f ← decodeSumFmt md
      .ok (.redadd pd f t1 t0)
  | 0x4#4 => decF2 w fun pd md t1 t0 => do
      let f ← decodeExtFmt md
      .ok (.redmax pd f t1 t0)
  | 0x5#4 => decF2 w fun pd md t1 t0 => do
      let f ← decodeExtFmt md
      .ok (.redmin pd f t1 t0)
  | 0x6#4 => decF2 w fun pd md t1 t0 => do
      let f ← decodeSumFmt md
      .ok (.scanadd pd f t1 t0)
  | 0x7#4 => decF2 w fun pd md t1 t0 => do
      let s ← decodeSat (md.extractLsb' 2 2)
      mustBeZero (md.extractLsb' 1 1)
      .ok (.pack pd s (md.getLsbD 0) t1 t0)
  | 0x8#4 => decF2 w fun pd md t1 t0 =>
      match md.extractLsb' 0 2 with
      | 1#2 => .ok (.unpack pd (md.getLsbD 3) (md.getLsbD 2) false t1 t0)
      | 2#2 => .ok (.unpack pd (md.getLsbD 3) (md.getLsbD 2) true t1 t0)
      | _ => .error .reservedField
  | 0x9#4 => decF2Z w .valid
  | 0xA#4 => decF2 w fun pd md t1 t0 => do
      let f ← decodeMaskForm md
      .ok (.vmask pd f t1 t0)
  | 0xB#4 => decF2Z w .compact
  | 0xC#4 => decF2Z w .expand
  | 0xD#4 => decF2Z w .any
  | 0xE#4 => decF2Z w .all
  | 0xF#4 => decF2 w fun pd md t1 t0 => do
      let f ← decodeLext md
      .ok (.lext pd f t1 t0)
  | _ => .error .illegalOpcode

/-- Group 0x8, matrix. -/
def decodeGroup8 (w : W32) : Dec Instr :=
  match bitsOf w 24 4 with
  | 0x0#4 => decF2 w fun pd md t1 t0 => do
      let f ← decodeMatFmt md
      .ok (.mma pd f t1 t0)
  | 0x1#4 => decF2 w fun pd md t1 t0 => do
      let f ← decodeMatFmt md
      .ok (.mmat pd f t1 t0)
  | 0x2#4 => decFW7 w fun pd f => do
      mustBeZero (f.extractLsb' 1 6)
      .ok (.mzero pd (decodeBank (f.extractLsb' 0 1)))
  | 0x3#4 => decF2 w fun pd md t1 t0 => do
      mustBeZero (md.extractLsb' 0 2)
      .ok (.mdrain pd (decodeBank (md.extractLsb' 3 1)) (md.getLsbD 2) t1 t0)
  | 0x4#4 => decF2N w fun pd md => do
      mustBeZero (md.extractLsb' 0 3)
      .ok (.mload pd (decodeBank (md.extractLsb' 3 1)))
  | 0x5#4 => decFW7 w fun pd f => do
      mustBeZero f
      .ok (.mswap pd)
  | 0x6#4 => decF2N w fun pd md => do
      mustBeZero md
      .ok (.mscale pd)
  | 0x7#4 => decF2N w fun pd md => do
      mustBeZero (md.extractLsb' 0 3)
      .ok (.mwaddr pd (decodeBank (md.extractLsb' 3 1)))
  | _ => .error .illegalOpcode

/-- Group 0x9, cell. -/
def decodeGroup9 (w : W32) : Dec Instr :=
  match bitsOf w 24 4 with
  | 0x0#4 => decFW7 w fun pd f => .ok (.out pd (decodePort (f.extractLsb' 5 2)) (f.extractLsb' 0 5))
  | 0x1#4 => decFR w fun reg t1 t0 => do
      mustBeZero (reg.extractLsb' 4 2)
      .ok (.crd (reg.extractLsb' 0 4) t1 t0)
  | 0x2#4 => decFR w fun reg t1 t0 => do
      mustBeZero (reg.extractLsb' 4 2)
      .ok (.cwr (reg.extractLsb' 0 4) t1 t0)
  | 0x3#4 => decFR w fun reg t1 t0 => do
      mustBeZero (reg.extractLsb' 2 4)
      .ok (.prd (reg.extractLsb' 0 2) t1 t0)
  | 0x4#4 => decFR w fun reg t1 t0 => do
      mustBeZero (reg.extractLsb' 2 4)
      .ok (.pwr (reg.extractLsb' 0 2) t1 t0)
  | 0x5#4 => decF2 w fun pd md t1 t0 => do
      mustBeZero (md.extractLsb' 3 1)
      .ok (.fbits pd (md.extractLsb' 0 3) t1 t0)
  | 0x6#4 => decF2 w fun pd md t1 t0 => do
      mustBeZero (md.extractLsb' 3 1)
      .ok (.fget pd (md.extractLsb' 0 3) t1 t0)
  | _ => .error .illegalOpcode

/-- Group 0xA, control. -/
def decodeGroupA (w : W32) : Dec Instr :=
  match bitsOf w 24 4 with
  | 0x0#4 => decFB w fun pd off => .ok (.br pd off)
  | 0x1#4 => decFB w fun pd off => .ok (.call pd off)
  | 0x2#4 => decFB w fun pd off => do
      mustBeZero off
      .ok (.ret pd)
  | 0x3#4 => decFR w fun reg t1 t0 => .ok (.read reg t1 t0)
  | 0x4#4 => decFR w fun reg t1 t0 => do
      mustBeZero (reg.extractLsb' 3 3)
      .ok (.readv (reg.extractLsb' 0 3) t1 t0)
  | 0x5#4 => do
      mustBeNull (bitsOf w 9 9)
      mustBeNull (bitsOf w 0 9)
      .ok (.write (bitsOf w 18 6))
  | 0x6#4 => decFIN w fun pd imm => .ok (.yield pd imm)
  | 0x7#4 => decFM w fun pd sp sn m _ => do
      mustBeNull (bitsOf w 0 9)
      .ok (.fork pd sp sn m)
  | 0x8#4 => decFI w fun pd imm t0 => do
      mustBeZero (imm.extractLsb' 2 11)
      .ok (.rdv pd (imm.extractLsb' 0 2) t0)
  | 0x9#4 => decFIN w fun pd imm => .ok (.trap pd imm)
  | 0xA#4 => decFW7 w fun pd f => do
      mustBeZero f
      .ok (.eret pd)
  | 0xB#4 => decFW7 w fun pd f => .ok (.brk pd f)
  | 0xC#4 => decFI w fun pd imm t0 => .ok (.wait pd imm t0)
  | 0xD#4 => decFB w fun pd off => do
      mustBeZero off
      .ok (.done pd)
  | _ => .error .illegalOpcode

/-- Group 0xB, memory. -/
def decodeGroupB (w : W32) : Dec Instr :=
  match bitsOf w 24 4 with
  | 0x0#4 => decMem w .ld8
  | 0x1#4 => decMem w .ld16
  | 0x2#4 => decMem w .ld32
  | 0x3#4 => decMem w .ld64
  | 0x4#4 => decMem w .ldt
  | 0x5#4 => decMem w .ldx64
  | 0x6#4 => decStore w .st8
  | 0x7#4 => decStore w .st16
  | 0x8#4 => decStore w .st32
  | 0x9#4 => decStore w .st64
  | 0xA#4 => decStore w .stt
  | 0xB#4 => decKN w .pref
  | _ => .error .illegalOpcode

/-- Group 0xC, atomic. -/
def decodeGroupC (w : W32) : Dec Instr :=
  match bitsOf w 24 4 with
  | 0x0#4 => decMem w .aadd
  | 0x1#4 => decMem w .amin
  | 0x2#4 => decMem w .amax
  | 0x3#4 => decMem w .aminu
  | 0x4#4 => decMem w .amaxu
  | 0x5#4 => decMem w .aand
  | 0x6#4 => decMem w .aor
  | 0x7#4 => decMem w .axor
  | 0x8#4 => decMem w .axchg
  | 0x9#4 => decMem w .acas
  | 0xA#4 => decMem w .afadd
  | 0xB#4 => decMem w .afmax
  | _ => .error .illegalOpcode

/-- Group 0xD, knot, eyelet and host. -/
def decodeGroupD (w : W32) : Dec Instr :=
  match bitsOf w 24 4 with
  | 0x0#4 => decKN w .kinit
  | 0x1#4 => decKN w .kadd
  | 0x2#4 => decKE w .kwait
  | 0x3#4 => decKE w .ktry
  | 0x4#4 => decK w .kread
  | 0x5#4 => decFM w fun pd sp sn m t0 =>
      match sp with
      | 0#2 => .ok (.lzresv pd sn m t0)
      | 1#2 => do
        mustBeNull (bitsOf w 0 9)
        .ok (.lzresvDeclare pd sn m)
      | _ => .error .reservedField
  | 0x6#4 => decFM w fun pd sp sn m _ => do
      let i ← (match sp with
        | 0#2 => Except.ok (Instr.lzrel pd sn m)
        | 1#2 => Except.ok (Instr.lzrelRetire pd sn m)
        | _ => Except.error DecodeErr.reservedField)
      mustBeNull (bitsOf w 0 9)
      .ok i
  | 0x7#4 => decFM w fun pd sp sn m t0 =>
      match sp with
      | 0#2 => .ok (.lzstat pd sn m t0)
      | 1#2 => .ok (.lzstatZone pd sn m t0)
      | _ => .error .reservedField
  | 0x8#4 => decK w .enq
  | 0x9#4 => decK w .ingr
  | 0xA#4 => decKN w .egr
  | _ => .error .illegalOpcode

/-- Group 0xE, system. -/
def decodeGroupE (w : W32) : Dec Instr :=
  match bitsOf w 24 4 with
  | 0x0#4 => decFI w fun pd imm t0 => .ok (.sysr pd imm t0)
  | 0x1#4 => decFIN w fun pd imm => .ok (.sysw pd imm)
  | 0x2#4 => decFI w fun pd imm t0 => do
      mustBeZero imm
      .ok (.gtime pd t0)
  | 0x3#4 => decFI w fun pd imm t0 =>
      match imm with
      | 0#13 => .ok (.feat pd .version t0)
      | 1#13 => .ok (.feat pd .devId t0)
      | 2#13 => .ok (.feat pd .chip t0)
      | 3#13 => .ok (.feat pd .live t0)
      | _ => .error .reservedField
  | 0x4#4 => decFI w fun pd imm t0 => do
      mustBeZero (imm.extractLsb' 3 10)
      .ok (.perf pd (imm.extractLsb' 0 3) t0)
  | 0x5#4 => decKN w .tlbinv
  | _ => .error .illegalOpcode

/-- The instruction a word holds, or why it holds none. -/
def decodeWord (w : W32) : Dec Instr :=
  match bitsOf w 28 4 with
  | 0x0#4 => decodeGroup0 w
  | 0x1#4 => decodeGroup1 w
  | 0x2#4 => decodeGroup2 w
  | 0x3#4 => decodeGroup3 w
  | 0x4#4 => decodeGroup4 w
  | 0x5#4 => decodeGroup5 w
  | 0x6#4 => decodeGroup6 w
  | 0x7#4 => decodeGroup7 w
  | 0x8#4 => decodeGroup8 w
  | 0x9#4 => decodeGroup9 w
  | 0xA#4 => decodeGroupA w
  | 0xB#4 => decodeGroupB w
  | 0xC#4 => decodeGroupC w
  | 0xD#4 => decodeGroupD w
  | 0xE#4 => decodeGroupE w
  | _ => .error .illegalOpcode

/-- The word whose four bytes stand first in a list, lowest address first (R9). -/
def wordOfBytes : List Byte → Option (W32 × List Byte)
  | b0 :: b1 :: b2 :: b3 :: rest => some (b3 ++ b2 ++ b1 ++ b0, rest)
  | _ => none

/-- The bytes of a word, lowest address first (R9). -/
def bytesOfWord (w : W32) : List Byte :=
  [w.extractLsb' 0 8, w.extractLsb' 8 8, w.extractLsb' 16 8, w.extractLsb' 24 8]

/-- The instruction at the front of a list of bytes, with the bytes after it. -/
def decodeBytes (bs : List Byte) : Option (Dec (Instr × List Byte)) :=
  (wordOfBytes bs).map fun p => (decodeWord p.1).map fun i => (i, p.2)

/-- The host's question: the instruction whose bits are `w`. Every Hexek word is 32 bits (R288), so `nbits` adds none. -/
def decodeTableWord (_nbits w : Nat) : Option Instr :=
  match decodeBytes (bytesOfWord (BitVec.ofNat 32 w)) with
  | some (.ok (i, _)) => some i
  | _ => none

/-! ## The encoder -/

def encodeSlot : Slot → BitVec 2
  | .l => 0
  | .r => 1
  | .p => 2
  | .t => 3

def encodeTarget : Target → BitVec 9
  | .null => 0x1FF
  | .to s i => encodeSlot s ++ i

def encodePred : Pred → BitVec 2
  | .always => 0
  | .ifTrue => 2
  | .ifFalse => 3

def encodeIWidth : IWidth → BitVec 2
  | .i32 => 0
  | .i16 => 1
  | .i8 => 2
  | .i64 => 3

def encodeLWidth : LWidth → BitVec 2
  | .i32 => 0
  | .i16 => 1
  | .i8 => 2

def encodeFWidth : FWidth → BitVec 2
  | .f32 => 0
  | .bf16 => 1
  | .f16 => 2

def encodeSat : Sat → BitVec 2
  | .wrap => 0
  | .sats => 1
  | .satu => 2

def encodeRound : Round4 → BitVec 2
  | .rne => 0
  | .rz => 1
  | .rd => 2
  | .ru => 3

def encodeSpace : Space → BitVec 2
  | .g => 0
  | .p => 1
  | .w => 2
  | .io => 3

def encodeBank : Bank → BitVec 1
  | .acc => 0
  | .sacc => 1

def encodeFloatFmt : FloatFmt → BitVec 3
  | .f32 => 0
  | .bf16 => 1
  | .f16 => 2
  | .e4m3 => 3
  | .e5m2 => 4
  | .e2m1 => 5

def encodeMatFmt : MatFmt → BitVec 4
  | .f32 => 0
  | .bf16 => 1
  | .f16 => 2
  | .e4m3 => 3
  | .e5m2 => 4
  | .e2m1 => 5
  | .int8 => 7
  | .uint8 => 8

def encodeSumFmt : SumFmt → BitVec 4
  | .flt w => 0#2 ++ encodeFWidth w
  | .int w => 1#2 ++ encodeLWidth w

def encodeExtFmt : ExtFmt → BitVec 4
  | .flt w => 0#2 ++ encodeFWidth w
  | .sgn w => 1#2 ++ encodeLWidth w
  | .uns w => 2#2 ++ encodeLWidth w

def encodeStrip : StripWhat → BitVec 4
  | .both => 0
  | .tag => 1
  | .punct => 2

def encodeMaskForm : MaskForm → BitVec 4
  | .and => 0
  | .set => 1
  | .join => 2

def encodeLext : LextForm → BitVec 4
  | .zero => 0
  | .sign => 1
  | .pair => 2

def encodeQDest : QDest → BitVec 4
  | .e2m1 spare b => 0#1 ++ BitVec.ofBool spare ++ b
  | .e4m3 b => 4#3 ++ BitVec.ofBool b

def encodePort : OutPort → BitVec 2
  | .down => 0
  | .left => 1
  | .right => 2
  | .edge => 3

/-- The word formats of R288. -/
def encF2 (op : BitVec 8) (pd : Pred) (md : BitVec 4) (t1 t0 : Target) : W32 :=
  op ++ encodePred pd ++ md ++ encodeTarget t1 ++ encodeTarget t0

def encFI (op : BitVec 8) (pd : Pred) (imm : BitVec 13) (t0 : Target) : W32 :=
  op ++ encodePred pd ++ imm ++ encodeTarget t0

def encFR (op : BitVec 8) (reg : BitVec 6) (t1 t0 : Target) : W32 :=
  op ++ reg ++ encodeTarget t1 ++ encodeTarget t0

def encFW (op : BitVec 8) (pd : Pred) (f : BitVec 7) : W32 :=
  op ++ encodePred pd ++ f ++ 0#15

def encFM (op : BitVec 8) (pd : Pred) (sp : BitVec 2) (sn : Strand) (m : SMask) (t0 : Target) : W32 :=
  op ++ encodePred pd ++ sp ++ sn ++ m ++ encodeTarget t0

def encFB (op : BitVec 8) (pd : Pred) (off : BitVec 22) : W32 :=
  op ++ encodePred pd ++ off

/-- md of an instruction with a 64-bit form (R318, R322). -/
def encodeWide (wide : Bool) : BitVec 4 := if wide then 3 else 0

/-- The word of a Hexek instruction (R288, R292); a device move has none and is given the zero word. -/
def encode : Instr → W32
  | .mov pd t1 t0 => encF2 0x00 pd 0 t1 t0
  | .steer t1 t0 => encF2 0x01 .always 0 t1 t0
  | .merge t1 t0 => encF2 0x02 .always 0 t1 t0
  | .carry t1 t0 => encF2 0x03 .always 0 t1 t0
  | .invar t1 t0 => encF2 0x04 .always 0 t1 t0
  | .gate pd t1 t0 => encF2 0x05 pd 0 t1 t0
  | .sink pd => encF2 0x06 pd 0 .null .null
  | .punct pd eq n t1 t0 => encF2 0x07 pd (BitVec.ofBool eq ++ n) t1 t0
  | .setpn pd mx n t1 t0 => encF2 0x08 pd (BitVec.ofBool mx ++ n) t1 t0
  | .strip pd what t1 t0 => encF2 0x09 pd (encodeStrip what) t1 t0
  | .const imm t0 => encFI 0x0A .always imm t0
  | .lit imm t0 => encFI 0x0B .always imm t0
  | .add pd s w t1 t0 => encF2 0x10 pd (encodeSat s ++ encodeIWidth w) t1 t0
  | .sub pd s w t1 t0 => encF2 0x11 pd (encodeSat s ++ encodeIWidth w) t1 t0
  | .mul pd s w t1 t0 => encF2 0x13 pd (encodeSat s ++ encodeIWidth w) t1 t0
  | .mad pd s w t1 t0 => encF2 0x16 pd (encodeSat s ++ encodeIWidth w) t1 t0
  | .addi pd imm t0 => encFI 0x12 pd imm t0
  | .neg pd s w t1 t0 => encF2 0x17 pd (0#1 ++ BitVec.ofBool s ++ encodeIWidth w) t1 t0
  | .abs pd s w t1 t0 => encF2 0x18 pd (0#1 ++ BitVec.ofBool s ++ encodeIWidth w) t1 t0
  | .mulhs pd w t1 t0 => encF2 0x14 pd (0#2 ++ encodeIWidth w) t1 t0
  | .mulhu pd w t1 t0 => encF2 0x15 pd (0#2 ++ encodeIWidth w) t1 t0
  | .mins pd w t1 t0 => encF2 0x19 pd (0#2 ++ encodeIWidth w) t1 t0
  | .minu pd w t1 t0 => encF2 0x1A pd (0#2 ++ encodeIWidth w) t1 t0
  | .maxs pd w t1 t0 => encF2 0x1B pd (0#2 ++ encodeIWidth w) t1 t0
  | .maxu pd w t1 t0 => encF2 0x1C pd (0#2 ++ encodeIWidth w) t1 t0
  | .and pd w t1 t0 => encF2 0x20 pd (0#2 ++ encodeIWidth w) t1 t0
  | .or pd w t1 t0 => encF2 0x21 pd (0#2 ++ encodeIWidth w) t1 t0
  | .xor pd w t1 t0 => encF2 0x22 pd (0#2 ++ encodeIWidth w) t1 t0
  | .andn pd w t1 t0 => encF2 0x23 pd (0#2 ++ encodeIWidth w) t1 t0
  | .not pd w t1 t0 => encF2 0x24 pd (0#2 ++ encodeIWidth w) t1 t0
  | .shl pd w t1 t0 => encF2 0x25 pd (0#2 ++ encodeIWidth w) t1 t0
  | .shr pd w t1 t0 => encF2 0x26 pd (0#2 ++ encodeIWidth w) t1 t0
  | .sar pd w t1 t0 => encF2 0x27 pd (0#2 ++ encodeIWidth w) t1 t0
  | .rol pd w t1 t0 => encF2 0x28 pd (0#2 ++ encodeIWidth w) t1 t0
  | .clz pd w t1 t0 => encF2 0x2C pd (0#2 ++ encodeIWidth w) t1 t0
  | .popc pd w t1 t0 => encF2 0x2D pd (0#2 ++ encodeIWidth w) t1 t0
  | .cmpeq pd w t1 t0 => encF2 0x30 pd (0#2 ++ encodeIWidth w) t1 t0
  | .cmpne pd w t1 t0 => encF2 0x31 pd (0#2 ++ encodeIWidth w) t1 t0
  | .cmplt pd w t1 t0 => encF2 0x32 pd (0#2 ++ encodeIWidth w) t1 t0
  | .cmple pd w t1 t0 => encF2 0x33 pd (0#2 ++ encodeIWidth w) t1 t0
  | .cmpltu pd w t1 t0 => encF2 0x34 pd (0#2 ++ encodeIWidth w) t1 t0
  | .cmpleu pd w t1 t0 => encF2 0x35 pd (0#2 ++ encodeIWidth w) t1 t0
  | .sel pd w t1 t0 => encF2 0x3C pd (0#2 ++ encodeIWidth w) t1 t0
  | .pand pd w t1 t0 => encF2 0x3D pd (0#2 ++ encodeIWidth w) t1 t0
  | .por pd w t1 t0 => encF2 0x3E pd (0#2 ++ encodeIWidth w) t1 t0
  | .pnot pd w t1 t0 => encF2 0x3F pd (0#2 ++ encodeIWidth w) t1 t0
  | .divs pd wide t1 t0 => encF2 0x1D pd (encodeWide wide) t1 t0
  | .divu pd wide t1 t0 => encF2 0x1E pd (encodeWide wide) t1 t0
  | .remu pd wide t1 t0 => encF2 0x1F pd (encodeWide wide) t1 t0
  | .bfx pd wide t1 t0 => encF2 0x2E pd (encodeWide wide) t1 t0
  | .bfi pd wide t1 t0 => encF2 0x2F pd (encodeWide wide) t1 t0
  | .shli pd imm t0 => encFI 0x29 pd imm t0
  | .shri pd imm t0 => encFI 0x2A pd imm t0
  | .sari pd imm t0 => encFI 0x2B pd imm t0
  | .cmpeqi pd imm t0 => encFI 0x36 pd imm t0
  | .cmplti pd imm t0 => encFI 0x37 pd imm t0
  | .fcmpeq pd w t1 t0 => encF2 0x38 pd (0#2 ++ encodeFWidth w) t1 t0
  | .fcmplt pd w t1 t0 => encF2 0x39 pd (0#2 ++ encodeFWidth w) t1 t0
  | .fcmple pd w t1 t0 => encF2 0x3A pd (0#2 ++ encodeFWidth w) t1 t0
  | .fcmpun pd w t1 t0 => encF2 0x3B pd (0#2 ++ encodeFWidth w) t1 t0
  | .fadd pd w t1 t0 => encF2 0x40 pd (0#2 ++ encodeFWidth w) t1 t0
  | .fsub pd w t1 t0 => encF2 0x41 pd (0#2 ++ encodeFWidth w) t1 t0
  | .fmul pd w t1 t0 => encF2 0x42 pd (0#2 ++ encodeFWidth w) t1 t0
  | .fma pd w t1 t0 => encF2 0x43 pd (0#2 ++ encodeFWidth w) t1 t0
  | .fms pd w t1 t0 => encF2 0x44 pd (0#2 ++ encodeFWidth w) t1 t0
  | .fnma pd w t1 t0 => encF2 0x45 pd (0#2 ++ encodeFWidth w) t1 t0
  | .fmin pd w t1 t0 => encF2 0x46 pd (0#2 ++ encodeFWidth w) t1 t0
  | .fmax pd w t1 t0 => encF2 0x47 pd (0#2 ++ encodeFWidth w) t1 t0
  | .fabs pd w t1 t0 => encF2 0x48 pd (0#2 ++ encodeFWidth w) t1 t0
  | .fneg pd w t1 t0 => encF2 0x49 pd (0#2 ++ encodeFWidth w) t1 t0
  | .fcpys pd w t1 t0 => encF2 0x4A pd (0#2 ++ encodeFWidth w) t1 t0
  | .fscl pd w t1 t0 => encF2 0x4C pd (0#2 ++ encodeFWidth w) t1 t0
  | .frcp pd w t1 t0 => encF2 0x50 pd (0#2 ++ encodeFWidth w) t1 t0
  | .frsq pd w t1 t0 => encF2 0x51 pd (0#2 ++ encodeFWidth w) t1 t0
  | .fsqrt pd w t1 t0 => encF2 0x52 pd (0#2 ++ encodeFWidth w) t1 t0
  | .fdiv pd w t1 t0 => encF2 0x53 pd (0#2 ++ encodeFWidth w) t1 t0
  | .fexp2 pd w t1 t0 => encF2 0x54 pd (0#2 ++ encodeFWidth w) t1 t0
  | .flog2 pd w t1 t0 => encF2 0x55 pd (0#2 ++ encodeFWidth w) t1 t0
  | .fsin pd w t1 t0 => encF2 0x56 pd (0#2 ++ encodeFWidth w) t1 t0
  | .fcos pd w t1 t0 => encF2 0x57 pd (0#2 ++ encodeFWidth w) t1 t0
  | .ftanh pd w t1 t0 => encF2 0x58 pd (0#2 ++ encodeFWidth w) t1 t0
  | .fsigm pd w t1 t0 => encF2 0x59 pd (0#2 ++ encodeFWidth w) t1 t0
  | .frint pd m w t1 t0 => encF2 0x4B pd (encodeRound m ++ encodeFWidth w) t1 t0
  | .cvt pd d t1 t0 => encF2 0x60 pd (0#1 ++ encodeFloatFmt d) t1 t0
  | .cvtT pd t1 t0 => encF2 0x60 pd 8 t1 t0
  | .cvtfi pd m w t1 t0 => encF2 0x61 pd (encodeRound m ++ encodeFWidth w) t1 t0
  | .cvtif pd u w t1 t0 => encF2 0x62 pd (0#1 ++ BitVec.ofBool u ++ encodeFWidth w) t1 t0
  | .qblk pd q t1 t0 => encF2 0x63 pd (encodeQDest q) t1 t0
  | .scale pd g w t1 t0 => encF2 0x64 pd (g ++ encodeFWidth w) t1 t0
  | .srseed pd => encF2 0x65 pd 0 .null .null
  | .shuf pd t1 t0 => encF2 0x70 pd 0 t1 t0
  | .bcast pd t1 t0 => encF2 0x71 pd 0 t1 t0
  | .lrot pd t1 t0 => encF2 0x72 pd 0 t1 t0
  | .valid pd t1 t0 => encF2 0x79 pd 0 t1 t0
  | .compact pd t1 t0 => encF2 0x7B pd 0 t1 t0
  | .expand pd t1 t0 => encF2 0x7C pd 0 t1 t0
  | .any pd t1 t0 => encF2 0x7D pd 0 t1 t0
  | .all pd t1 t0 => encF2 0x7E pd 0 t1 t0
  | .redadd pd f t1 t0 => encF2 0x73 pd (encodeSumFmt f) t1 t0
  | .redmax pd f t1 t0 => encF2 0x74 pd (encodeExtFmt f) t1 t0
  | .redmin pd f t1 t0 => encF2 0x75 pd (encodeExtFmt f) t1 t0
  | .scanadd pd f t1 t0 => encF2 0x76 pd (encodeSumFmt f) t1 t0
  | .vmask pd f t1 t0 => encF2 0x7A pd (encodeMaskForm f) t1 t0
  | .lext pd f t1 t0 => encF2 0x7F pd (encodeLext f) t1 t0
  | .mma pd f t1 t0 => encF2 0x80 pd (encodeMatFmt f) t1 t0
  | .mmat pd f t1 t0 => encF2 0x81 pd (encodeMatFmt f) t1 t0
  | .pack pd s n16 t1 t0 => encF2 0x77 pd (encodeSat s ++ 0#1 ++ BitVec.ofBool n16) t1 t0
  | .unpack pd hi sx n8 t1 t0 => encF2 0x78 pd (BitVec.ofBool hi ++ BitVec.ofBool sx ++ (if n8 then 2#2 else 1#2)) t1 t0
  | .mzero pd b => encFW 0x82 pd (0#6 ++ encodeBank b)
  | .mdrain pd b c t1 t0 => encF2 0x83 pd (encodeBank b ++ BitVec.ofBool c ++ 0#2) t1 t0
  | .mload pd b => encF2 0x84 pd (encodeBank b ++ 0#3) .null .null
  | .mswap pd => encFW 0x85 pd 0
  | .mscale pd => encF2 0x86 pd 0 .null .null
  | .mwaddr pd b => encF2 0x87 pd (encodeBank b ++ 0#3) .null .null
  | .out pd port ch => encFW 0x90 pd (encodePort port ++ ch)
  | .crd reg t1 t0 => encFR 0x91 (0#2 ++ reg) t1 t0
  | .cwr reg t1 t0 => encFR 0x92 (0#2 ++ reg) t1 t0
  | .prd reg t1 t0 => encFR 0x93 (0#4 ++ reg) t1 t0
  | .pwr reg t1 t0 => encFR 0x94 (0#4 ++ reg) t1 t0
  | .fbits pd k t1 t0 => encF2 0x95 pd (0#1 ++ k) t1 t0
  | .fget pd k t1 t0 => encF2 0x96 pd (0#1 ++ k) t1 t0
  | .br pd off => encFB 0xA0 pd off
  | .call pd off => encFB 0xA1 pd off
  | .ret pd => encFB 0xA2 pd 0
  | .read reg t1 t0 => encFR 0xA3 reg t1 t0
  | .readv reg t1 t0 => encFR 0xA4 (0#3 ++ reg) t1 t0
  | .write reg => encFR 0xA5 reg .null .null
  | .yield pd n => encFI 0xA6 pd n .null
  | .fork pd h sn m => encFM 0xA7 pd h sn m .null
  | .rdv pd h t0 => encFI 0xA8 pd (0#11 ++ h) t0
  | .trap pd n => encFI 0xA9 pd n .null
  | .eret pd => encFW 0xAA pd 0
  | .brk pd n => encFW 0xAB pd n
  | .wait pd n t0 => encFI 0xAC pd n t0
  | .done pd => encFB 0xAD pd 0
  | .ld8 pd sp sn m t0 => encFM 0xB0 pd (encodeSpace sp) sn m t0
  | .ld16 pd sp sn m t0 => encFM 0xB1 pd (encodeSpace sp) sn m t0
  | .ld32 pd sp sn m t0 => encFM 0xB2 pd (encodeSpace sp) sn m t0
  | .ld64 pd sp sn m t0 => encFM 0xB3 pd (encodeSpace sp) sn m t0
  | .ldt pd sp sn m t0 => encFM 0xB4 pd (encodeSpace sp) sn m t0
  | .ldx64 pd sp sn m t0 => encFM 0xB5 pd (encodeSpace sp) sn m t0
  | .aadd pd sp sn m t0 => encFM 0xC0 pd (encodeSpace sp) sn m t0
  | .amin pd sp sn m t0 => encFM 0xC1 pd (encodeSpace sp) sn m t0
  | .amax pd sp sn m t0 => encFM 0xC2 pd (encodeSpace sp) sn m t0
  | .aminu pd sp sn m t0 => encFM 0xC3 pd (encodeSpace sp) sn m t0
  | .amaxu pd sp sn m t0 => encFM 0xC4 pd (encodeSpace sp) sn m t0
  | .aand pd sp sn m t0 => encFM 0xC5 pd (encodeSpace sp) sn m t0
  | .aor pd sp sn m t0 => encFM 0xC6 pd (encodeSpace sp) sn m t0
  | .axor pd sp sn m t0 => encFM 0xC7 pd (encodeSpace sp) sn m t0
  | .axchg pd sp sn m t0 => encFM 0xC8 pd (encodeSpace sp) sn m t0
  | .acas pd sp sn m t0 => encFM 0xC9 pd (encodeSpace sp) sn m t0
  | .afadd pd sp sn m t0 => encFM 0xCA pd (encodeSpace sp) sn m t0
  | .afmax pd sp sn m t0 => encFM 0xCB pd (encodeSpace sp) sn m t0
  | .st8 pd sp sn m => encFM 0xB6 pd (encodeSpace sp) sn m .null
  | .st16 pd sp sn m => encFM 0xB7 pd (encodeSpace sp) sn m .null
  | .st32 pd sp sn m => encFM 0xB8 pd (encodeSpace sp) sn m .null
  | .st64 pd sp sn m => encFM 0xB9 pd (encodeSpace sp) sn m .null
  | .stt pd sp sn m => encFM 0xBA pd (encodeSpace sp) sn m .null
  | .pref pd sn m => encFM 0xBB pd 0 sn m .null
  | .kinit pd sn m => encFM 0xD0 pd 0 sn m .null
  | .kadd pd sn m => encFM 0xD1 pd 0 sn m .null
  | .egr pd sn m => encFM 0xDA pd 0 sn m .null
  | .lzrel pd sn m => encFM 0xD6 pd 0 sn m .null
  | .tlbinv pd sn m => encFM 0xE5 pd 0 sn m .null
  | .kwait pd x sn m t0 => encFM 0xD2 pd (BitVec.ofBool x ++ 0#1) sn m t0
  | .ktry pd x sn m t0 => encFM 0xD3 pd (BitVec.ofBool x ++ 0#1) sn m t0
  | .kread pd sn m t0 => encFM 0xD4 pd 0 sn m t0
  | .lzresv pd sn m t0 => encFM 0xD5 pd 0 sn m t0
  | .lzstat pd sn m t0 => encFM 0xD7 pd 0 sn m t0
  | .enq pd sn m t0 => encFM 0xD8 pd 0 sn m t0
  | .ingr pd sn m t0 => encFM 0xD9 pd 0 sn m t0
  | .lzresvDeclare pd sn m => encFM 0xD5 pd 1 sn m .null
  | .lzrelRetire pd sn m => encFM 0xD6 pd 1 sn m .null
  | .lzstatZone pd sn m t0 => encFM 0xD7 pd 1 sn m t0
  | .sysr pd i t0 => encFI 0xE0 pd i t0
  | .sysw pd i => encFI 0xE1 pd i .null
  | .gtime pd t0 => encFI 0xE2 pd 0 t0
  | .feat pd sel t0 => encFI 0xE3 pd (match sel with | .version => 0 | .devId => 1 | .chip => 2 | .live => 3) t0
  | .perf pd n t0 => encFI 0xE4 pd (0#10 ++ n) t0
  | _ => 0

end Sys2Proof
end

