-- ==== Sys2Proof/Machine/Operands.lean ====
section
/-!
DEFINITION. Operands: what each word reads and where its result goes (R289, R290, R293), when a word may fire (R178,
R297, R299), what firing consumes, how a result reaches its targets, and which instructions of an atomic block are
settled (R299).
-/

namespace Sys2Proof

/-- The predicate mode of a word (R290); a word with no pd field always fires. -/
def Instr.pd : Instr → Pred
  | .mov pd _ _ | .gate pd _ _ | .sink pd | .punct pd _ _ _ _ | .setpn pd _ _ _ _ | .strip pd _ _ _
  | .add pd _ _ _ _ | .sub pd _ _ _ _ | .addi pd _ _ | .mul pd _ _ _ _ | .mulhs pd _ _ _ | .mulhu pd _ _ _
  | .mad pd _ _ _ _ | .neg pd _ _ _ _ | .abs pd _ _ _ _ | .mins pd _ _ _ | .minu pd _ _ _ | .maxs pd _ _ _
  | .maxu pd _ _ _ | .divs pd _ _ _ | .divu pd _ _ _ | .remu pd _ _ _ | .and pd _ _ _ | .or pd _ _ _
  | .xor pd _ _ _ | .andn pd _ _ _ | .not pd _ _ _ | .shl pd _ _ _ | .shr pd _ _ _ | .sar pd _ _ _ | .rol pd _ _ _
  | .shli pd _ _ | .shri pd _ _ | .sari pd _ _ | .clz pd _ _ _ | .popc pd _ _ _ | .bfx pd _ _ _ | .bfi pd _ _ _
  | .cmpeq pd _ _ _ | .cmpne pd _ _ _ | .cmplt pd _ _ _ | .cmple pd _ _ _ | .cmpltu pd _ _ _ | .cmpleu pd _ _ _
  | .cmpeqi pd _ _ | .cmplti pd _ _ | .fcmpeq pd _ _ _ | .fcmplt pd _ _ _ | .fcmple pd _ _ _ | .fcmpun pd _ _ _
  | .sel pd _ _ _ | .pand pd _ _ _ | .por pd _ _ _ | .pnot pd _ _ _ | .fadd pd _ _ _ | .fsub pd _ _ _
  | .fmul pd _ _ _ | .fma pd _ _ _ | .fms pd _ _ _ | .fnma pd _ _ _ | .fmin pd _ _ _ | .fmax pd _ _ _
  | .fabs pd _ _ _ | .fneg pd _ _ _ | .fcpys pd _ _ _ | .frint pd _ _ _ _ | .fscl pd _ _ _ | .frcp pd _ _ _
  | .frsq pd _ _ _ | .fsqrt pd _ _ _ | .fdiv pd _ _ _ | .fexp2 pd _ _ _ | .flog2 pd _ _ _ | .fsin pd _ _ _
  | .fcos pd _ _ _ | .ftanh pd _ _ _ | .fsigm pd _ _ _ | .cvt pd _ _ _ | .cvtT pd _ _ | .cvtfi pd _ _ _ _
  | .cvtif pd _ _ _ _ | .qblk pd _ _ _ | .scale pd _ _ _ _ | .srseed pd | .shuf pd _ _ | .bcast pd _ _
  | .lrot pd _ _ | .redadd pd _ _ _ | .redmax pd _ _ _ | .redmin pd _ _ _ | .scanadd pd _ _ _ | .pack pd _ _ _ _
  | .unpack pd _ _ _ _ _ | .valid pd _ _ | .vmask pd _ _ _ | .compact pd _ _ | .expand pd _ _ | .any pd _ _
  | .all pd _ _ | .lext pd _ _ _ | .mma pd _ _ _ | .mmat pd _ _ _ | .mzero pd _ | .mdrain pd _ _ _ _ | .mload pd _
  | .mswap pd | .mscale pd | .mwaddr pd _ | .out pd _ _ | .fbits pd _ _ _ | .fget pd _ _ _ | .br pd _ | .call pd _
  | .ret pd | .yield pd _ | .fork pd _ _ _ | .rdv pd _ _ | .trap pd _ | .eret pd | .brk pd _ | .wait pd _ _
  | .done pd | .ld8 pd _ _ _ _ | .ld16 pd _ _ _ _ | .ld32 pd _ _ _ _ | .ld64 pd _ _ _ _ | .ldt pd _ _ _ _
  | .ldx64 pd _ _ _ _ | .st8 pd _ _ _ | .st16 pd _ _ _ | .st32 pd _ _ _ | .st64 pd _ _ _ | .stt pd _ _ _
  | .pref pd _ _ | .aadd pd _ _ _ _ | .amin pd _ _ _ _ | .amax pd _ _ _ _ | .aminu pd _ _ _ _ | .amaxu pd _ _ _ _
  | .aand pd _ _ _ _ | .aor pd _ _ _ _ | .axor pd _ _ _ _ | .axchg pd _ _ _ _ | .acas pd _ _ _ _
  | .afadd pd _ _ _ _ | .afmax pd _ _ _ _ | .kinit pd _ _ | .kadd pd _ _ | .kwait pd _ _ _ _ | .ktry pd _ _ _ _
  | .kread pd _ _ _ | .lzresv pd _ _ _ | .lzresvDeclare pd _ _ | .lzrel pd _ _ | .lzrelRetire pd _ _
  | .lzstat pd _ _ _ | .lzstatZone pd _ _ _ | .enq pd _ _ _ | .ingr pd _ _ _ | .egr pd _ _ | .sysr pd _ _
  | .sysw pd _ | .gtime pd _ | .feat pd _ _ | .perf pd _ _ | .tlbinv pd _ _ => pd
  | _ => .always

/-- The consumer fields of a word, t0 first (R288, R289). -/
def Instr.outs : Instr → List Target
  | .mov _ t1 t0 | .steer t1 t0 | .merge t1 t0 | .carry t1 t0 | .invar t1 t0 | .gate _ t1 t0 | .punct _ _ _ t1 t0
  | .setpn _ _ _ t1 t0 | .strip _ _ t1 t0 | .add _ _ _ t1 t0 | .sub _ _ _ t1 t0 | .mul _ _ _ t1 t0
  | .mulhs _ _ t1 t0 | .mulhu _ _ t1 t0 | .mad _ _ _ t1 t0 | .neg _ _ _ t1 t0 | .abs _ _ _ t1 t0 | .mins _ _ t1 t0
  | .minu _ _ t1 t0 | .maxs _ _ t1 t0 | .maxu _ _ t1 t0 | .divs _ _ t1 t0 | .divu _ _ t1 t0 | .remu _ _ t1 t0
  | .and _ _ t1 t0 | .or _ _ t1 t0 | .xor _ _ t1 t0 | .andn _ _ t1 t0 | .not _ _ t1 t0 | .shl _ _ t1 t0
  | .shr _ _ t1 t0 | .sar _ _ t1 t0 | .rol _ _ t1 t0 | .clz _ _ t1 t0 | .popc _ _ t1 t0 | .bfx _ _ t1 t0
  | .bfi _ _ t1 t0 | .cmpeq _ _ t1 t0 | .cmpne _ _ t1 t0 | .cmplt _ _ t1 t0 | .cmple _ _ t1 t0 | .cmpltu _ _ t1 t0
  | .cmpleu _ _ t1 t0 | .fcmpeq _ _ t1 t0 | .fcmplt _ _ t1 t0 | .fcmple _ _ t1 t0 | .fcmpun _ _ t1 t0
  | .sel _ _ t1 t0 | .pand _ _ t1 t0 | .por _ _ t1 t0 | .pnot _ _ t1 t0 | .fadd _ _ t1 t0 | .fsub _ _ t1 t0
  | .fmul _ _ t1 t0 | .fma _ _ t1 t0 | .fms _ _ t1 t0 | .fnma _ _ t1 t0 | .fmin _ _ t1 t0 | .fmax _ _ t1 t0
  | .fabs _ _ t1 t0 | .fneg _ _ t1 t0 | .fcpys _ _ t1 t0 | .frint _ _ _ t1 t0 | .fscl _ _ t1 t0 | .frcp _ _ t1 t0
  | .frsq _ _ t1 t0 | .fsqrt _ _ t1 t0 | .fdiv _ _ t1 t0 | .fexp2 _ _ t1 t0 | .flog2 _ _ t1 t0 | .fsin _ _ t1 t0
  | .fcos _ _ t1 t0 | .ftanh _ _ t1 t0 | .fsigm _ _ t1 t0 | .cvt _ _ t1 t0 | .cvtT _ t1 t0 | .cvtfi _ _ _ t1 t0
  | .cvtif _ _ _ t1 t0 | .qblk _ _ t1 t0 | .scale _ _ _ t1 t0 | .shuf _ t1 t0 | .bcast _ t1 t0 | .lrot _ t1 t0
  | .redadd _ _ t1 t0 | .redmax _ _ t1 t0 | .redmin _ _ t1 t0 | .scanadd _ _ t1 t0 | .pack _ _ _ t1 t0
  | .unpack _ _ _ _ t1 t0 | .valid _ t1 t0 | .vmask _ _ t1 t0 | .compact _ t1 t0 | .expand _ t1 t0 | .any _ t1 t0
  | .all _ t1 t0 | .lext _ _ t1 t0 | .mma _ _ t1 t0 | .mmat _ _ t1 t0 | .mdrain _ _ _ t1 t0 | .crd _ t1 t0
  | .cwr _ t1 t0 | .prd _ t1 t0 | .pwr _ t1 t0 | .fbits _ _ t1 t0 | .fget _ _ t1 t0 | .read _ t1 t0
  | .readv _ t1 t0 => [t0, t1]
  | .const _ t0 | .lit _ t0 | .addi _ _ t0 | .shli _ _ t0 | .shri _ _ t0 | .sari _ _ t0 | .cmpeqi _ _ t0
  | .cmplti _ _ t0 | .rdv _ _ t0 | .wait _ _ t0 | .ld8 _ _ _ _ t0 | .ld16 _ _ _ _ t0 | .ld32 _ _ _ _ t0
  | .ld64 _ _ _ _ t0 | .ldt _ _ _ _ t0 | .ldx64 _ _ _ _ t0 | .aadd _ _ _ _ t0 | .amin _ _ _ _ t0 | .amax _ _ _ _ t0
  | .aminu _ _ _ _ t0 | .amaxu _ _ _ _ t0 | .aand _ _ _ _ t0 | .aor _ _ _ _ t0 | .axor _ _ _ _ t0
  | .axchg _ _ _ _ t0 | .acas _ _ _ _ t0 | .afadd _ _ _ _ t0 | .afmax _ _ _ _ t0 | .kwait _ _ _ _ t0
  | .ktry _ _ _ _ t0 | .kread _ _ _ t0 | .lzresv _ _ _ t0 | .lzstat _ _ _ t0 | .lzstatZone _ _ _ t0 | .enq _ _ _ t0
  | .ingr _ _ _ t0 | .sysr _ _ t0 | .gtime _ t0 | .feat _ _ t0 | .perf _ _ t0 => [t0]
  | _ => []

/-- The slots of the Reads column (R293); MERGE and CARRY read P and the one of L and R that it selects. -/
def Instr.reads : Instr → List Slot
  | .mov .. | .sink .. | .punct .. | .setpn .. | .strip .. | .addi .. | .neg .. | .abs .. | .not .. | .shli ..
  | .shri .. | .sari .. | .clz .. | .popc .. | .cmpeqi .. | .cmplti .. | .pnot .. | .fabs .. | .fneg .. | .frint ..
  | .frcp .. | .frsq .. | .fsqrt .. | .fexp2 .. | .flog2 .. | .fsin .. | .fcos .. | .ftanh .. | .fsigm .. | .cvt ..
  | .cvtfi .. | .cvtif .. | .qblk .. | .scale .. | .srseed .. | .redadd .. | .redmax .. | .redmin .. | .scanadd ..
  | .unpack .. | .valid .. | .compact .. | .any .. | .all .. | .mma .. | .mdrain .. | .mload .. | .mscale ..
  | .mwaddr .. | .mzero .. | .mswap .. | .out .. | .cwr .. | .prd .. | .pwr .. | .fbits .. | .fget .. | .write ..
  | .fork .. | .ld8 .. | .ld16 .. | .ld32 .. | .ld64 .. | .ldt .. | .ldx64 .. | .kread .. | .lzstat ..
  | .lzstatZone .. | .ingr .. | .sysw .. => [.l]
  | .add .. | .sub .. | .mul .. | .mulhs .. | .mulhu .. | .mins .. | .minu .. | .maxs .. | .maxu .. | .divs ..
  | .divu .. | .remu .. | .and .. | .or .. | .xor .. | .andn .. | .shl .. | .shr .. | .sar .. | .rol .. | .bfx ..
  | .cmpeq .. | .cmpne .. | .cmplt .. | .cmple .. | .cmpltu .. | .cmpleu .. | .fcmpeq .. | .fcmplt .. | .fcmple ..
  | .fcmpun .. | .pand .. | .por .. | .fadd .. | .fsub .. | .fmul .. | .fmin .. | .fmax .. | .fcpys .. | .fscl ..
  | .fdiv .. | .shuf .. | .bcast .. | .lrot .. | .pack .. | .vmask .. | .expand .. | .lext .. | .mmat .. | .st8 ..
  | .st16 .. | .st32 .. | .st64 .. | .stt .. | .pref .. | .aadd .. | .amin .. | .amax .. | .aminu .. | .amaxu ..
  | .aand .. | .aor .. | .axor .. | .axchg .. | .afadd .. | .afmax .. | .kadd .. | .kwait .. | .ktry ..
  | .lzresv .. | .lzresvDeclare .. | .lzrel .. | .lzrelRetire .. | .enq .. | .egr .. | .tlbinv .. | .gate .. =>
    [.l, .r]
  | .mad .. | .bfi .. | .sel .. | .fma .. | .fms .. | .fnma .. | .acas .. | .kinit .. => [.l, .r, .t]
  | .cvtT .. => [.l, .t]
  | .steer .. | .invar .. => [.l, .p]
  | .merge .. | .carry .. => [.l, .r, .p]
  | _ => []

/-- The issue classes of a cell (R179). -/
inductive IssueClass where
  | m | v | f | d
  deriving DecidableEq, Repr

/-- The Class column (R293), for the words that may stand in a cell. -/
def Instr.issueClass : Instr → IssueClass
  | .mma .. | .mmat .. | .mzero .. | .mdrain .. | .mload .. | .mswap .. | .mscale .. | .mwaddr .. => .m
  | .frcp .. | .frsq .. | .fsqrt .. | .fdiv .. | .fexp2 .. | .flog2 .. | .fsin .. | .fcos .. | .ftanh .. | .fsigm .. => .f
  | .mov .. | .steer .. | .merge .. | .carry .. | .invar .. | .gate .. | .sink .. | .punct .. | .setpn .. | .strip .. | .const .. | .lit ..
  | .pand .. | .por .. | .pnot .. | .out .. | .crd .. | .cwr .. | .prd .. | .pwr .. => .d
  | _ => .v

/-- The number of a class, and its firings in one cycle (R179). -/
def IssueClass.no : IssueClass → Nat
  | .m => 0 | .v => 1 | .f => 2 | .d => 3

def IssueClass.limit : IssueClass → Nat
  | .d => 2
  | _ => 1

/-- Strand, mask and exclusiveness of a value-returning word. -/
def Instr.vop : Instr → Option (Strand × SMask × Bool)
  | .ld8 _ _ sn m _ | .ld16 _ _ sn m _ | .ld32 _ _ sn m _ | .ld64 _ _ sn m _ | .ldt _ _ sn m _ => some (sn, m, false)
  | .kread _ sn m _ | .lzstat _ sn m _ | .lzstatZone _ sn m _ => some (sn, m, false)
  | .ldx64 _ _ sn m _ => some (sn, m, true)
  | _ => none

/-- Strand and mask of a commit item that names a strand (R239). -/
def Instr.commitStrand : Instr → Option (Strand × SMask)
  | .st8 _ _ sn m | .st16 _ _ sn m | .st32 _ _ sn m | .st64 _ _ sn m | .stt _ _ sn m => some (sn, m)
  | .aadd _ _ sn m _ | .amin _ _ sn m _ | .amax _ _ sn m _ | .aminu _ _ sn m _ | .amaxu _ _ sn m _ | .aand _ _ sn m _
  | .aor _ _ sn m _ | .axor _ _ sn m _ | .axchg _ _ sn m _ | .acas _ _ sn m _ | .afadd _ _ sn m _ | .afmax _ _ sn m _ =>
    some (sn, m)
  | .kinit _ sn m | .kadd _ sn m | .kwait _ _ sn m _ | .ktry _ _ sn m _ => some (sn, m)
  | .lzresv _ sn m _ | .lzresvDeclare _ sn m | .lzrel _ sn m | .lzrelRetire _ sn m => some (sn, m)
  | .enq _ sn m _ | .ingr _ sn m _ | .egr _ sn m | .tlbinv _ sn m | .fork _ _ sn m | .pref _ sn m => some (sn, m)
  | _ => none

/-- Whether a word has the format FM: it names a strand (R239, R299). -/
def Instr.ordered (i : Instr) : Bool := i.vop.isSome || i.commitStrand.isSome

end Sys2Proof

namespace Sys2Proof.Machine

/-! ## The unit in focus -/

/-- What a unit executes: its block's kind and words, its literal pool, and its operand slots. -/
structure View where
  kind : BlockKind
  words : List W32
  pool : List W32
  nodes : Tab Node
  deriving DecidableEq, Repr

/-- The block of a unit that may fire now (R182, R194, R299); none while its ring is stopped. -/
def State.view (s : State) (u : UnitId) : Option View :=
  match u with
  | .seq r =>
    match s.running r, (s.ring r).seqr.blk with
    | some _, some b => some { kind := .atomic, words := b.words, pool := b.pool, nodes := b.nodes }
    | _, _ => none
  | .cell r p j =>
    match s.running r, s.fabric r with
    | some _, some f =>
      if f.rollback.isSome || (f.stripe p).snapping.isSome || s.atWave r then none
      else
        (f.config p j).map fun c => { kind := .streaming, words := c.words, pool := c.pool, nodes := (f.cell p j).nodes }
    | _, _ => none

/-- The operand slots of index `k` of a unit. -/
def State.node (s : State) (u : UnitId) (k : Nat) : Node :=
  match u with
  | .seq r => match (s.ring r).seqr.blk with | some b => b.nodes.get {} k | none => {}
  | .cell r p j => match s.fabric r with | some f => (f.cell p j).nodes.get {} k | none => {}

def State.setNode (s : State) (u : UnitId) (k : Nat) (n : Node) : State :=
  match u with
  | .seq r => s.modSeqr r fun q => { q with blk := q.blk.map fun b => { b with nodes := b.nodes.put k n } }
  | .cell r p j =>
    s.modFabric r fun f =>
      let c := f.cell p j
      f.setCell p j { c with nodes := c.nodes.put k n }

def Node.slot (n : Node) : Slot → Option SlotVal
  | .l => n.l
  | .r => n.r
  | .p => n.p
  | .t => n.t

def Node.setSlot (n : Node) (q : Slot) (v : Option SlotVal) : Node :=
  match q with
  | .l => { n with l := v }
  | .r => { n with r := v }
  | .p => { n with p := v }
  | .t => { n with t := v }

/-! ## Readiness -/

/-- The predicate that a node holds: CARRY's preloaded false comes first (R310). -/
def Node.truth? (n : Node) : Option Bool := if n.pre then some false else n.p.map (·.v.truth)

/-- Slots that the next firing of a word takes: MERGE and CARRY take P and what it selects (R297, R309, R310). -/
def needs (i : Instr) (n : Node) : List Slot :=
  match i with
  | .merge .. => .p :: (match n.truth? with | some true => [.l] | some false => [.r] | none => [])
  | .carry .. => .p :: (match n.truth? with | some true => [.r] | some false => [.l] | none => [])
  | _ => i.reads ++ (if i.pd = .always then [] else [.p])

/-- Whether a slot holds a value. -/
def Node.has (n : Node) (q : Slot) : Bool := (n.slot q).isSome || (q == .p && n.pre)

/-- Whether slot P holds a token, which is of the wrong kind on the sequencer (R295, R303, R306, R377). -/
def Node.tokenP (n : Node) : Bool := !n.pre && match n.p with | some { v := .tok _, .. } => true | _ => false

/-- Whether the predicate of a word lets it act (R290). -/
def predOk (i : Instr) (n : Node) : Bool :=
  match i.pd with
  | .always => true
  | .ifTrue => n.truth? == some true
  | .ifFalse => n.truth? == some false

/-- The decoded word of an index, where it is an instruction. -/
def wordAt (ws : List W32) (k : Nat) : Option Instr :=
  match ws[k]? with
  | some w => match decodeWord w with | .ok i => some i | .error _ => none
  | none => none

/-! ## Settling (R299) -/

/-- Whether an instruction of the block still owes a value: a load that has not performed (R240). -/
def Seqr.owes (q : Seqr) (k : Nat) : Bool :=
  q.ops.any fun o =>
    !o.committed &&
      (match o.work with
      | .load _ n _ | .kread _ n _ | .lzstat _ _ n _ => n == k
      | _ => false)

/-- Whether nothing can fill a slot any more, given the instructions known to be settled without firing. -/
def Seqr.lost (q : Seqr) (b : Blk) (dead : List Nat) (k : Nat) (sl : Slot) : Bool :=
  !(Tab.get ({} : Node) b.nodes k).has sl &&
    (List.range b.words.length).all fun j =>
      match wordAt b.words j with
      | some i =>
        !i.outs.contains (.to sl (BitVec.ofNat 7 k)) || dead.contains j || ((Tab.get ({} : Node) b.nodes j).fired && !q.owes j)
      | none => true

/-- One round of settling: the indices that can no longer fire. -/
def Seqr.settleOnce (q : Seqr) (b : Blk) (dead : List Nat) : List Nat :=
  (List.range b.words.length).filter fun k =>
    let n := Tab.get ({} : Node) b.nodes k
    !n.fired &&
      (n.dead ||
        (match wordAt b.words k with
        | some i => (i.pd != .always && n.p.isSome && !n.tokenP && !predOk i n) || (needs i n).any (q.lost b dead k)
        | none => true))

/-- Instructions of the block that are settled without having fired. -/
def Seqr.deadSet (q : Seqr) (b : Blk) : List Nat :=
  (List.range (b.words.length + 1)).foldl (fun d _ => q.settleOnce b d) []

/-- Whether every instruction of the block is settled (R300). -/
def Seqr.allSettled (q : Seqr) (b : Blk) : Bool :=
  let dead := q.deadSet b
  (List.range b.words.length).all fun k => (Tab.get ({} : Node) b.nodes k).fired || dead.contains k

/-! ## Readiness of a word -/

/-- Producers that fire once in each activation (R180). -/
def isSticky : Instr → Bool
  | .const .. | .lit .. | .crd .. => true
  | _ => false

/-- Targets that an uncommitted load has reserved for its value (R178, R240). -/
def Seqr.reserved (q : Seqr) (t : Target) : Bool :=
  q.ops.any fun o =>
    !o.committed &&
      (match o.work with
      | .load _ _ t0 | .kread _ _ t0 | .lzstat _ _ _ t0 => t0 == t
      | _ => false)

/-- Whether a firing takes the value of a slot away: what is sticky stays, and so does INVAR's L under a true predicate and what waits behind
CARRY's preloaded predicate (R178, R180, R310, R311). -/
def Node.takes (n : Node) (i : Instr) (q : Slot) : Bool :=
  (needs i n).contains q && !(q == .p && n.pre) && !(q == .l && (match i with | .invar .. => n.truth? == some true | _ => false)) &&
    (match n.slot q with | some v => !v.sticky | none => false)

/-- Whether a target of a firing can take its result: empty, or a slot that this firing consumes (R178); a consumer
that has fired or settled takes and discards anything (R299). -/
def State.targetFree (s : State) (u : UnitId) (k : Nat) (i : Instr) (t : Target) : Bool :=
  match t with
  | .null => true
  | .to q x =>
    let n := s.node u x.toNat
    match u with
    | .seq r =>
      let z := (s.ring r).seqr
      n.fired || n.dead || ((n.slot q).isNone && !z.reserved t) || (x.toNat == k && n.takes i q) ||
        (match z.blk with | some b => (z.deadSet b).contains x.toNat | none => false)
    | .cell .. => (n.slot q).isNone || (x.toNat == k && n.takes i q)

/-- Whether every target of a firing can take its result. -/
def State.targetsFree (s : State) (u : UnitId) (k : Nat) (i : Instr) : Bool := i.outs.all (s.targetFree u k i)

/-- Whether a slot that a firing takes is still to receive its value (R374). -/
def Node.late (n : Node) (i : Instr) (now : Nat) : Bool := (needs i n).any fun q => (n.slot q).any (now < ·.at')

/-- The operands of a firing. -/
structure Opers where
  l : Option Val := none
  r : Option Val := none
  t : Option Val := none
  /-- P as its truth, and its punctuation (R290, R311). -/
  p : Bool := false
  pp : BitVec 3 := 0
  deriving DecidableEq, Repr

/-- What the firing rules say of a word: it waits, it consumes or settles without effect, it fires, or it traps as it fires since a token stands
in its slot P (R295). -/
inductive Ready where
  | wait
  | skip
  | go (o : Opers)
  | bad
  deriving DecidableEq, Repr

def punctOf : Val → BitVec 3
  | .sc _ => 0
  | .tok t => t.punct

def Node.opers (n : Node) : Opers :=
  { l := n.l.map (·.v), r := n.r.map (·.v), t := n.t.map (·.v), p := n.truth? == some true,
    pp := if n.pre then 0 else match n.p with | some v => punctOf v.v | none => 0 }

/-- The slot part of readiness (R178, R297, R299). -/
def State.slotsReady (s : State) (u : UnitId) (k : Nat) (i : Instr) : Ready :=
  match s.view u with
  | none => .wait
  | some v =>
    let n := s.node u k
    if n.fired || n.dead then .wait
    else
      match v.kind with
      | .atomic =>
        if i.pd ≠ .always ∧ n.p.isSome ∧ !n.tokenP ∧ !predOk i n then .skip
        else if (needs i n).all n.has && s.targetsFree u k i then (if n.tokenP then .bad else .go n.opers) else .wait
      | .streaming =>
        if (needs i n).all n.has && !n.late i (s.cycle u.ring) && s.targetsFree u k i then (if predOk i n then .go n.opers else .skip) else .wait

/-! ## Value-returning operations of a block (R240 to R242) -/

/-- Whether a snapshot on strand `sn` with mask `m` holds an earlier operation of strand `ys` (R241). -/
def holds (sn : Strand) (m : SMask) (excl : Bool) (ys : Strand) (yexcl : Bool) : Bool :=
  m.getLsbD ys.toNat || (ys == sn && (excl || yexcl))

/-- Operations of a strand that have issued and not performed (R242). -/
def Seqr.onStrand (q : Seqr) (sn : Strand) : Nat := (q.ops.filter fun o => o.strand == sn).length

/-- Whether a value-returning word at `k` may issue: its strand has a place and no lower-indexed one that its snapshot
would hold is still to issue; one that is settled without firing never issues (R240, R242, R299). -/
def State.mayIssue (s : State) (r k : Nat) (i : Instr) : Bool :=
  match i.vop, (s.ring r).seqr.blk with
  | some (sn, m, ex), some b =>
    let dead := (s.ring r).seqr.deadSet b
    (s.ring r).seqr.onStrand sn < 255 &&
      (List.range k).all fun j =>
        match (wordAt b.words j).bind Instr.vop with
        | some (ys, _, yex) =>
          let n := Tab.get ({} : Node) b.nodes j
          n.fired || dead.contains j || !holds sn m ex ys yex
        | none => true
  | _, _ => true

/-- Pass register of the boundary above stripe `p`, column `j`: stripe (p - 1) mod P holds it (R192). -/
def passKey (p j reg : Nat) : Nat := (32 * p + j) * 4 + reg

/-- The stripe whose outgoing boundary leads into stripe `p` (R184, R192). -/
def Fabric.above (f : Fabric) (p : Nat) : Nat :=
  if f.scroll then (p + f.p - 1) % f.p else if p = 0 then f.hdr.v - 1 else p - 1

/-- Whether a fork of the task is outstanding (R380, R383). -/
def Seqr.forksOut (q : Seqr) : Bool :=
  (List.range 4).any fun h => match Tab.get Handle.free q.handles h with | .outstanding _ => true | _ => false

/-- Firings of a kind in a cycle. -/
def Fires.get (x : Fires) (now kind : Nat) : Nat := if x.at' = now then Tab.get 0 x.count kind else 0

def Fires.add (x : Fires) (now kind : Nat) : Fires :=
  { at' := now, count := Tab.put (if x.at' = now then x.count else []) kind (x.get now kind + 1) }

/-- Conditions that some words add to readiness (R175, R192, R360, R379, R380, R385, R386, R240). -/
def State.mayFire (s : State) (u : UnitId) (k : Nat) (i : Instr) : Bool :=
  match u with
  | .seq r =>
    let q := (s.ring r).seqr
    (q.blk.all fun b => b.since ≤ s.cycle r) &&
    match i with
    | .read reg _ _ => (q.pending.look reg.toNat).isNone
    | .rdv _ h _ =>
      match Tab.get Handle.free q.handles h.toNat with
      | .outstanding _ => match q.blk with | some b => b.freed.contains h | none => false
      | _ => true
    | .wait _ n _ => match q.blk with | some b => b.since + n.toNat ≤ s.cycle r + 1 | none => false
    | .done _ => !q.forksOut
    | _ => s.mayIssue r k i
  | .cell r p j =>
    match s.fabric r with
    | none => false
    | some f =>
      match i with
      | .out _ port _ =>
        match f.config p j with
        | some c => s.hasRoom (s.outDest r f p j c port)
        | none => false
      | .prd reg _ _ => (f.passReg.look (passKey (f.above p) j reg.toNat)).isSome
      | .mma .. | .mmat .. | .mzero .. | .mdrain .. | .mload .. | .mswap .. | .mscale .. | .mwaddr .. =>
        (f.cell p j).drain.isNone
      | _ => true

/-- Readiness (R178, R297, R299), whatever else may fire in the cycle. A cell's word with a mismatched predicate is as ready as any. -/
def State.canFire (s : State) (u : UnitId) (k : Nat) (i : Instr) : Ready :=
  match s.slotsReady u k i, u with
  | .skip, .seq _ => .skip
  | .wait, _ => .wait
  | x, _ => if s.mayFire u k i then x else .wait

/-- Whether a cell has a firing of a class left in a cycle (R179). -/
def Cell.opens (c : Cell) (k : IssueClass) (now : Nat) : Bool :=
  c.fires.get now k.no < k.limit && (k != .f || match c.lastF with | some t => t + 1 < now | none => true)

/-- Whether index `a` of a cell comes before index `b` of its class: what has been ready for 64 cycles first, the longest first, then by index
(R179, log 91). -/
def Cell.ahead (c : Cell) (now a b : Nat) : Bool :=
  let aged (k : Nat) : Option Nat := (c.since.look k).bind fun t => if t + 64 ≤ now then some t else none
  match aged a, aged b with
  | some x, some y => x < y || (x == y && a < b)
  | some _, none => true
  | none, some _ => false
  | none, none => a < b

/-- The number of an out-port. -/
def outPortNo : OutPort → Nat
  | .down => 0 | .right => 1 | .left => 2 | .edge => 3

/-- Whether an out-port of a cell has sent no token in a cycle (R175, R370). -/
def Cell.portOpen (c : Cell) (port : OutPort) (now : Nat) : Bool := c.fires.get now (5 + outPortNo port) == 0

/-- An out-port sends a token. -/
def Cell.portUsed (c : Cell) (port : OutPort) (now : Nat) : Cell := { c with fires := c.fires.add now (5 + outPortNo port) }

/-- Whether the out-port of an OUT can still take it in a cycle. -/
def Cell.mayOut (c : Cell) (i : Instr) (now : Nat) : Bool := match i with | .out _ port _ => c.portOpen port now | _ => true

/-- Whether two words have a target slot in common. -/
def sharesTarget (i y : Instr) : Bool := i.outs.any fun t => t != .null && y.outs.contains t

/-- Whether a ready word of a cell comes first in its class (R179). -/
def State.leads (s : State) (u : UnitId) (v : View) (c : Cell) (now k : Nat) (i : Instr) : Bool :=
  c.opens i.issueClass now && c.mayOut i now &&
    (List.range v.words.length).all fun n =>
      match wordAt v.words n with
      | some y => n == k || y.issueClass != i.issueClass || !c.ahead now n k || !c.mayOut y now || s.canFire u n y == .wait
      | none => true

/-- Whether it fires: no word of an earlier class that fires in the cycle reserves a slot that it targets (R298); `fuel` is the number of classes
before its own. -/
def State.wins (s : State) (u : UnitId) (v : View) (c : Cell) (now : Nat) : Nat → Nat → Instr → Bool
  | 0, k, i => s.leads u v c now k i
  | fuel + 1, k, i =>
    s.leads u v c now k i &&
      (List.range v.words.length).all fun n =>
        match wordAt v.words n with
        | some y =>
          !(y.issueClass.no < i.issueClass.no && sharesTarget i y && (match s.canFire u n y with | .go _ => true | _ => false) &&
            s.wins u v c now fuel n y)
        | none => true

/-- Whether a word that is ready has its place in the present cycle: its class in a cell and the slots that it targets (R179, R298), or on the
sequencer one of four firings, lowest index first, and the one of an FM word (R299). -/
def State.issues (s : State) (u : UnitId) (k : Nat) (i : Instr) : Bool :=
  match u with
  | .seq r =>
    match (s.ring r).seqr.blk with
    | none => false
    | some b =>
      let now := s.cycle r
      let fm (y : Instr) : Bool := y.ordered && b.fires.get now 1 != 0
      b.fires.get now 0 < 4 && !fm i &&
        (List.range k).all fun j =>
          match wordAt b.words j with
          | some y => fm y || (match s.canFire u j y with | .wait => true | .skip => true | _ => false)
          | none => true
  | .cell r p j =>
    match s.fabric r, s.view u with
    | some f, some v => s.wins u v (f.cell p j) (s.cycle r) 3 k i
    | _, _ => false

/-- Units of 8 bytes that an MMA step of a cell reads from the slice of its column, of 128 in one cycle (R360). -/
def Cell.sliceUnits (c : Cell) : Nat := if c.wdesc.getLsbD 27 then 9 else 8

/-- Whether an MMA is the word that a cell would fire next (R360). -/
def State.wantsSlice (s : State) (u : UnitId) : Bool :=
  match s.view u with
  | none => false
  | some v =>
    (List.range v.words.length).any fun k =>
      match wordAt v.words k with
      | some (.mma pd f t1 t0) => (match s.canFire u k (.mma pd f t1 t0) with | .go _ => s.issues u k (.mma pd f t1 t0) | _ => false)
      | _ => false

/-- Whether a column's slice can serve an MMA of stripe `p` in the present cycle, after those that it has served and those whose stripes come
before it; the first stripe is one later in each cycle (R360, log 96). -/
def State.sliceServes (s : State) (r : RingId) (p : StripeId) (j : ColId) : Bool :=
  match s.fabric r with
  | none => true
  | some f =>
    let now := s.cycle r
    let rank (q : Nat) : Nat := (q + 16 - now % 16) % 16
    let taken (q : Nat) : Nat :=
      let c := f.cell q j
      if c.fires.get now 4 != 0 || (rank q < rank p && s.wantsSlice (.cell r (Fin.ofNat 16 q) j)) then c.sliceUnits else 0
    (f.cell p j).sliceUnits + ((List.range 16).map taken).sum ≤ 128

/-- Whether what a word's firing needs beside its class is there in the present cycle: an MMA's step from the slice (R360). -/
def State.served? (s : State) (u : UnitId) (i : Instr) (x : Ready) : Bool :=
  match u, i, x with
  | .cell r p j, .mma .., .go _ => s.sliceServes r p j
  | _, _, _ => true

/-- Whether the word in focus fires, is consumed without effect, traps, or waits. -/
def State.readyAt (s : State) (u : UnitId) (k : Nat) (i : Instr) : Ready :=
  match s.canFire u k i, u with
  | .wait, _ => .wait
  | .skip, .seq _ => .skip
  | x, _ => if s.issues u k i && s.served? u i x then x else .wait

def State.ready (s : State) (i : Instr) : Ready := s.readyAt s.focus s.focusIdx i

/-- The drain that a cell goes on with (R360, R366). -/
def State.drainOf (s : State) (u : UnitId) : Option Drain :=
  match u with
  | .cell r p j => (s.fabric r).bind fun f => (f.cell p j).drain
  | .seq _ => none

/-- Targets that the row which leaves has still to reach (R366). -/
def Drain.due (d : Drain) (i : Instr) : List Target := if d.waits.isEmpty then i.outs else d.waits

/-- A word of a unit that fires next, or that emits the next row of a drain (R179, R299, R366). -/
def State.firstReady (s : State) (u : UnitId) : Option Nat :=
  match s.view u with
  | none => none
  | some v =>
    (List.range v.words.length).find? fun k =>
      match wordAt v.words k with
      | some i =>
        s.readyAt u k i != .wait ||
          (match s.drainOf u with | some d => d.node == k && (d.due i).any (s.targetFree u k i) | none => false)
      | none => false

/-- Whether any word of a unit is ready (R187). -/
def State.anyReady (s : State) (u : UnitId) : Bool :=
  match s.view u with
  | none => false
  | some v => (List.range v.words.length).any fun k => match wordAt v.words k with | some i => s.canFire u k i != .wait | none => false

/-! ## Consumption and delivery -/

/-- The node after a firing in a cell: what is not sticky goes (R178, R180, R310, R311). -/
def Node.consume (n : Node) (i : Instr) : Node :=
  let drop (m : Node) (q : Slot) : Node :=
    if q == .p && n.pre then { m with pre := false } else if n.takes i q then m.setSlot q none else m
  let m := (needs i n).foldl drop n
  if isSticky i then { m with fired := true } else m

/-- A cell after a firing of one of its words (R179). -/
def Cell.fired (c : Cell) (k : Nat) (i : IssueClass) (now : Nat) : Cell :=
  { c with fires := c.fires.add now i.no, lastF := if i = .f then some now else c.lastF, since := c.since.del k }

/-- A block after a firing of one of its words (R299). -/
def Blk.fired (b : Blk) (i : Instr) (now : Nat) : Blk :=
  { b with fires := if i.ordered then (b.fires.add now 0).add now 1 else b.fires.add now 0 }

/-- The word in focus has fired, with effect or without (R297, R299, R398). -/
def State.consume (s : State) (i : Instr) : State :=
  let n := s.node s.focus s.focusIdx
  match s.focus with
  | .seq r =>
    ((s.setNode s.focus s.focusIdx { n with l := none, r := none, p := none, t := none, pre := false, fired := true }).modSeqr r fun q =>
      { q with blk := q.blk.map (·.fired i (s.cycle r)) }).event r 0x03
  | .cell r p j =>
    (((s.setNode s.focus s.focusIdx (n.consume i)).modFabric r fun f =>
      f.setCell p j ((f.cell p j).fired s.focusIdx i.issueClass (s.cycle r))).event r 0x08).moved r

/-- The word in focus settles, or in a cell consumes its operands, without effect (R297, R299). -/
def State.skip (s : State) (i : Instr) : State :=
  match s.focus with
  | .seq _ => s.setNode s.focus s.focusIdx { s.node s.focus s.focusIdx with dead := true }
  | .cell .. => s.consume i

/-- A value reaches a target of a unit; one that has fired or settled in an atomic block discards it (R299).
A cell's slot may hold it only from cycle `at'` on (R374). -/
def State.deliverTo (s : State) (u : UnitId) (t : Target) (v : Val) (sticky : Bool := false) (at' : Nat := 0) : State :=
  match t with
  | .null => s
  | .to q x =>
    let n := s.node u x.toNat
    match u with
    | .seq _ => if n.fired || n.dead then s else s.setNode u x.toNat (n.setSlot q (some { v := v, sticky := sticky }))
    | .cell .. => s.setNode u x.toNat (n.setSlot q (some { v := v, sticky := sticky, at' := at' }))

/-- A result reaches every target of the word in focus (R303). -/
def State.deliver (s : State) (i : Instr) (v : Val) : State :=
  i.outs.foldl (fun s t => s.deliverTo s.focus t v (isSticky i)) s

/-- The virtual address of a word of the fetched block (R294, R318). -/
def State.wordVa (s : State) (r k : Nat) : Word :=
  (match (s.ring r).seqr.blk with | some b => b.addr | none => (s.ring r).seqr.pc) + BitVec.ofNat 64 (4 + 4 * k)

/-- A cause raised by the word in focus as it fires (R301). -/
def State.failWord (s : State) (c : Cause) (va : Option Word := none) : State :=
  match s.focus with
  | .seq r => s.trapSeq r c (va.getD (s.wordVa r s.focusIdx))
  | .cell r _ _ => s.trapFabric r c (va.getD 0)

/-- The kind of block in focus. -/
def UnitId.kind : UnitId → BlockKind
  | .seq _ => .atomic
  | .cell .. => .streaming

/-- A word as the firing rules let it act: it waits, it is consumed without effect, or `act` gives its effect. -/
def whenReady (i : Instr) (s : State) (act : Opers → State → State) : Out :=
  match s.ready i with
  | .wait => .next s
  | .skip => .next (s.skip i)
  | .go o => .next (act o s)
  | .bad => .next (s.failWord 0x05)

/-- A word whose whole effect is a value delivered to its targets, or a cause. -/
def fireValue (i : Instr) (s : State) (f : Opers → Except Cause Val) : Out :=
  whenReady i s fun o s =>
    match f o with
    | .ok v => (s.consume i).deliver i v
    | .error c => s.failWord c

end Sys2Proof.Machine
end

