-- ==== Sys2Proof/Machine/Flags.lean ====
section
/-!
DEFINITION. How results are computed from operands: elements of a lane or scalar (R256, R303), valid bits and
punctuation of a result (R303), predicates and comparisons (R304, R324), saturation (R317).
-/

namespace Sys2Proof

/-! ## Widths and raw formats (R291, R324) -/

/-- Bits of an integer element. -/
def IWidth.bits : IWidth → Nat
  | .i32 => 32
  | .i16 => 16
  | .i8 => 8
  | .i64 => 64

/-- Elements of a lane, or of a sequencer scalar, at an integer width. -/
def IWidth.count : IWidth → Nat
  | .i32 => 1
  | .i16 => 2
  | .i8 => 4
  | .i64 => 1

/-- A raw floating-point element by its exponent and fraction widths (R324). -/
structure RawFmt where
  eb : Nat
  mb : Nat
  deriving DecidableEq, Repr

def FWidth.raw : FWidth → RawFmt
  | .f32 => { eb := 8, mb := 23 }
  | .bf16 => { eb := 8, mb := 7 }
  | .f16 => { eb := 5, mb := 10 }

def RawFmt.bits (f : RawFmt) : Nat := 1 + f.eb + f.mb

/-- The bits below the sign. -/
def RawFmt.mag (f : RawFmt) (x : Nat) : Nat := x % 2 ^ (f.eb + f.mb)

def RawFmt.neg (f : RawFmt) (x : Nat) : Bool := x / 2 ^ (f.eb + f.mb) % 2 == 1

/-- The bits of infinity below the sign. -/
def RawFmt.infMag (f : RawFmt) : Nat := (2 ^ f.eb - 1) * 2 ^ f.mb

def RawFmt.isNaN (f : RawFmt) (x : Nat) : Bool := f.infMag < f.mag x

/-- A number whose order is that of the values; -0 and +0 are one (R324). -/
def RawFmt.order (f : RawFmt) (x : Nat) : Int := if f.neg x then -(f.mag x : Int) else f.mag x

def FWidth.count : FWidth → Nat
  | .f32 => 1
  | _ => 2

end Sys2Proof

namespace Sys2Proof.Machine

/-! ## Elements (R256, R303) -/

/-- The two's-complement reading of a `w`-bit element. -/
def sgn (w a : Nat) : Int := if 2 * a < 2 ^ w then (a : Int) else (a : Int) - 2 ^ w

/-- The `w`-bit element that an integer narrows to. -/
def narrow (w : Nat) (v : Int) : Nat := (v % (2 ^ w : Int)).toNat

/-- An integer held within bounds. -/
def clamp (lo hi v : Int) : Int := if v < lo then lo else if hi < v then hi else v

/-- Element `e` of a number cut into `w`-bit elements, element 0 lowest. -/
def elem (w e x : Nat) : Nat := x / 2 ^ (w * e) % 2 ^ w

/-- `f` applied to each of `n` elements of up to three numbers. -/
def elemwise (w n : Nat) (f : Nat → Nat → Nat → Nat) (a b c : Nat) : Nat :=
  (List.range n).foldl (fun acc e => acc + 2 ^ (w * e) * (f (elem w e a) (elem w e b) (elem w e c) % 2 ^ w)) 0

/-! ## Results of cells and of the sequencer (R303) -/

/-- A token computed lane by lane: valid where every operand is, with the largest punctuation, untagged (R303). -/
def laneWise (ts : List Tok) (g : W32 → W32 → W32 → W32) : Tok :=
  let x (k i : Nat) : W32 := match ts[k]? with | some t => t.lane i | none => 0
  Tok.mk' (fun i => g (x 0 i) (x 1 i) (x 2 i)) (ts.foldl (fun v t => v &&& t.valid) 0xFFFF)
    (ts.foldl (fun p t => maxPunct p t.punct) 0)

def Opers.get (o : Opers) : Slot → Option Val
  | .l => o.l
  | .r => o.r
  | .t => o.t
  | .p => none

/-- The operands of L, R and T that a word reads, as tokens; a scalar is of the wrong kind (R295). -/
def Opers.toks (o : Opers) : List Slot → Except Cause (List Tok)
  | [] => .ok []
  | q :: t =>
    match o.get q, o.toks t with
    | some (.tok x), .ok l => .ok (x :: l)
    | _, _ => .error 0x05

/-- The operands as scalars; a token is of the wrong kind (R295, R303). -/
def Opers.scalars (o : Opers) : List Slot → Except Cause (List Word)
  | [] => .ok []
  | q :: t =>
    match o.get q, o.scalars t with
    | some (.sc x), .ok l => .ok (x :: l)
    | _, _ => .error 0x05

/-- Operand `k` of a list of scalars. -/
def opn (l : List Word) (k : Nat) : Nat := match l[k]? with | some x => x.toNat | none => 0

/-- The value of an element-wise instruction: per lane in a cell; on the sequencer one 64-bit element, or the elements of
bits [31:0] with zero above (R303). -/
def elemValue (k : BlockKind) (reads : List Slot) (w n : Nat) (f : Nat → Nat → Nat → Nat) (o : Opers) : Except Cause Val :=
  match k with
  | .streaming =>
    (o.toks reads).map fun ts =>
      .tok (laneWise ts fun a b c => BitVec.ofNat 32 (elemwise w n f a.toNat b.toNat c.toNat))
  | .atomic =>
    (o.scalars reads).map fun l => .sc (BitVec.ofNat 64 (elemwise w n f (opn l 0) (opn l 1) (opn l 2)))

/-- An F2 word of groups 0x1 to 0x3 at an integer width; `f` is given the width. -/
def intWord (i : Instr) (w : IWidth) (f : Nat → Nat → Nat → Nat → Nat) (s : State) : Out :=
  fireValue i s (elemValue s.focus.kind i.reads w.bits w.count (f w.bits))

/-- The element width of FI forms: 32 in a cell, 64 on the sequencer (R303). -/
def fiBits : BlockKind → Nat
  | .streaming => 32
  | .atomic => 64

/-- An FI word of groups 0x1 to 0x3. -/
def immWord (i : Instr) (f : Nat → Nat → Nat) (s : State) : Out :=
  fireValue i s (elemValue s.focus.kind i.reads (fiBits s.focus.kind) 1 fun a _ _ => f (fiBits s.focus.kind) a)

/-! ## Saturation (R317) -/

/-- The exact value `g`, wrapped or saturated. -/
def saturate (sat : Sat) (g : Int → Int → Int → Int) (w a b c : Nat) : Nat :=
  match sat with
  | .wrap => narrow w (g a b c)
  | .sats => narrow w (clamp (-2 ^ (w - 1)) (2 ^ (w - 1) - 1) (g (sgn w a) (sgn w b) (sgn w c)))
  | .satu => narrow w (clamp 0 (2 ^ w - 1) (g a b c))

/-- A one-operand instruction that reads its operand as signed and may saturate signed (R317, NEG and ABS). -/
def saturateS (sats : Bool) (g : Int → Int) (w a : Nat) : Nat :=
  let v := g (sgn w a)
  narrow w (if sats then clamp (-2 ^ (w - 1)) (2 ^ (w - 1) - 1) v else v)

/-! ## Conditions (R304) -/

def bit (b : Bool) : Nat := if b then 1 else 0

/-- A floating-point comparison (R324). -/
def fcmpWord (i : Instr) (w : FWidth) (f : RawFmt → Nat → Nat → Bool) (s : State) : Out :=
  fireValue i s (elemValue s.focus.kind i.reads w.raw.bits w.count fun a b _ => bit (f w.raw a b))

end Sys2Proof.Machine
end

