-- ==== Sys2Proof/Machine/Float.lean ====
section
/-!
DEFINITION. Floating-point numbers as exact values: formats (R255), decoding and encoding, exact arithmetic, and the one
rounding of every result (R262, R263, R265 to R267).
-/

namespace Sys2Proof.Machine

/-! ## Formats (R255) -/

/-- A floating format: widths, bias, the largest finite code below the sign, and the codes it gives infinity and NaN. -/
structure FloatSpec where
  eb : Nat
  mb : Nat
  bias : Nat
  maxMag : Nat
  infMag : Option Nat
  nanMag : Option Nat
  deriving DecidableEq, Repr

def FloatSpec.bits (f : FloatSpec) : Nat := 1 + f.eb + f.mb

def fp32 : FloatSpec := { eb := 8, mb := 23, bias := 127, maxMag := 0x7F7FFFFF, infMag := some 0x7F800000, nanMag := some 0x7FC00000 }
def bf16 : FloatSpec := { eb := 8, mb := 7, bias := 127, maxMag := 0x7F7F, infMag := some 0x7F80, nanMag := some 0x7FC0 }
def fp16 : FloatSpec := { eb := 5, mb := 10, bias := 15, maxMag := 0x7BFF, infMag := some 0x7C00, nanMag := some 0x7E00 }
def e4m3 : FloatSpec := { eb := 4, mb := 3, bias := 7, maxMag := 0x7E, infMag := none, nanMag := some 0x7F }
def e5m2 : FloatSpec := { eb := 5, mb := 2, bias := 15, maxMag := 0x7B, infMag := some 0x7C, nanMag := some 0x7E }
def e2m1 : FloatSpec := { eb := 2, mb := 1, bias := 1, maxMag := 0x7, infMag := none, nanMag := none }

end Sys2Proof.Machine

namespace Sys2Proof

def FWidth.spec : FWidth → Machine.FloatSpec
  | .f32 => Machine.fp32
  | .bf16 => Machine.bf16
  | .f16 => Machine.fp16

def FloatFmt.spec : FloatFmt → Machine.FloatSpec
  | .f32 => Machine.fp32
  | .bf16 => Machine.bf16
  | .f16 => Machine.fp16
  | .e4m3 => Machine.e4m3
  | .e5m2 => Machine.e5m2
  | .e2m1 => Machine.e2m1

end Sys2Proof

namespace Sys2Proof.Machine

/-- A lane format (R255). -/
inductive LaneFmt where
  | flt (f : FloatSpec)
  | int32 | int8 | uint8
  deriving DecidableEq, Repr

/-- The format of a code; 9 to 15 name none. -/
def laneFmt? (code : Nat) : Option LaneFmt :=
  match code with
  | 0 => some (.flt fp32)
  | 1 => some (.flt bf16)
  | 2 => some (.flt fp16)
  | 3 => some (.flt e4m3)
  | 4 => some (.flt e5m2)
  | 5 => some (.flt e2m1)
  | 6 => some .int32
  | 7 => some .int8
  | 8 => some .uint8
  | _ => none

def LaneFmt.bits : LaneFmt → Nat
  | .flt f => f.bits
  | .int32 => 32
  | .int8 => 8
  | .uint8 => 8

/-- Elements per lane (R256). -/
def LaneFmt.perLane (f : LaneFmt) : Nat := 32 / f.bits

/-! ## Exact values -/

/-- An exact value: `fin neg m e` is (-1)^neg × m × 2^e, a signed zero where m is 0. -/
inductive Num where
  | nan
  | inf (neg : Bool)
  | fin (neg : Bool) (m : Nat) (e : Int)
  deriving DecidableEq, Repr

/-- The value of a code (R255). -/
def FloatSpec.decode (f : FloatSpec) (x : Nat) : Num :=
  let mag := x % 2 ^ (f.eb + f.mb)
  let neg := x / 2 ^ (f.eb + f.mb) % 2 == 1
  let e := mag / 2 ^ f.mb
  let m := mag % 2 ^ f.mb
  if f.infMag = some mag then .inf neg
  else if f.maxMag < mag then .nan
  else if e = 0 then .fin neg m (1 - (f.bias + f.mb : Nat))
  else .fin neg (2 ^ f.mb + m) ((e : Int) - (f.bias + f.mb : Nat))

def LaneFmt.decode (f : LaneFmt) (x : Nat) : Num :=
  match f with
  | .flt g => g.decode x
  | .int32 => let v := sgn 32 (x % 2 ^ 32); .fin (v < 0) v.natAbs 0
  | .int8 => let v := sgn 8 (x % 2 ^ 8); .fin (v < 0) v.natAbs 0
  | .uint8 => .fin false (x % 2 ^ 8) 0

def Num.neg : Num → Num
  | .nan => .nan
  | .inf n => .inf (!n)
  | .fin n m e => .fin (!n) m e

def Num.mul : Num → Num → Num
  | .nan, _ => .nan
  | _, .nan => .nan
  | .inf a, .inf b => .inf (a != b)
  | .inf a, .fin b m _ => if m = 0 then .nan else .inf (a != b)
  | .fin a m _, .inf b => if m = 0 then .nan else .inf (a != b)
  | .fin a m e, .fin b n d => .fin (a != b) (m * n) (e + d)

/-- The exact sum; an exact zero is +0 unless both addends are negative zeros (R331). -/
def Num.add : Num → Num → Num
  | .nan, _ => .nan
  | _, .nan => .nan
  | .inf a, .inf b => if a = b then .inf a else .nan
  | .inf a, .fin .. => .inf a
  | .fin .., .inf b => .inf b
  | .fin a m e, .fin b n d =>
    let k := min e d
    let x : Int := (if a then -1 else 1) * (m * 2 ^ (e - k).toNat : Nat)
    let y : Int := (if b then -1 else 1) * (n * 2 ^ (d - k).toNat : Nat)
    let v := x + y
    if v = 0 then .fin (m == 0 && n == 0 && a && b) 0 0 else .fin (v < 0) v.natAbs k

/-- Exact order of two finite values, by magnitude. -/
def magLt (m : Nat) (e : Int) (n : Nat) (d : Int) : Bool :=
  let k := min e d
  m * 2 ^ (e - k).toNat < n * 2 ^ (d - k).toNat

/-! ## Rounding -/

/-- Rounding modes (R262). -/
inductive RMode where
  | rne | rz | rd | ru
  /-- Stochastic, with the new LFSR state (R263). -/
  | sr (u : Nat)
  deriving DecidableEq, Repr

/-- Number of bits of a number, by fuel that bounds it. -/
def bitLen (n : Nat) : Nat := if n = 0 then 0 else Nat.log2 n + 1

/-- Whether a quotient `q` with remainder `rem` of `d` moves away from zero. -/
def RMode.up (r : RMode) (neg : Bool) (q rem d : Nat) : Bool :=
  match r with
  | .rne => d < 2 * rem || (2 * rem == d && q % 2 == 1)
  | .rz => false
  | .rd => neg && 0 < rem
  | .ru => !neg && 0 < rem
  | .sr u => u * d < rem * 2 ^ 32

/-- m × 2^e over 2^u, rounded to an integer. A quotient far below 1 is taken with its distance capped, which changes no
mode's result. -/
def quantise (r : RMode) (neg : Bool) (m : Nat) (e u : Int) : Nat :=
  if u ≤ e then m * 2 ^ (e - u).toNat
  else
    let d := 2 ^ min (u - e).toNat (bitLen m + 40)
    let q := m / d
    if r.up neg q (m % d) d then q + 1 else q

/-- The magnitude code of a rounded value, with an unbounded exponent range above (R262). -/
def FloatSpec.roundMag (f : FloatSpec) (r : RMode) (neg : Bool) (m : Nat) (e : Int) : Nat :=
  if m = 0 then 0
  else
    let least : Int := 1 - (f.bias + f.mb : Nat)
    let u := max (e + (bitLen m : Int) - 1 - f.mb) least
    (u - least).toNat * 2 ^ f.mb + quantise r neg m e u

/-- The sign bit of a format. -/
def FloatSpec.signBit (f : FloatSpec) (neg : Bool) : Nat := if neg then 2 ^ (f.eb + f.mb) else 0

/-- The canonical NaN; a format without one has +0 in its place (R255, R267). -/
def FloatSpec.nanCode (f : FloatSpec) : Nat := f.nanMag.getD 0

/-- An arithmetic result: one RNE rounding, overflow to infinity, canonical NaN (R262, R266). -/
def FloatSpec.arith (f : FloatSpec) (v : Num) : Nat :=
  match v with
  | .nan => f.nanCode
  | .inf n => f.signBit n + f.infMag.getD f.maxMag
  | .fin n m e =>
    let g := f.roundMag .rne n m e
    f.signBit n + (if f.maxMag < g then f.infMag.getD f.maxMag else g)

/-- A converted element with its flags (R267, R268). -/
structure Conv where
  code : Nat
  ovf : Bool := false
  nan : Bool := false
  deriving DecidableEq, Repr

/-- A zero result of E2M1 is 0b0000 (R267). -/
def FloatSpec.tidy (f : FloatSpec) (x : Nat) : Nat := if f = e2m1 && x % 8 == 0 then 0 else x

/-- Flush: a nonzero result below the smallest normal becomes a zero of its sign (R265). -/
def FloatSpec.flushed (f : FloatSpec) (flush neg : Bool) (mag : Nat) : Nat :=
  f.signBit neg + (if flush && mag < 2 ^ f.mb then 0 else mag)

/-- A conversion (R267, R340): saturating, with its flags. -/
def FloatSpec.conv (f : FloatSpec) (r : RMode) (flush : Bool) (v : Num) : Conv :=
  match v with
  | .nan => { code := f.nanCode, nan := true }
  | .inf n =>
    match f.infMag with
    | some i => { code := f.signBit n + i }
    | none => { code := f.signBit n + f.maxMag, ovf := true }
  | .fin n m e =>
    let g := f.roundMag r n m e
    if f.maxMag < g then { code := f.signBit n + f.maxMag, ovf := true }
    else { code := f.tidy (f.flushed flush n g) }

/-- SCALE's rounding: RNE, infinity on overflow, flush by the tag (R341). -/
def FloatSpec.scaleTo (f : FloatSpec) (flush : Bool) (v : Num) : Nat :=
  match v with
  | .fin n m e =>
    let g := f.roundMag .rne n m e
    if f.maxMag < g then f.signBit n + f.infMag.getD f.maxMag else f.flushed flush n g
  | v => f.arith v

/-- A value rounded to an integer (R334, R342). -/
def roundInt (r : RMode) (neg : Bool) (m : Nat) (e : Int) : Nat := if m = 0 then 0 else quantise r neg m e 0

end Sys2Proof.Machine

namespace Sys2Proof

def Round4.mode : Round4 → Machine.RMode
  | .rne => .rne
  | .rz => .rz
  | .rd => .rd
  | .ru => .ru

end Sys2Proof
end

