-- ==== Sys2Proof/Machine/FloatOps.lean ====
section
/-!
DEFINITION. Group 0x4: floating-point arithmetic on raw elements (R330 to R335). On the sequencer the width is f32 alone
(R291, R329), which the static checks have made sure of.
-/

namespace Sys2Proof.Machine

/-- An element-wise floating-point instruction on codes. -/
def fltWord (i : Instr) (w : FWidth) (f : FloatSpec → Nat → Nat → Nat → Nat) (s : State) : Out :=
  fireValue i s (elemValue s.focus.kind i.reads w.spec.bits w.count (f w.spec))

/-- Arithmetic on exact values with one rounding (R331). -/
def arithElem (g : Num → Num → Num → Num) (f : FloatSpec) (a b c : Nat) : Nat :=
  f.arith (g (f.decode a) (f.decode b) (f.decode c))

/-- FADD (R331). -/
def execFadd (pd : Pred) (w : FWidth) (t1 t0 : Target) (s : State) : Out :=
  fltWord (.fadd pd w t1 t0) w (arithElem fun a b _ => a.add b) s

/-- FSUB (R331). -/
def execFsub (pd : Pred) (w : FWidth) (t1 t0 : Target) (s : State) : Out :=
  fltWord (.fsub pd w t1 t0) w (arithElem fun a b _ => a.add b.neg) s

/-- FMUL (R331). -/
def execFmul (pd : Pred) (w : FWidth) (t1 t0 : Target) (s : State) : Out :=
  fltWord (.fmul pd w t1 t0) w (arithElem fun a b _ => a.mul b) s

/-- FMA (R331). -/
def execFma (pd : Pred) (w : FWidth) (t1 t0 : Target) (s : State) : Out :=
  fltWord (.fma pd w t1 t0) w (arithElem fun a b c => (a.mul b).add c) s

/-- FMS (R331). -/
def execFms (pd : Pred) (w : FWidth) (t1 t0 : Target) (s : State) : Out :=
  fltWord (.fms pd w t1 t0) w (arithElem fun a b c => (a.mul b).add c.neg) s

/-- FNMA (R331). -/
def execFnma (pd : Pred) (w : FWidth) (t1 t0 : Target) (s : State) : Out :=
  fltWord (.fnma pd w t1 t0) w (arithElem fun a b c => c.add (a.mul b).neg) s

/-- Whether a code is NaN. -/
def FloatSpec.isNaN (f : FloatSpec) (a : Nat) : Bool := f.decode a == .nan

/-- The order of FMIN and FMAX: by value, with -0 below +0 (R266, R332). -/
def FloatSpec.below (f : FloatSpec) (a b : Nat) : Bool :=
  let h := 2 ^ (f.eb + f.mb)
  let na := a / h % 2 == 1
  let nb := b / h % 2 == 1
  if na && nb then b % h < a % h else if na then true else if nb then false else a % h < b % h

/-- The smaller of two elements, or NaN (R332). -/
def minElem (f : FloatSpec) (a b : Nat) : Nat :=
  if f.isNaN a || f.isNaN b then f.nanCode else if f.below b a then b else a

def maxElem (f : FloatSpec) (a b : Nat) : Nat :=
  if f.isNaN a || f.isNaN b then f.nanCode else if f.below a b then b else a

/-- FMIN (R332). -/
def execFmin (pd : Pred) (w : FWidth) (t1 t0 : Target) (s : State) : Out :=
  fltWord (.fmin pd w t1 t0) w (fun f a b _ => minElem f a b) s

/-- FMAX (R332). -/
def execFmax (pd : Pred) (w : FWidth) (t1 t0 : Target) (s : State) : Out :=
  fltWord (.fmax pd w t1 t0) w (fun f a b _ => maxElem f a b) s

/-- The element with a sign, or the canonical NaN (R333). -/
def signElem (f : FloatSpec) (a : Nat) (neg : Bool) : Nat :=
  if f.isNaN a then f.nanCode else f.signBit neg + a % 2 ^ (f.eb + f.mb)

/-- Sign bit of an element. -/
def FloatSpec.signOf (f : FloatSpec) (a : Nat) : Bool := a / 2 ^ (f.eb + f.mb) % 2 == 1

/-- FABS (R333). -/
def execFabs (pd : Pred) (w : FWidth) (t1 t0 : Target) (s : State) : Out :=
  fltWord (.fabs pd w t1 t0) w (fun f a _ _ => signElem f a false) s

/-- FNEG (R333). -/
def execFneg (pd : Pred) (w : FWidth) (t1 t0 : Target) (s : State) : Out :=
  fltWord (.fneg pd w t1 t0) w (fun f a _ _ => signElem f a (!f.signOf a)) s

/-- FCPYS (R333). -/
def execFcpys (pd : Pred) (w : FWidth) (t1 t0 : Target) (s : State) : Out :=
  fltWord (.fcpys pd w t1 t0) w (fun f a b _ => signElem f a (f.signOf b)) s

/-- FRINT on an element: the sign stays (R334). -/
def rintElem (r : RMode) (f : FloatSpec) (a : Nat) : Nat :=
  match f.decode a with
  | .fin n m e => f.arith (.fin n (roundInt r n m e) 0)
  | v => f.arith v

/-- FRINT (R334). -/
def execFrint (pd : Pred) (mode : Round4) (w : FWidth) (t1 t0 : Target) (s : State) : Out :=
  fltWord (.frint pd mode w t1 t0) w (fun f a _ _ => rintElem mode.mode f a) s

/-- FSCL on an element (R335). -/
def sclElem (f : FloatSpec) (a b : Nat) : Nat :=
  match f.decode a with
  | .fin n m e => f.arith (.fin n m (e + sgn f.bits b))
  | v => f.arith v

/-- FSCL (R335). -/
def execFscl (pd : Pred) (w : FWidth) (t1 t0 : Target) (s : State) : Out :=
  fltWord (.fscl pd w t1 t0) w (fun f a b _ => sclElem f a b) s

end Sys2Proof.Machine
end

