-- ==== Sys2Proof/Machine/Convert.lean ====
section
/-!
DEFINITION. Group 0x6: conversion, scaling, block quantisation and the stochastic-rounding seed (R257 to R268, R338 to
R347), with the reading of tagged elements that the matrix group shares.
-/

namespace Sys2Proof.Machine

/-! ## Reading elements under a tag (R257 to R260) -/

/-- Element `e` of a token's data, of `w` bits (R256). -/
def dataElem (w : Nat) (data : Nat) (e : Nat) : Nat := data / 2 ^ (w * e) % 2 ^ w

/-- An E8M0 scale (R258). -/
def e8m0 (x : Nat) : Num := if x = 0xFF then .nan else .fin false 1 ((x : Int) - 127)

/-- Whether a block-scale flag applies to a format code (R259). -/
def scaled (code : Nat) : Bool := code == 3 || code == 4 || code == 5

/-- The exact value of an element code under a tag, with spare and block scale (R259). -/
def tagValue (g : Tag) (f : LaneFmt) (side : Word) (e q : Nat) : Num :=
  let b := e / 32
  let fmt := g.fmt.toNat
  let v :=
    if fmt = 5 ∧ g.spare ∧ q = 8 then e4m3.decode (side.toNat / 2 ^ (16 * b + 8) % 256) else f.decode q
  if g.bscale && scaled fmt then
    v.mul (e8m0 (side.toNat / 2 ^ ((if fmt = 5 then 16 else 8) * b) % 256))
  else v

/-- How a format-aware instruction reads an operand: its format, tag, and the number its values are multiplied by. -/
structure Reading where
  fmt : LaneFmt
  tag : Option Tag
  scale : Num
  deriving DecidableEq, Repr

def Reading.value (r : Reading) (side : Word) (e q : Nat) : Num :=
  match r.tag with
  | some g => (tagValue g r.fmt side e q).mul r.scale
  | none => r.fmt.decode q

def Reading.flush (r : Reading) : Bool := match r.tag with | some g => g.flush | none => false

/-- The tensor scale that a tag names among a cell's g registers (R260). -/
def Cell.tensorScale (c : Cell) (g : Tag) : Num := fp32.decode (Tab.get 0 c.g g.tscale.toNat).toNat

/-- A cell's reading of a token: by its tag with the tensor scale, or untagged by the modifier (R261). -/
def Cell.reading (c : Cell) (t : Tok) (plain : LaneFmt) : Reading :=
  match t.tag with
  | some g =>
    match laneFmt? g.fmt.toNat with
    | some f => { fmt := f, tag := some g, scale := c.tensorScale g }
    | none => { fmt := plain, tag := none, scale := .nan }
  | none => { fmt := plain, tag := none, scale := .nan }

/-- The cell in focus; the sequencer has none and reads its scalars untagged. -/
def State.focusCell (s : State) : Cell :=
  match s.focus with
  | .cell r p j => match s.fabric r with | some f => f.cell p j | none => {}
  | .seq _ => {}

/-! ## Placement (R338) -/

/-- A token's data, valid bits and sideband as a conversion reads them; a scalar is one valid lane. -/
structure Source where
  lanes : Nat
  data : Nat
  valid : BitVec 16
  side : Word
  punct : BitVec 3
  deriving DecidableEq, Repr

def sourceOf : Val → Source
  | .tok t => { lanes := 16, data := t.data.toNat, valid := t.valid, side := t.side, punct := t.punct }
  | .sc x => { lanes := 1, data := x.toNat % 2 ^ 32, valid := 0xFFFF, side := 0, punct := 0 }

/-- What a conversion builds, element by element: data, flag masks by lane, and the LFSR (R264, R268). -/
structure Build where
  data : Nat := 0
  ovf : Nat := 0
  nan : Nat := 0
  lfsr : W32 := 1
  deriving DecidableEq, Repr

/-- One step of the stochastic-rounding LFSR (R264). -/
def lfsrStep (s : W32) : W32 :=
  (s <<< 1) ||| (BitVec.ofBool (s.getLsbD 31 ^^ s.getLsbD 21 ^^ s.getLsbD 1 ^^ s.getLsbD 0)).setWidth 32

/-- The pairs of destination and source elements of a part, ascending, or none where the part does not exist (R338). -/
def placement (ns nd g : Nat) : Option (List (Nat × Nat)) :=
  let ratio := max ns nd / min ns nd
  if ratio ≤ g then none
  else if ns ≤ nd then some ((List.range ns).map fun e => (g * ns + e, e))
  else some ((List.range nd).map fun e => (e, g * nd + e))

/-- Valid bits of the result: a lane is valid when the source lanes that feed it are (R338). -/
def placedValid (v : BitVec 16) (ks kd : Nat) (pairs : List (Nat × Nat)) : BitVec 16 :=
  validsOf fun j => pairs.all fun p => p.1 / kd != j || v.getLsbD (p.2 / ks)

/-- The rounding of a control code; stochastic rounding takes the new LFSR state (R262, R263). -/
def modeOf (code : Nat) (u : W32) : RMode :=
  match code with
  | 0 => .rne
  | 1 => .rz
  | 2 => .rd
  | 3 => .ru
  | _ => .sr u.toNat

/-- One element converted into its place (R338, R340). -/
def convertOne (src : Source) (rd : Reading) (dst : FloatSpec) (mode : Nat) (b : Build) (p : Nat × Nat) : Build :=
  let ks := rd.fmt.perLane
  if src.valid.getLsbD (p.2 / ks) then
    let u := if mode = 4 then lfsrStep b.lfsr else b.lfsr
    let c := dst.conv (modeOf mode u) rd.flush (rd.value src.side p.2 (dataElem rd.fmt.bits src.data p.2))
    let lane := p.1 * dst.bits / 32
    { data := b.data + c.code * 2 ^ (dst.bits * p.1), ovf := b.ovf ||| (if c.ovf then 2 ^ lane else 0),
      nan := b.nan ||| (if c.nan then 2 ^ lane else 0), lfsr := u }
  else b

/-- The overflow token (R268), or the sequencer's flag scalar (R340). -/
def flagVal (k : BlockKind) (ovf nan : Nat) (punct : BitVec 3) : Val :=
  match k with
  | .streaming => .tok { data := BitVec.ofNat 512 (ovf + nan * 2 ^ 32), valid := 3, punct := punct }
  | .atomic => .sc (BitVec.ofNat 64 (bit (ovf != 0) + 2 * bit (nan != 0)))

/-- A result of conversion in the unit's kind; a lane that is not valid holds zero data (R303, R328). -/
def dataVal (k : BlockKind) (data : Nat) (valid : BitVec 16) (punct : BitVec 3) : Val :=
  match k with
  | .streaming =>
    .tok { data := zeroInvalid valid fun j => (BitVec.ofNat 512 data).extractLsb' (32 * j) 32, valid := valid, punct := punct }
  | .atomic => .sc (BitVec.ofNat 64 (data % 2 ^ 32))

/-- L, of the kind that the unit's conversions take (R329). -/
def convOperand (k : BlockKind) (o : Opers) : Option Val :=
  match k, o.l with
  | .streaming, some (.tok t) => some (.tok t)
  | .atomic, some (.sc x) => some (.sc x)
  | _, _ => none

/-- The tagged or plain reading of L in the unit in focus. -/
def State.readingOf (s : State) (v : Val) (plain : LaneFmt) : Reading :=
  match v with
  | .tok t => s.focusCell.reading t plain
  | .sc _ => { fmt := plain, tag := none, scale := .nan }

/-- The cell in focus takes a new LFSR state. -/
def State.setLfsr (s : State) (x : W32) : State :=
  match s.focus with
  | .cell r p j => s.modFabric r fun f => f.setCell p j { f.cell p j with lfsr := x }
  | .seq _ => s

/-- CVT: the conversion of R340 under R338, with a source format for untagged values, a mode code, a part and a
destination. -/
def convertWord (i : Instr) (t1 t0 : Target) (s : State) (v : Val) (sfmt : LaneFmt) (dst : FloatSpec) (mode part : Nat) :
    State :=
  let src := sourceOf v
  let rd := s.readingOf v sfmt
  let kd := 32 / dst.bits
  match placement (src.lanes * rd.fmt.perLane) (src.lanes * kd) part with
  | none => s.failWord 0x02
  | some pairs =>
    let b := pairs.foldl (convertOne src rd dst mode) { lfsr := s.focusCell.lfsr }
    let k := s.focus.kind
    let out := dataVal k b.data (placedValid src.valid rd.fmt.perLane kd pairs) src.punct
    ((((s.consume i).setLfsr b.lfsr).deliverTo s.focus t0 out).deliverTo s.focus t1 (flagVal k b.ovf b.nan src.punct))

/-- CVT, short form (R339). -/
def execCvt (pd : Pred) (dst : FloatFmt) (t1 t0 : Target) (s : State) : Out :=
  whenReady (.cvt pd dst t1 t0) s fun o s =>
    match convOperand s.focus.kind o with
    | some v => convertWord (.cvt pd dst t1 t0) t1 t0 s v (.flt fp32) dst.spec 0 0
    | none => s.failWord 0x05

/-- The control word of CVT's long form (R339): none when lane 0 of the token is invalid. -/
def controlWord (k : BlockKind) (o : Opers) : Except Cause W32 :=
  match k, o.t with
  | .streaming, some (.tok t) => match t.ctl? with | some x => .ok x | none => .error 0x02
  | .atomic, some (.sc x) => .ok (x.setWidth 32)
  | _, _ => .error 0x05

/-- The destination of a control word (R339). -/
def floatOfCode (n : Nat) : Option FloatSpec :=
  match laneFmt? n with
  | some (.flt f) => some f
  | _ => none

/-- CVT, long form (R339). -/
def execCvtT (pd : Pred) (t1 t0 : Target) (s : State) : Out :=
  whenReady (.cvtT pd t1 t0) s fun o s =>
    match convOperand s.focus.kind o, controlWord s.focus.kind o with
    | some v, .ok c =>
      let mode := (c.extractLsb' 4 3).toNat
      match floatOfCode (c.extractLsb' 0 4).toNat, laneFmt? (c.extractLsb' 8 4).toNat with
      | some dst, some sfmt =>
        if c.extractLsb' 15 17 != 0 || c.getLsbD 7 || 4 < mode || (mode == 4 && s.focus.kind == .atomic) then s.failWord 0x02
        else convertWord (.cvtT pd t1 t0) t1 t0 s v sfmt dst mode (c.extractLsb' 12 3).toNat
      | _, _ => s.failWord 0x02
    | none, _ => s.failWord 0x05
    | some _, .error c => s.failWord c

/-- SCALE (R341): on the sequencer, a copy with NaN made canonical. -/
def execScale (pd : Pred) (part : BitVec 2) (w : FWidth) (t1 t0 : Target) (s : State) : Out :=
  let i : Instr := .scale pd part w t1 t0
  fireValue i s fun o =>
    match convOperand s.focus.kind o with
    | none => .error 0x05
    | some v =>
      let src := sourceOf v
      let rd := s.readingOf v (.flt w.spec)
      let kd := 32 / w.spec.bits
      match placement (src.lanes * rd.fmt.perLane) (src.lanes * kd) part.toNat with
      | none => .error 0x02
      | some pairs =>
        let put (d : Nat) (p : Nat × Nat) : Nat :=
          if src.valid.getLsbD (p.2 / rd.fmt.perLane) then
            d + w.spec.scaleTo rd.flush (rd.value src.side p.2 (dataElem rd.fmt.bits src.data p.2)) * 2 ^ (w.spec.bits * p.1)
          else d
        .ok (dataVal s.focus.kind (pairs.foldl put 0) (placedValid src.valid rd.fmt.perLane kd pairs) src.punct)

/-! ## Integers (R342, R343) -/

/-- An element-wise conversion with flags, over the valid lanes of L (R328, R342, R343). -/
def flaggedWord (i : Instr) (t1 t0 : Target) (w n : Nat) (f : Nat → Conv) (s : State) : Out :=
  whenReady i s fun o s =>
    match convOperand s.focus.kind o with
    | none => s.failWord 0x05
    | some v =>
      let src := sourceOf v
      let one (b : Build) (e : Nat) : Build :=
        if src.valid.getLsbD (e / n) then
          let c := f (dataElem w src.data e)
          { b with data := b.data + c.code * 2 ^ (w * e), ovf := b.ovf ||| (if c.ovf then 2 ^ (e / n) else 0),
                   nan := b.nan ||| (if c.nan then 2 ^ (e / n) else 0) }
        else b
      let b := (List.range (src.lanes * n)).foldl one {}
      let k := s.focus.kind
      ((s.consume i).deliverTo s.focus t0 (dataVal k b.data src.valid src.punct)).deliverTo s.focus t1
        (flagVal k b.ovf b.nan src.punct)

/-- CVTFI on an element (R342). -/
def fiElem (mode : RMode) (f : FloatSpec) (a : Nat) : Conv :=
  let w := f.bits
  match f.decode a with
  | .nan => { code := 0, nan := true }
  | .inf n => { code := narrow w (if n then -2 ^ (w - 1) else 2 ^ (w - 1) - 1), ovf := true }
  | .fin n m e =>
    let v : Int := if n then -(roundInt mode n m e : Int) else roundInt mode n m e
    if v > 2 ^ (w - 1) - 1 ∨ v < -2 ^ (w - 1) then
      { code := narrow w (clamp (-2 ^ (w - 1)) (2 ^ (w - 1) - 1) v), ovf := true }
    else { code := narrow w v }

/-- CVTFI (R342). -/
def execCvtfi (pd : Pred) (mode : Round4) (w : FWidth) (t1 t0 : Target) (s : State) : Out :=
  flaggedWord (.cvtfi pd mode w t1 t0) t1 t0 w.spec.bits w.count (fiElem mode.mode w.spec) s

/-- CVTIF on an element (R343). -/
def ifElem (uns : Bool) (f : FloatSpec) (a : Nat) : Conv :=
  let v : Int := if uns then a else sgn f.bits a
  f.conv .rne false (.fin (v < 0) v.natAbs 0)

/-- CVTIF (R343). -/
def execCvtif (pd : Pred) (uns : Bool) (w : FWidth) (t1 t0 : Target) (s : State) : Out :=
  flaggedWord (.cvtif pd uns w t1 t0) t1 t0 w.spec.bits w.count (ifElem uns w.spec) s

/-! ## Block quantisation (R344 to R346) -/

/-- floor(log2 |v|) of a nonzero finite value. -/
def logFloor (m : Nat) (e : Int) : Int := e + (bitLen m : Int) - 1

/-- The larger magnitude among finite values. -/
def maxAbs (l : List Num) : Nat × Int :=
  l.foldl (fun p v => match v with | .fin _ m e => if magLt p.1 p.2 m e then (m, e) else p | _ => p) (0, 0)

/-- |a - b| of finite values. -/
def distance (a b : Num) : Nat × Int :=
  match a.add b.neg with
  | .fin _ m e => (m, e)
  | _ => (0, 0)

/-- A block's elements before their codes are placed. -/
structure Block where
  /-- Values over the scale, with the valid bit of each. -/
  r : List (Num × Bool)
  q : List Conv
  code : Nat
  spare : Nat
  deriving DecidableEq, Repr

/-- Codes of a block of 32 values with valid marks (R345); the flush of L's tag applies (R265). -/
def blockCodes (dst : FloatSpec) (emax : Int) (flush : Bool) (x : List (Num × Bool)) : Block :=
  if x.any fun p => p.1 == .nan then
    { r := x, q := x.map fun p => { code := 0, nan := p.1 == .nan }, code := 0xFF, spare := 0 }
  else
    let top := maxAbs (x.map (·.1))
    let code := if top.1 = 0 then 127 else (clamp 0 254 (logFloor top.1 top.2 - emax + 127)).toNat
    let r := x.map fun p => (p.1.mul (.fin false 1 (127 - (code : Int))), p.2)
    let q := r.map fun p =>
      let c := dst.conv .rne flush p.1
      if c.code % 2 ^ (dst.bits - 1) = 0 then { c with code := 0 } else c
    { r := r, q := q, code := code, spare := 0 }

/-- Which element has the largest error, lowest index on a tie (R346). -/
def worstIndex (dst : FloatSpec) (b : Block) : Option Nat :=
  let errs := (List.range 32).filterMap fun k =>
    match (b.r[k]? : Option (Num × Bool)), (b.q[k]? : Option Conv) with
    | some (Num.fin n m e, true), some c => some (k, distance (Num.fin n m e) (dst.decode c.code))
    | _, _ => none
  (errs.foldl (fun (best : Option (Nat × (Nat × Int))) p =>
    match best with
    | none => some p
    | some q => if magLt q.2.1 q.2.2 p.2.1 p.2.2 then some p else some q) none).map (·.1)

/-- The spare value and the elements recoded to it (R346). -/
def chooseSpare (dst : FloatSpec) (b : Block) : Block :=
  if b.code = 0xFF then b
  else
    match worstIndex dst b with
    | none => b
    | some k =>
      match b.r[k]?, b.q[k]? with
      | some (rk, _), some qk =>
        let vc := (e4m3.conv .rne false rk).code
        let v := e4m3.decode vc
        let closer (x : Num) (c : Conv) : Bool :=
          let dv := distance x v
          let dq := distance x (dst.decode c.code)
          magLt dv.1 dv.2 dq.1 dq.2
        if closer rk qk then
          { b with
            spare := vc
            q := (b.r.zip b.q).map fun p =>
              match p.1.1 with
              | .fin _ m _ => if m != 0 && closer p.1.1 p.2 then { p.2 with code := 8 } else p.2
              | _ => p.2 }
        else b
      | _, _ => b

/-- The 32 values of QBLK's source (R344): by its tag without the tensor scale, or as BF16. -/
def blockValues (t : Tok) : Except Cause (List (Num × Bool)) :=
  let vals (f : FloatSpec) (g : Option Tag) : List (Num × Bool) :=
    (List.range 32).map fun e =>
      if t.ok (e / 2) then
        let q := dataElem 16 t.data.toNat e
        (match g with | some g => tagValue g (.flt f) t.side e q | none => f.decode q, true)
      else (.fin false 0 0, false)
  match t.tag with
  | none => .ok (vals bf16 none)
  | some g => if g.fmt = 1 then .ok (vals bf16 (some g)) else if g.fmt = 2 then .ok (vals fp16 (some g)) else .error 0x02

/-- QBLK's result token and flags (R345): elements in block `b`'s place. -/
def placeBlock (dst : FloatSpec) (b : Nat) (x : Block) (t : Tok) : Tok × Nat × Nat :=
  let per := 32 / dst.bits
  let first := b * (32 / per)
  let lane (i : Nat) : Nat := first + i / per
  let at' (i : Nat) : Conv := x.q.getD i { code := 0 }
  let data := (List.range 32).foldl (fun d i => d + (at' i).code * 2 ^ (32 * lane i + dst.bits * (i % per))) 0
  let valid := validsOf fun j =>
    first ≤ j && j < first + 32 / per && (List.range 32).all fun i => lane i != j || t.ok (i / 2)
  let flags (sel : Conv → Bool) := (List.range 32).foldl (fun m i => m ||| (if sel (at' i) then 2 ^ lane i else 0)) 0
  let side := if dst.bits = 4 then (x.code + 256 * x.spare) * 2 ^ (16 * b) else x.code * 2 ^ (8 * b)
  ({ data := zeroInvalid valid fun j => (BitVec.ofNat 512 data).extractLsb' (32 * j) 32, valid := valid, punct := t.punct,
     side := BitVec.ofNat 64 side }, flags (·.ovf), flags (·.nan))

/-- QBLK's block (R344 to R346). -/
def quantBlock (dst : QDest) (t : Tok) : Except Cause (Tok × Nat × Nat) :=
  let flush := match t.tag with | some g => g.flush | none => false
  (blockValues t).map fun x =>
    match dst with
    | .e2m1 spare b =>
      let k := blockCodes e2m1 2 flush x
      placeBlock e2m1 b.toNat (if spare then chooseSpare e2m1 k else k) t
    | .e4m3 b => placeBlock e4m3 (bit b) (blockCodes e4m3 8 flush x) t

/-- QBLK (R344): its L, its result and its overflow token are tokens on the sequencer too (R345). -/
def execQblk (pd : Pred) (dst : QDest) (t1 t0 : Target) (s : State) : Out :=
  let i : Instr := .qblk pd dst t1 t0
  whenReady i s fun o s =>
    match o.l with
    | some (.tok t) =>
      match quantBlock dst (if s.focus.kind = .atomic then { t with punct := 0 } else t) with
      | .error c => s.failWord c
      | .ok (out, ovf, nan) =>
        ((s.consume i).deliverTo s.focus t0 (.tok out)).deliverTo s.focus t1 (flagVal .streaming ovf nan out.punct)
    | _ => s.failWord 0x05

/-- SRSEED (R347). -/
def execSrseed (pd : Pred) (s : State) : Out :=
  whenReady (.srseed pd) s fun o s =>
    match o.l with
    | some (.tok t) =>
      match t.ctl? with
      | some x => (s.consume (.srseed pd)).setLfsr (seedOf x)
      | none => s.consume (.srseed pd)
    | _ => s.failWord 0x05

end Sys2Proof.Machine
end

