-- ==== Sys2Proof/Machine/Dataflow.lean ====
section
/-!
DEFINITION. Group 0x0: the instructions that move values between slots and choose paths (R305 to R316).
-/

namespace Sys2Proof.Machine

/-- A value passed on unchanged to both targets. -/
def passWord (i : Instr) (pick : Opers → Option Val) (s : State) : Out :=
  fireValue i s fun o => match pick o with | some v => .ok v | none => .error 0x05

/-- The value taken by MERGE (R309) and CARRY (R310): L and R are never both read. -/
def takenWord (i : Instr) (whenTrue : Slot) (s : State) : Out :=
  passWord i (fun o => if o.p then o.get whenTrue else o.get (if whenTrue = .l then .r else .l)) s

/-- MOV (R307). -/
def execMov (pd : Pred) (t1 t0 : Target) (s : State) : Out := passWord (.mov pd t1 t0) (·.l) s

/-- STEER (R308). -/
def execSteer (t1 t0 : Target) (s : State) : Out :=
  whenReady (.steer t1 t0) s fun o s =>
    match o.l with
    | some v => (s.consume (.steer t1 t0)).deliverTo s.focus (if o.p then t0 else t1) v
    | none => s

/-- MERGE (R309). -/
def execMerge (t1 t0 : Target) (s : State) : Out := takenWord (.merge t1 t0) .l s

/-- CARRY (R310). -/
def execCarry (t1 t0 : Target) (s : State) : Out := takenWord (.carry t1 t0) .r s

/-- INVAR's copy carries the punctuation of P in a cell (R311). -/
def invarCopy (o : Opers) : Option Val :=
  o.l.map fun v => match v with | .tok t => .tok { t with punct := o.pp } | .sc x => .sc x

/-- INVAR (R311): the sequencer delivers L as it is. -/
def execInvar (t1 t0 : Target) (s : State) : Out :=
  passWord (.invar t1 t0) (fun o => if s.focus.kind = .atomic then o.l else invarCopy o) s

/-- GATE (R312). -/
def execGate (pd : Pred) (t1 t0 : Target) (s : State) : Out := passWord (.gate pd t1 t0) (·.l) s

/-- SINK (R313). -/
def execSink (pd : Pred) (s : State) : Out := whenReady (.sink pd) s fun _ s => s.consume (.sink pd)

/-- The punctuation that PUNCT tests: the sequencer's tokens have 0 (R314). -/
def seenPunct (k : BlockKind) (t : Tok) : BitVec 3 := if k = .atomic then 0 else t.punct

/-- PUNCT's predicate, as a token in a cell and as a scalar on the sequencer (R314). -/
def punctPred (k : BlockKind) (b : Bool) (t : Tok) : Val :=
  match k with
  | .streaming => .tok (Tok.lane0 (BitVec.ofNat 32 (bit b)) t.punct)
  | .atomic => .sc (BitVec.ofNat 64 (bit b))

/-- PUNCT (R314). -/
def execPunct (pd : Pred) (eq : Bool) (level : BitVec 3) (t1 t0 : Target) (s : State) : Out :=
  let i : Instr := .punct pd eq level t1 t0
  whenReady i s fun o s =>
    match o.l with
    | some (.tok t) =>
      let n := seenPunct s.focus.kind t
      let b := if eq then n == level else level ≤ n
      ((s.consume i).deliverTo s.focus t0 (.tok t)).deliverTo s.focus t1 (punctPred s.focus.kind b t)
    | _ => s.failWord 0x05

/-- A token instruction of this group: the sequencer delivers its token unchanged (R306, R315). -/
def retokWord (i : Instr) (f : Tok → Tok) (s : State) : Out :=
  fireValue i s fun o =>
    match o.l with
    | some (.tok t) => .ok (.tok (if s.focus.kind = .atomic then t else f t))
    | _ => .error 0x05

/-- SETPN (R315). -/
def execSetpn (pd : Pred) (max : Bool) (level : BitVec 3) (t1 t0 : Target) (s : State) : Out :=
  retokWord (.setpn pd max level t1 t0) (fun t => { t with punct := if max then maxPunct t.punct level else level }) s

/-- What STRIP clears (R315). -/
def stripTok (w : StripWhat) (t : Tok) : Tok :=
  match w with
  | .both => { t with tag := none, side := 0, punct := 0 }
  | .tag => { t with tag := none, side := 0 }
  | .punct => { t with punct := 0 }

/-- STRIP (R315). -/
def execStrip (pd : Pred) (what : StripWhat) (t1 t0 : Target) (s : State) : Out :=
  retokWord (.strip pd what t1 t0) (stripTok what) s

/-- A constant: every lane in a cell, sign-extended on the sequencer (R316). -/
def constant (k : BlockKind) (x : W32) : Val :=
  match k with
  | .streaming => .tok (Tok.splat x 0)
  | .atomic => .sc (x.signExtend 64)

/-- CONST (R316). -/
def execConst (imm : BitVec 13) (t0 : Target) (s : State) : Out :=
  fireValue (.const imm t0) s fun _ => .ok (constant s.focus.kind (imm.signExtend 32))

/-- LIT (R296, R316): an index beyond the pool has failed check 6 of R294 before any word fires. -/
def execLit (index : BitVec 13) (t0 : Target) (s : State) : Out :=
  fireValue (.lit index t0) s fun _ =>
    match (s.view s.focus).bind fun v => v.pool[index.toNat]? with
    | some x => .ok (constant s.focus.kind x)
    | none => .error 0x06

end Sys2Proof.Machine
end

