-- ==== Sys2Proof/Machine/Lane.lean ====
section
/-!
DEFINITION. Group 0x7: instructions on whole tokens (R349 to R357).
-/

namespace Sys2Proof.Machine

/-- A token made lane by lane from values and valid bits; invalid lanes hold zero (R349). -/
def laneTok (f : Nat → W32) (v : Nat → Bool) (punct : BitVec 3) : Tok := Tok.mk' f (validsOf v) punct

/-- One token operand, computed to a token for both targets. -/
def tokWord (i : Instr) (f : Tok → Tok) (s : State) : Out :=
  fireValue i s fun o => match o.toks i.reads with | .ok [a] => .ok (.tok (f a)) | .ok _ => .error 0x05 | .error c => .error c

/-- Two token operands. -/
def tokWord2 (i : Instr) (f : Tok → Tok → Tok) (s : State) : Out :=
  fireValue i s fun o => match o.toks i.reads with | .ok [a, b] => .ok (.tok (f a b)) | .ok _ => .error 0x05 | .error c => .error c

/-- Bits [3:0] of lane 0, where it is valid. -/
def laneIndex (t : Tok) : Option Nat := t.ctl?.map fun x => (x.extractLsb' 0 4).toNat

/-- SHUF (R351). -/
def shufTok (a b : Tok) : Tok :=
  let n (i : Nat) : Nat := (b.lane i).toNat % 16
  laneTok (fun i => a.lane (n i)) (fun i => b.ok i && a.ok (n i)) (maxPunct a.punct b.punct)

def execShuf (pd : Pred) (t1 t0 : Target) (s : State) : Out := tokWord2 (.shuf pd t1 t0) shufTok s

/-- A token whose lane `i` copies the lane that `src` names, where R's lane 0 gives an index (R351). -/
def pickTok (src : Nat → Nat → Nat) (a b : Tok) : Tok :=
  match laneIndex b with
  | some n => laneTok (fun i => a.lane (src n i)) (fun i => a.ok (src n i)) (maxPunct a.punct b.punct)
  | none => laneTok (fun _ => 0) (fun _ => false) (maxPunct a.punct b.punct)

/-- BCAST (R351). -/
def execBcast (pd : Pred) (t1 t0 : Target) (s : State) : Out := tokWord2 (.bcast pd t1 t0) (pickTok fun n _ => n) s

/-- LROT (R351). -/
def execLrot (pd : Pred) (t1 t0 : Target) (s : State) : Out :=
  tokWord2 (.lrot pd t1 t0) (pickTok fun n i => (i + n) % 16) s

/-! ## Reductions and scans (R270, R352) -/

/-- Elements of a token in order, with `fill` for those of invalid lanes. -/
def elemsOf (w : Nat) (fill : Nat) (t : Tok) : List Nat :=
  (List.range (512 / w)).map fun e => if t.ok (w * e / 32) then dataElem w t.data.toNat e else fill

/-- Elements of the valid lanes. -/
def validElems (w : Nat) (t : Tok) : List Nat :=
  (List.range (512 / w)).filterMap fun e => if t.ok (w * e / 32) then some (dataElem w t.data.toNat e) else none

/-- One value in every element of every lane (R352). -/
def fillTok (w x : Nat) (punct : BitVec 3) : Tok :=
  { data := BitVec.ofNat 512 ((List.range (512 / w)).foldl (fun d e => d + x * 2 ^ (w * e)) 0), valid := 0xFFFF, punct := punct }

/-- One level of the pairwise tree (R270). -/
def pairLevel (f : Nat → Nat → Nat) : List Nat → List Nat
  | a :: b :: t => f a b :: pairLevel f t
  | l => l

/-- The tree over a list of 2^n elements. -/
def pairTree (f : Nat → Nat → Nat) : Nat → List Nat → Nat
  | 0, l => l.headD 0
  | n + 1, l => pairTree f n (pairLevel f l)

def fltAdd (f : FloatSpec) (a b : Nat) : Nat := f.arith ((f.decode a).add (f.decode b))

end Sys2Proof.Machine

namespace Sys2Proof

def LWidth.bits : LWidth → Nat
  | .i32 => 32
  | .i16 => 16
  | .i8 => 8

/-- Element width of a sum. -/
def SumFmt.bits : SumFmt → Nat
  | .flt w => w.spec.bits
  | .int w => w.bits

def ExtFmt.bits : ExtFmt → Nat
  | .flt w => w.spec.bits
  | .sgn w => w.bits
  | .uns w => w.bits

/-- What an element of an invalid lane enters a sum as (R270, R352). -/
def SumFmt.fill : SumFmt → Nat
  | .flt w => w.spec.signBit true
  | .int _ => 0

/-- One addition. -/
def SumFmt.add (f : SumFmt) (a b : Nat) : Nat :=
  match f with
  | .flt w => Machine.fltAdd w.spec a b
  | .int w => (a + b) % 2 ^ w.bits

/-- A first element by itself: a NaN comes out canonical (R266). -/
def SumFmt.first (f : SumFmt) (a : Nat) : Nat :=
  match f with
  | .flt w => w.spec.arith (w.spec.decode a)
  | .int _ => a

/-- The larger and the smaller of two elements (R352). -/
def ExtFmt.max (f : ExtFmt) (a b : Nat) : Nat :=
  match f with
  | .flt w => Machine.maxElem w.spec a b
  | .sgn w => if Machine.sgn w.bits a ≤ Machine.sgn w.bits b then b else a
  | .uns _ => if a ≤ b then b else a

def ExtFmt.min (f : ExtFmt) (a b : Nat) : Nat :=
  match f with
  | .flt w => Machine.minElem w.spec a b
  | .sgn w => if Machine.sgn w.bits a ≤ Machine.sgn w.bits b then a else b
  | .uns _ => if a ≤ b then a else b

/-- REDMAX's and REDMIN's result with no valid lane (R352). -/
def ExtFmt.least : ExtFmt → Nat
  | .flt w => w.spec.arith (.inf true)
  | .sgn w => 2 ^ (w.bits - 1)
  | .uns _ => 0

def ExtFmt.greatest : ExtFmt → Nat
  | .flt w => w.spec.arith (.inf false)
  | .sgn w => 2 ^ (w.bits - 1) - 1
  | .uns w => 2 ^ w.bits - 1

end Sys2Proof

namespace Sys2Proof.Machine

/-- REDADD's sum: level by level over 16, 32 or 64 elements (R270, R352). -/
def redaddTok (f : SumFmt) (t : Tok) : Tok := fillTok f.bits (pairTree f.add 6 (elemsOf f.bits f.fill t)) t.punct

def execRedadd (pd : Pred) (fmt : SumFmt) (t1 t0 : Target) (s : State) : Out :=
  tokWord (.redadd pd fmt t1 t0) (redaddTok fmt) s

/-- REDMAX (R352). -/
def execRedmax (pd : Pred) (fmt : ExtFmt) (t1 t0 : Target) (s : State) : Out :=
  tokWord (.redmax pd fmt t1 t0) (fun t => fillTok fmt.bits ((validElems fmt.bits t).foldl fmt.max fmt.least) t.punct) s

/-- REDMIN (R352). -/
def execRedmin (pd : Pred) (fmt : ExtFmt) (t1 t0 : Target) (s : State) : Out :=
  tokWord (.redmin pd fmt t1 t0) (fun t => fillTok fmt.bits ((validElems fmt.bits t).foldl fmt.min fmt.greatest) t.punct) s

/-- Running sums in element order (R270). -/
def scanList (f : SumFmt) : Option Nat → List Nat → List Nat
  | _, [] => []
  | none, a :: t => f.first a :: scanList f (some (f.first a)) t
  | some r, a :: t => f.add r a :: scanList f (some (f.add r a)) t

/-- A number from `w`-bit elements, lowest first. -/
def packElems (w : Nat) : List Nat → Nat
  | [] => 0
  | a :: t => a % 2 ^ w + 2 ^ w * packElems w t

/-- SCANADD (R352). -/
def scanTok (f : SumFmt) (t : Tok) : Tok :=
  let d := BitVec.ofNat 512 (packElems f.bits (scanList f none (elemsOf f.bits f.fill t)))
  Tok.mk' (fun i => d.extractLsb' (32 * i) 32) t.valid t.punct

def execScanadd (pd : Pred) (fmt : SumFmt) (t1 t0 : Target) (s : State) : Out :=
  tokWord (.scanadd pd fmt t1 t0) (scanTok fmt) s

/-! ## Packing (R353, R354) -/

/-- An element narrowed to half its width; both saturations read it as signed (R353). -/
def packElem (sat : Sat) (w x : Nat) : Nat :=
  let h := w / 2
  match sat with
  | .wrap => x % 2 ^ h
  | .sats => narrow h (clamp (-2 ^ (h - 1)) (2 ^ (h - 1) - 1) (sgn w x))
  | .satu => narrow h (clamp 0 (2 ^ h - 1) (sgn w x))

/-- PACK (R353). -/
def packTok (sat : Sat) (w : Nat) (a b : Tok) : Tok :=
  let all := elemsOf w 0 { a with valid := 0xFFFF } ++ elemsOf w 0 { b with valid := 0xFFFF }
  let d := BitVec.ofNat 512 (packElems (w / 2) (all.map (packElem sat w)))
  laneTok (fun i => d.extractLsb' (32 * i) 32)
    (fun j => if j < 8 then a.ok (2 * j) && a.ok (2 * j + 1) else b.ok (2 * (j - 8)) && b.ok (2 * (j - 8) + 1))
    (maxPunct a.punct b.punct)

def execPack (pd : Pred) (sat : Sat) (from16 : Bool) (t1 t0 : Target) (s : State) : Out :=
  tokWord2 (.pack pd sat from16 t1 t0) (packTok sat (if from16 then 16 else 32)) s

/-- UNPACK (R354): elements of `v` bits of one half, widened. -/
def unpackTok (hi sx : Bool) (v : Nat) (t : Tok) : Tok :=
  let n := 512 / (2 * v)
  let one (e : Nat) : Nat :=
    let x := dataElem v t.data.toNat (bit hi * n + e)
    if sx then narrow (2 * v) (sgn v x) else x
  let d := BitVec.ofNat 512 (packElems (2 * v) ((List.range n).map one))
  laneTok (fun i => d.extractLsb' (32 * i) 32) (fun j => t.ok (8 * bit hi + j / 2)) t.punct

def execUnpack (pd : Pred) (hi sx from8 : Bool) (t1 t0 : Target) (s : State) : Out :=
  tokWord (.unpack pd hi sx from8 t1 t0) (unpackTok hi sx (if from8 then 8 else 16)) s

/-! ## Valid bits (R355, R356) -/

/-- The valid bits of a token as a token (R355, R356). -/
def validTok (t : Tok) : Tok := Tok.lane0 (t.valid.setWidth 32) t.punct

/-- VALID (R355). -/
def execValid (pd : Pred) (t1 t0 : Target) (s : State) : Out := tokWord (.valid pd t1 t0) validTok s

/-- A mask in lane 0 [15:0], 0 where that lane is invalid (R355, R356). -/
def maskOf (t : Tok) : BitVec 16 := match t.ctl? with | some x => x.setWidth 16 | none => 0

/-- VMASK (R355). -/
def vmaskTok (form : MaskForm) (a b : Tok) : Tok :=
  let m := maskOf b
  let p := maxPunct a.punct b.punct
  match form with
  | .and => { Tok.mk' a.lane (a.valid &&& m) p with side := a.side }
  | .set => { Tok.mk' (fun i => if a.ok i then a.lane i else 0) m p with side := a.side }
  | .join => { Tok.mk' (fun i => if a.ok i then a.lane i else b.lane i) (a.valid ||| b.valid) p with side := a.side ||| b.side }

def execVmask (pd : Pred) (form : MaskForm) (t1 t0 : Target) (s : State) : Out :=
  tokWord2 (.vmask pd form t1 t0) (vmaskTok form) s

/-- COMPACT (R356): valid lanes move down in order. -/
def compactTok (t : Tok) : Tok :=
  let l := (List.range 16).filter t.ok
  laneTok (fun i => match l[i]? with | some k => t.lane k | none => 0) (fun i => i < l.length) t.punct

def execCompact (pd : Pred) (t1 t0 : Target) (s : State) : Out :=
  let i : Instr := .compact pd t1 t0
  whenReady i s fun o s =>
    match o.l with
    | some (.tok t) =>
      ((s.consume i).deliverTo s.focus t0 (.tok (compactTok t))).deliverTo s.focus t1 (.tok (validTok t))
    | _ => s.failWord 0x05

/-- EXPAND (R356): lane `i` takes the lane of L numbered by the set mask bits below it. -/
def expandTok (a b : Tok) : Tok :=
  let m := maskOf b
  let rank (i : Nat) : Nat := ((List.range i).filter m.getLsbD).length
  laneTok (fun i => a.lane (rank i)) (fun i => m.getLsbD i && a.ok (rank i)) (maxPunct a.punct b.punct)

def execExpand (pd : Pred) (t1 t0 : Target) (s : State) : Out := tokWord2 (.expand pd t1 t0) expandTok s

/-! ## Extraction (R357): these run on the sequencer too -/

/-- A predicate of a token, as the unit gives it (R357). -/
def tokPred (i : Instr) (f : Tok → Bool) (s : State) : Out :=
  fireValue i s fun o =>
    match o.l with
    | some (.tok t) => .ok (punctPred s.focus.kind (f t) t)
    | _ => .error 0x05

/-- ANY (R357). -/
def execAny (pd : Pred) (t1 t0 : Target) (s : State) : Out :=
  tokPred (.any pd t1 t0) (fun t => (List.range 16).any fun i => t.ok i && (t.lane i).getLsbD 0) s

/-- ALL (R357). -/
def execAll (pd : Pred) (t1 t0 : Target) (s : State) : Out :=
  tokPred (.all pd t1 t0) (fun t => (List.range 16).all fun i => !t.ok i || (t.lane i).getLsbD 0) s

/-- A lane as a number, zero where it is invalid. -/
def laneOr0 (t : Tok) (i : Nat) : W32 := if t.ok i then t.lane i else 0

/-- LEXT in a cell (R357). -/
def lextTok (form : LextForm) (a b : Tok) : Tok :=
  let p := maxPunct a.punct b.punct
  match laneIndex b with
  | none => laneTok (fun _ => 0) (fun _ => false) p
  | some n =>
    match form with
    | .zero | .sign => laneTok (fun _ => a.lane n) (fun i => i == 0 && a.ok n) p
    | .pair => laneTok (fun i => a.lane (2 * (n % 8) + i)) (fun i => i < 2 && a.ok (2 * (n % 8) + i)) p

/-- LEXT on the sequencer (R357). -/
def lextWord (form : LextForm) (a : Tok) (x : Word) : Word :=
  let n := x.toNat % 16
  match form with
  | .zero => (laneOr0 a n).setWidth 64
  | .sign => (laneOr0 a n).signExtend 64
  | .pair => laneOr0 a (2 * (n % 8) + 1) ++ laneOr0 a (2 * (n % 8))

def execLext (pd : Pred) (form : LextForm) (t1 t0 : Target) (s : State) : Out :=
  fireValue (.lext pd form t1 t0) s fun o =>
    match s.focus.kind, o.l, o.r with
    | .streaming, some (.tok a), some (.tok b) => .ok (.tok (lextTok form a b))
    | .atomic, some (.tok a), some (.sc x) => .ok (.sc (lextWord form a x))
    | _, _, _ => .error 0x05

end Sys2Proof.Machine
end

