-- ==== Sys2Proof/Machine/Matrix.lean ====
section
/-!
DEFINITION. Group 0x8: the matrix unit of a cell (R269, R358 to R368).
-/

namespace Sys2Proof.Machine

/-! ## Banks and pointers (R358) -/

def Cell.bank (c : Cell) : Bank → Tab W32
  | .acc => c.acc
  | .sacc => c.sacc

def Cell.ptr (c : Cell) : Bank → BankPtr
  | .acc => c.accPtr
  | .sacc => c.saccPtr

def Cell.setBank (c : Cell) (b : Bank) (t : Tab W32) : Cell :=
  match b with
  | .acc => { c with acc := t }
  | .sacc => { c with sacc := t }

def Cell.setPtr (c : Cell) (b : Bank) (p : BankPtr) : Cell :=
  match b with
  | .acc => { c with accPtr := p }
  | .sacc => { c with saccPtr := p }

/-- Row `i` of a bank as lanes. -/
def bankRow (t : Tab W32) (i : Nat) : BitVec 512 := lanesOf fun j => t.get 0 (16 * i + j)

/-- One past the last byte of a column's slice (R358). -/
def sliceBytes : Nat := 0x180000

/-! ## One step of the multiply (R269) -/

/-- The `k` values of row or column `i` of an operand (R362). -/
def stepValues (rd : Reading) (src : Source) (k i : Nat) : List Num :=
  (List.range k).map fun t =>
    let e := i * k + t
    if src.valid.getLsbD i then
      (match rd.tag with
      | some g => tagValue g rd.fmt src.side e (dataElem rd.fmt.bits src.data e)
      | none => rd.fmt.decode (dataElem rd.fmt.bits src.data e))
    else .fin false 0 0

/-- The scaled sum of products, with a zero sum as +0 (R269). -/
def stepSum (a b : List Num) (ta tb : Num) : Num :=
  let sum := (a.zip b).foldl (fun acc p => acc.add (p.1.mul p.2)) (.fin false 0 0)
  match (ta.mul tb).mul sum with
  | .fin n m e => if m = 0 then .fin false 0 0 else .fin n m e
  | v => v

/-- The bank after one step with rows of A and columns of B. -/
def stepBank (t : Tab W32) (a b : Nat → List Num) (ta tb : Num) : Tab W32 :=
  (List.range 256).map fun n =>
    (n, BitVec.ofNat 32 (fp32.arith ((fp32.decode (t.get 0 n).toNat).add (stepSum (a (n / 16)) (b (n % 16)) ta tb))))

end Sys2Proof.Machine

namespace Sys2Proof

/-- Format code of a matrix format (R361). -/
def MatFmt.code : MatFmt → Nat
  | .f32 => 0
  | .bf16 => 1
  | .f16 => 2
  | .e4m3 => 3
  | .e5m2 => 4
  | .e2m1 => 5
  | .int8 => 7
  | .uint8 => 8

def MatFmt.lane : MatFmt → Machine.LaneFmt
  | .f32 => .flt Machine.fp32
  | .bf16 => .flt Machine.bf16
  | .f16 => .flt Machine.fp16
  | .e4m3 => .flt Machine.e4m3
  | .e5m2 => .flt Machine.e5m2
  | .e2m1 => .flt Machine.e2m1
  | .int8 => .int8
  | .uint8 => .uint8

end Sys2Proof

namespace Sys2Proof.Machine

/-- A cell in focus and its place. -/
structure At where
  r : Nat
  p : Nat
  j : Nat
  cell : Cell
  deriving DecidableEq, Repr

/-- The cell in focus, where the unit is one. -/
def State.here (s : State) : Option At :=
  match s.focus with
  | .cell r p j => (s.fabric r).map fun f => { r := r, p := p, j := j, cell := f.cell p j }
  | .seq _ => none

/-- A class M word of the cell in focus: `act` has the operands and the cell. -/
def matWord (i : Instr) (s : State) (act : Opers → At → State → State) : Out :=
  match s.here with
  | none => .next s
  | some h => whenReady i s fun o s => act o h s

/-- The tensor scale of a token's tag, or 1.0 (R363). -/
def Cell.scaleOf (c : Cell) (t : Tok) : Num :=
  match t.tag with
  | some g => c.tensorScale g
  | none => .fin false 1 0

/-- Fields of WDESC (R367). -/
def wBscale (d : W32) : Bool := d.getLsbD 27
def wSpare (d : W32) : Bool := d.getLsbD 26
def wTscale (d : W32) : Bool := d.getLsbD 25
def wGreg (d : W32) : Nat := (d.extractLsb' 22 3).toNat

/-- The cause that an MMA raises when it fires, if any (R363). -/
def mmaCause (fmt : MatFmt) (rd : Reading) (d : W32) (q : BankPtr) : Option Cause :=
  if rd.fmt = .int32 ∨ rd.fmt.perLane ≠ fmt.lane.perLane then some 0x02
  else if wBscale d ∧ ¬scaled fmt.code then some 0x02
  else if wSpare d ∧ (fmt.code ≠ 5 ∨ ¬wBscale d) then some 0x02
  else if sliceBytes < q.w + 64 ∨ (wBscale d ∧ sliceBytes < q.s + 8) then some 0x0D
  else none

/-- Events of an MMA step that may find an error: the injected parity error (R172) and the slice's sectors (R164). -/
def State.mmaErrors (s : State) (h : At) (q : BankPtr) (d : W32) : State :=
  let base := sliceKey h.r (h.j * sliceBytes)
  let (hit, s1) := s.inject h.r 2 (32 * h.p + h.j)
  let bad := s.poisoned (base + q.w) 64 || (wBscale d && s.poisoned (base + q.s) 8)
  if hit || bad then s1.cellError h.r h.p else s1

/-- MMA (R363). -/
def execMma (pd : Pred) (fmt : MatFmt) (t1 t0 : Target) (s : State) : Out :=
  let i : Instr := .mma pd fmt t1 t0
  matWord i s fun o h s =>
    match o.l with
    | some (.tok t) =>
      let c := h.cell
      let q := c.accPtr
      let d := c.wdesc
      let rd := c.reading t fmt.lane
      match mmaCause fmt rd d q with
      | some e => s.failWord e
      | none =>
        let base := sliceKey h.r (h.j * sliceBytes)
        let side : Word := if wBscale d then BitVec.ofNat 64 (s.load (base + q.s) 8) else 0
        let bt : Tag := { fmt := BitVec.ofNat 4 fmt.code, bscale := wBscale d, spare := wSpare d }
        let rb : Reading := { fmt := fmt.lane, tag := some bt, scale := .nan }
        let sb : Source := { lanes := 16, data := s.load (base + q.w) 64, valid := 0xFFFF, side := side, punct := 0 }
        let k := fmt.lane.perLane
        let tb := if wTscale d then fp32.decode (Tab.get 0 c.g (wGreg d)).toNat else .fin false 1 0
        let acc := stepBank c.acc (stepValues rd (sourceOf (.tok t)) k) (stepValues rb sb k) (c.scaleOf t) tb
        let c' := { c with acc := acc, accPtr := { q with w := q.w + 64, s := if wBscale d then q.s + 8 else q.s } }
        (((((s.modCell h.r h.p h.j fun x => { x with acc := c'.acc, accPtr := c'.accPtr, fires := x.fires.add (s.cycle h.r) 4 }).consume i).event h.r 0x09).mmaErrors
          h q d).deliver i (.tok t))
    | _ => s.failWord 0x05

/-- MMAT (R364). -/
def execMmat (pd : Pred) (fmt : MatFmt) (t1 t0 : Target) (s : State) : Out :=
  let i : Instr := .mmat pd fmt t1 t0
  matWord i s fun o h s =>
    match o.l, o.r with
    | some (.tok a), some (.tok b) =>
      let c := h.cell
      let ra := c.reading a fmt.lane
      let rb := c.reading b fmt.lane
      let k := ra.fmt.perLane
      if ra.fmt = .int32 ∨ rb.fmt = .int32 ∨ k ≠ rb.fmt.perLane then s.failWord 0x02
      else
        let acc := stepBank c.acc (stepValues ra (sourceOf (.tok a)) k) (stepValues rb (sourceOf (.tok b)) k)
          (c.scaleOf a) (c.scaleOf b)
        let (hit, s1) := ((s.modCell h.r h.p h.j fun x => { x with acc := acc }).consume i).inject h.r 2 (32 * h.p + h.j)
        (if hit then s1.cellError h.r h.p else s1).deliver i (.tok a)
    | _, _ => s.failWord 0x05

/-- MZERO (R365). -/
def execMzero (pd : Pred) (bank : Bank) (s : State) : Out :=
  matWord (.mzero pd bank) s fun _ h s =>
    (s.modCell h.r h.p h.j fun c => (c.setBank bank []).setPtr bank { c.ptr bank with row := 0 }).consume (.mzero pd bank)

/-- MSWAP (R365). -/
def execMswap (pd : Pred) (s : State) : Out :=
  matWord (.mswap pd) s fun _ h s =>
    (s.modCell h.r h.p h.j fun c => { c with acc := c.sacc, sacc := c.acc, accPtr := c.saccPtr, saccPtr := c.accPtr }).consume
      (.mswap pd)

/-- MLOAD (R366). -/
def execMload (pd : Pred) (bank : Bank) (s : State) : Out :=
  matWord (.mload pd bank) s fun o h s =>
    match o.l with
    | some (.tok t) =>
      let put (c : Cell) : Cell :=
        let q := c.ptr bank
        let rows := (List.range 16).foldl (fun b j => Tab.put b (16 * q.row + j) (if t.ok j then t.lane j else 0)) (c.bank bank)
        (c.setBank bank rows).setPtr bank { q with row := (q.row + 1) % 16 }
      (s.modCell h.r h.p h.j put).consume (.mload pd bank)
    | _ => s.failWord 0x05

/-- One row of a drain (R366). -/
def drainTok (d : Drain) (row : BitVec 512) : Tok :=
  { data := row, valid := 0xFFFF, punct := if d.row = 15 then maxPunct 1 d.punct else 0 }

/-- The cell after a row of its drain has left: after row 15 the bank may be cleared (R366). -/
def Cell.nextRow (c : Cell) (d : Drain) : Cell :=
  if d.row < 15 then { c with drain := some { d with row := d.row + 1, waits := [] } }
  else
    let c := { c with drain := none }
    if d.clear then (c.setBank d.bank []).setPtr d.bank { c.ptr d.bank with row := 0 } else c

/-- A row of a drain reaches each of its targets as that target's slot is empty, and the next row waits for both (R366, log 19). -/
def State.drainRow (s : State) (h : At) (i : Instr) (d : Drain) : State :=
  match d.rows[d.row]? with
  | some row =>
    let now := (d.due i).filter (s.targetFree s.focus s.focusIdx i)
    let left := (d.due i).filter (!now.contains ·)
    if now.isEmpty && !left.isEmpty then s
    else
      let after (c : Cell) : Cell := if left.isEmpty then c.nextRow d else { c with drain := some { d with waits := left } }
      now.foldl (fun s t => s.deliverTo s.focus t (.tok (drainTok d row))) (s.modCell h.r h.p h.j after)
  | none => s.modCell h.r h.p h.j fun c => { c with drain := none }

/-- MDRAIN (R366): its firing takes the bank and emits row 0; the same index then emits a row each time it is run. -/
def execMdrain (pd : Pred) (bank : Bank) (clear : Bool) (t1 t0 : Target) (s : State) : Out :=
  let i : Instr := .mdrain pd bank clear t1 t0
  match s.here with
  | none => .next s
  | some h =>
    match h.cell.drain with
    | some d => if d.node = s.focusIdx ∧ (s.view s.focus).isSome then .next (s.drainRow h i d) else .next s
    | none =>
      whenReady i s fun o s =>
        match o.l with
        | some (.tok t) =>
          let d : Drain := { node := s.focusIdx, rows := (List.range 16).map (bankRow (h.cell.bank bank)), row := 0,
                             punct := t.punct, bank := bank, clear := clear }
          let (hit, s1) := ((s.modCell h.r h.p h.j fun c => { c with drain := some d }).consume i).inject h.r 2 (32 * h.p + h.j)
          (if hit then s1.cellError h.r h.p else s1).drainRow h i d
        | _ => s.failWord 0x05

/-- MSCALE (R367). -/
def execMscale (pd : Pred) (s : State) : Out :=
  matWord (.mscale pd) s fun o h s =>
    match o.l with
    | some (.tok t) =>
      match t.ctl? with
      | none => s.consume (.mscale pd)
      | some d =>
        if d.extractLsb' 28 4 != 0 || d.extractLsb' 0 22 != 0 then s.failWord 0x02
        else (s.modCell h.r h.p h.j fun c => { c with wdesc := d }).consume (.mscale pd)
    | _ => s.failWord 0x05

/-- MWADDR (R368). -/
def execMwaddr (pd : Pred) (bank : Bank) (s : State) : Out :=
  matWord (.mwaddr pd bank) s fun o h s =>
    match o.l with
    | some (.tok t) =>
      let q := h.cell.ptr bank
      let w := if t.ok 0 then (t.lane 0).toNat else q.w
      let z := if t.ok 1 then (t.lane 1).toNat else q.s
      if w % 64 ≠ 0 ∨ z % 8 ≠ 0 then s.failWord 0x0C
      else if sliceBytes ≤ w ∧ t.ok 0 ∨ sliceBytes ≤ z ∧ t.ok 1 then s.failWord 0x0D
      else (s.modCell h.r h.p h.j fun c => c.setPtr bank { c.ptr bank with w := w, s := z }).consume (.mwaddr pd bank)
    | _ => s.failWord 0x05

end Sys2Proof.Machine
end

