-- ==== Sys2Proof/Machine/CellOps.lean ====
section
/-!
DEFINITION. Group 0x9: ports, cell registers, pass registers and filet islands (R369 to R374).
-/

namespace Sys2Proof.Machine

/-- A word of a cell whose L is a token. -/
def cellWord (i : Instr) (s : State) (act : Tok → At → Fabric → State → State) : Out :=
  match s.here, s.here.bind (fun h => s.fabric h.r) with
  | some h, some f =>
    whenReady i s fun o s =>
      match o.l with
      | some (.tok t) => act t h f s
      | _ => s.failWord 0x05
  | _, _ => .next s

/-- OUT (R370): the channel is set and the tag stays behind. -/
def execOut (pd : Pred) (port : OutPort) (chan : BitVec 5) (s : State) : Out :=
  cellWord (.out pd port chan) s fun t h f s =>
    match f.config h.p h.j with
    | some c =>
      let s0 := (s.consume (.out pd port chan)).modCell h.r h.p h.j (·.portUsed port (s.cycle h.r))
      let s1 := s0.send (.tok { t with chan := chan, tag := none }) (s.outDest h.r f h.p h.j c port)
      match port with
      | .down => s1.countToken h.r h.p true
      | .edge => (s1.countToken h.r h.p true).flowOut h.r
      | _ => s1
    | none => s

/-- CRD (R371): sticky, once in each activation, with the register as the activation found it. -/
def execCrd (reg : BitVec 4) (t1 t0 : Target) (s : State) : Out :=
  match s.here with
  | none => .next s
  | some h =>
    fireValue (.crd reg t1 t0) s fun _ =>
      let c := Tab.get ({} : CReg) h.cell.cAt reg.toNat
      .ok (.tok { data := c.data, valid := c.valid })

/-- CWR (R371). -/
def execCwr (reg : BitVec 4) (t1 t0 : Target) (s : State) : Out :=
  cellWord (.cwr reg t1 t0) s fun t h _ s =>
    ((s.modCell h.r h.p h.j fun c => { c with c := c.c.put reg.toNat { data := t.data, valid := t.valid } }).consume
      (.cwr reg t1 t0)).deliver (.cwr reg t1 t0) (.tok t)

/-- What a pass register holds of a token (R372). -/
def passTok (t : Tok) : Tok := { data := t.data, valid := t.valid, punct := t.punct, side := t.side }

/-- The boundary that a PWR writes: the pass register above its successor, or the pass entry of a successor that is not
resident, by ring and key (R192, R196). -/
inductive PassDest where
  | reg (r key : Nat)
  | entry (r j reg key : Nat)
  deriving DecidableEq, Repr

def State.passDest (s : State) (h : At) (f : Fabric) (reg : Nat) : PassDest :=
  if f.scroll then
    let (r', a') := s.successor h.r f (f.stripe h.p).a
    match s.fabric r' with
    | some g => if g.inWindow a' then .reg r' (passKey (g.above (a' % g.p)) h.j reg) else .entry r' h.j reg (4 * wrapKey a' h.j + reg)
    | none => .entry r' h.j reg (4 * wrapKey a' h.j + reg)
  else .reg h.r (passKey h.p h.j reg)

/-- PRD (R372): ready only when the register is full; it empties it. -/
def execPrd (reg : BitVec 2) (t1 t0 : Target) (s : State) : Out :=
  cellWord (.prd reg t1 t0) s fun _ h f s =>
    let key := passKey (f.above h.p) h.j reg.toNat
    match f.passReg.look key with
    | some t =>
      ((s.modFabric h.r fun f => { f with passReg := f.passReg.del key }).consume (.prd reg t1 t0)).deliver (.prd reg t1 t0) (.tok t)
    | none => s

/-- PWR (R372): a full register raises cause 0x1A (R192). -/
def execPwr (reg : BitVec 2) (t1 t0 : Target) (s : State) : Out :=
  cellWord (.pwr reg t1 t0) s fun t h f s =>
    let i : Instr := .pwr reg t1 t0
    match s.passDest h f reg.toNat with
    | .reg r' key =>
      match s.fabric r' with
      | some g =>
        if (g.passReg.look key).isSome then s.failWord 0x1A
        else ((s.modFabric r' fun g => { g with passReg := g.passReg.put key (passTok t) }).consume i).deliver i (.tok t)
      | none => s
    | .entry r' j k key =>
      match s.fabric r' with
      | some g =>
        if (g.passEntry.look key).isSome then s.failWord 0x1A
        else
          let s1 := s.modFabric r' fun g => { g with passEntry := g.passEntry.put key (passTok t) }
          ((s1.bufferToken r' (g.hdr.wrapBase j + 64 * g.hdr.q) 4 k (.tok t)).consume i).deliver i (.tok t)
      | none => s

/-! ## Filet islands (R373, R374) -/

/-- Lanes 2K and 2K + 1 as 64 bits; an invalid lane gives zeros (R374). -/
def windowBits (t : Tok) (k : Nat) : Word := laneOr0 t (2 * k + 1) ++ laneOr0 t (2 * k)

/-- The bit of a table for four inputs (R373). -/
def lutBit (table : BitVec 16) (a b c d : Bool) : Bool := table.getLsbD (bit a + 2 * bit b + 4 * bit c + 8 * bit d)

/-- Layer `l` over the 64 bits below it (R373). -/
def lutLayer (tables : List (BitVec 16)) (l : Nat) (y : Word) : Word :=
  let d := 4 ^ (l - 1)
  BitVec.ofBoolListLE ((List.range 64).map fun j =>
    let b := j - j / d % 4 * d
    lutBit (tables.getD (64 * l + j) 0) (y.getLsbD b) (y.getLsbD (b + d)) (y.getLsbD (b + 2 * d)) (y.getLsbD (b + 3 * d)))
    |>.setWidth 64

/-- The island's result (R373). -/
def islandResult (tables : List (BitVec 16)) (x0 x1 x2 x3 : Word) : Word :=
  let y0 : Word := (BitVec.ofBoolListLE ((List.range 64).map fun j =>
    lutBit (tables.getD j 0) (x0.getLsbD j) (x1.getLsbD j) (x2.getLsbD j) (x3.getLsbD j))).setWidth 64
  lutLayer tables 3 (lutLayer tables 2 (lutLayer tables 1 y0))

/-- The key of an island's tables: virtual stripe and island, in the plane of the virtual stripe (R375, R384). -/
def islandKey (v island : Nat) : Nat := 8 * v + island

/-- The writes of a cell's X that have taken place by a cycle are in it, and the others wait (R374). -/
def Cell.settleX (c : Cell) (now : Nat) : Cell :=
  { c with x := ((c.xs.filter (·.1 ≤ now)).getLast?.map (·.2)).getD c.x, xs := c.xs.filter (now < ·.1) }

/-- X as it stands in a cycle. -/
def Cell.xAt (c : Cell) (now : Nat) : Word := (c.settleX now).x

/-- A write of X that takes place two cycles from now. -/
def Cell.putX (c : Cell) (now : Nat) (x : Word) : Cell := let d := c.settleX now; { d with xs := d.xs ++ [(now + 2, x)] }

/-- FBITS (R374): the write takes place in the cycle in which the targets receive L, the second after it fires. -/
def execFbits (pd : Pred) (k : BitVec 3) (t1 t0 : Target) (s : State) : Out :=
  cellWord (.fbits pd k t1 t0) s fun t h _ s =>
    let now := s.cycle h.r
    let s1 := (s.modCell h.r h.p h.j (·.putX now (windowBits t k.toNat))).consume (.fbits pd k t1 t0)
    [t0, t1].foldl (fun s a => s.deliverTo s.focus a (.tok t) false (now + 2)) s1

/-- FGET (R374). -/
def execFget (pd : Pred) (k : BitVec 3) (t1 t0 : Target) (s : State) : Out :=
  cellWord (.fget pd k t1 t0) s fun t h f s =>
    let first := h.j / 4 * 4
    let tables := f.islands.get [] (islandKey (f.stripe h.p).word.vstripe.toNat (h.j / 4))
    let x (m : Nat) : Word := (f.cell h.p (first + m)).xAt (s.cycle h.r)
    let y := islandResult tables (x 0) (x 1) (x 2) (x 3)
    let n := 2 * k.toNat
    let out := laneTok (fun i => if i = n then y.extractLsb' 0 32 else y.extractLsb' 32 32) (fun i => i == n || i == n + 1) t.punct
    (s.consume (.fget pd k t1 t0)).deliver (.fget pd k t1 t0) (.tok out)

end Sys2Proof.Machine
end

