-- ==== Sys2Proof/Machine/Strands.lean ====
section
/-!
DEFINITION. The ordering machine of a ring's sequencer (R238 to R248): issue with a snapshot, performing, deferred
values (R379); adds to knots (R221); the checks of a memory operation (R388); and how a commit item is recorded as its
instruction fires (R240, R378).
-/

namespace Sys2Proof.Machine

/-! ## Issue and performing -/

/-- The snapshot of an operation that issues now (R241). -/
def Seqr.snapshot (q : Seqr) (sn : Strand) (m : SMask) (excl : Bool) : List Nat :=
  (q.ops.filter fun o => holds sn m excl o.strand o.excl).map (·.id)

/-- The mode in force when its snapshot empties stays with an operation (R254). -/
def Op.modeAs (o : Op) (flush : Bool) : Op := if o.snap.isEmpty && o.mode.isNone then { o with mode := some flush } else o

/-- Operations leave a snapshot. -/
def Op.without (o : Op) (gone : Nat → Bool) (flush : Bool) : Op := { o with snap := o.snap.filter (!gone ·) }.modeAs flush

/-- An operation of a context issues under the identifier `id`; `now` is its counted cycle (R244), `flush` the mode in force. -/
def Seqr.issue (q : Seqr) (c : CtxId) (id : Nat) (sn : Strand) (m : SMask) (excl committed : Bool) (w : Work) (ret : Option (BitVec 6))
    (now : Nat) (flush : Bool) : Seqr :=
  let o : Op := { id := id, strand := sn, mask := m, excl := excl, snap := q.snapshot sn m excl, work := w, committed := committed, ret := ret,
                  since := now, ctx := c }
  { q with ops := q.ops ++ [o.modeAs flush], nextOp := max q.nextOp (id + 1) }

/-- A counter of R243 counts one. -/
def count16 (t : Tab (BitVec 16)) (sn : Strand) : Tab (BitVec 16) := t.put sn.toNat (t.get 0 sn.toNat + 1)

/-- Progress of what an operation started: the count of R244 begins anew for every operation that waits on it. -/
def Seqr.progress (q : Seqr) (id now : Nat) : Seqr :=
  { q with ops := q.ops.map fun o => if o.snap.contains id then { o with since := now } else o }

/-- A deferred value is available: it will land where its register still waits for it (R379). -/
def Seqr.available (q : Seqr) (id : Nat) (v : Word) : Seqr :=
  { q with landing := (q.pending.filter fun e => e.2 == id).foldl (fun t e => t.put e.1 v) q.landing }

def State.op? (s : State) (r id : Nat) : Option Op := (s.ring r).seqr.ops.find? fun o => o.id == id

def State.modOp (s : State) (r id : Nat) (f : Op → Op) : State :=
  s.modSeqr r fun q => { q with ops := q.ops.map fun o => if o.id == id then f o else o }

/-- An amount leaves a knot (R222). -/
def Knot.take (k : Knot) (a : W32) : Knot := { k with count := k.count - a }

def State.modKnot (s : State) (r k : Nat) (f : Knot → Knot) : State :=
  s.modRing r fun x => { x with knots := x.knots.put k (f (x.knots.get {} k)) }

/-- Amounts that awaited an operation are taken once nothing they await is left (R393). -/
def State.payOwed (s : State) (r id : Nat) : State :=
  let q := (s.ring r).seqr
  let owed := q.owed.map fun w => { w with awaits := w.awaits.filter (· != id) }
  let s1 := s.modSeqr r fun q => { q with owed := owed.filter fun w => !w.awaits.isEmpty }
  (owed.filter fun w => w.awaits.isEmpty).foldl (fun s w => s.modKnot r w.knot.toNat (·.take w.amount)) s1

/-- An operation performs: it leaves every snapshot, counts in DONE when it has committed and no task has started since its own ended, and its value becomes available
(R243, R245, R379). -/
def State.finishOp (s : State) (r id : Nat) (v : Option Word := none) : State :=
  match s.op? r id with
  | none => s
  | some o =>
    let now := s.counted r
    let free := (s.ring r).cur.isNone
    let s1 := s.modSeqr r fun q =>
      let q := q.progress id now
      let q := { q with ops := (q.ops.filter (·.id != id)).map (·.without (· == id) s.dev.flush)
                        done := if o.committed && (!o.old || free) then count16 q.done o.strand else q.done }
      match v with | some v => q.available id v | none => q
    s1.payOwed r id

/-! ## Adds to knots (R221, R224) -/

/-- A knot after an add; none where the add would pass its bound. -/
def Knot.add (k : Knot) (n : Nat) : Option Knot :=
  let c := k.count.toNat + n
  if k.mode then
    if 2 * k.target.toNat ≤ c then none
    else if k.target.toNat ≤ c then some { k with count := BitVec.ofNat 32 (c - k.target.toNat), phase := !k.phase }
    else some { k with count := BitVec.ofNat 32 c }
  else if 2 ^ 32 ≤ c then none
  else some { k with count := BitVec.ofNat 32 c }

/-- The place of an engine among those that add to one knot in one cycle; eyelets follow, in zone order (R221). -/
def Engine.rank : Engine → Nat
  | .walker .inbound p => 1 + p.val
  | .walker .outbound p => 9 + p.val
  | .shuttle ch => 17 + ch.val
  | .eyelet => 33
  | _ => 0

/-- Whether an add, or a KINIT, of a rank may still reach a knot in this cycle: nothing of a later place has (R221, R237). -/
def State.addTurn (s : State) (r k rank : Nat) : Bool :=
  match (s.ring r).added.look k with
  | some (c, q) => c < s.cycle r || q ≤ rank
  | none => true

/-- An add reaches a knot of a ring; an error that it carries sets ERROR even where the add traps (R221). -/
def State.knotAdd (s : State) (r k n : Nat) (err : Bool) (e : Engine) (block : Word) (zone : Nat := 0) : State :=
  let s0 := if err then s.knotError r k else s
  let s1 := s0.modRing r fun x => { x with added := x.added.put k (s.cycle r, e.rank + zone) }
  match (s1.ring r).knots.get {} k |>.add n with
  | some x => s1.modKnot r k fun _ => x
  | none =>
    match (s1.ring r).resident with
    | some c => s1.raise c r e 0x28 block 0
    | none => s1

/-- The value word of a knot (R219). -/
def Knot.word (k : Knot) : Word :=
  k.count.setWidth 64 ||| (BitVec.ofBool k.phase).setWidth 64 <<< 32 ||| (BitVec.ofBool k.error).setWidth 64 <<< 33 |||
    (BitVec.ofBool k.mode).setWidth 64 <<< 34

/-! ## The checks of a memory operation (R388) -/

/-- What an access is, beyond its address. -/
structure Req where
  sp : Space
  n : Nat
  use : Use
  /-- The word that an ST64 stores, where io may take it (R210). -/
  io : Option Word := none
  atomic : Bool := false
  /-- A load, a store or an atomic, which a watch sees (R398). -/
  watch : Bool := true
  deriving DecidableEq, Repr

/-- The outcome of R388: a cause, a miss, or the access with the state in which it has been translated. -/
inductive Check where
  | fail (s : State) (c : Cause)
  | miss
  | pass (s : State) (a : Acc)

/-- The limit of a space (R110). -/
def spaceLimit : Space → Nat
  | .g => 2 ^ 57
  | .p => 0x1000000
  | .w => 0x3000000
  | .io => 0x100

/-- Whether an address and a stored word meet the aperture format (R210). -/
def apertureOk (l v : Word) : Bool := l.toNat % 16 == 0 && v.extractLsb' 14 2 == 0 && v.toNat / 2 ^ 16 % 64 == 0

/-- Counters that watch the sector of an address (R398). -/
def Perf.watches (p : Perf) (l : Word) : Bool :=
  (List.range 8).any fun i => p.event.get 0 i == 0xFF && p.waddr.get 0 i == l.extractLsb' 6 51

def Perf.watched (p : Perf) (l : Word) : Perf :=
  let one (t : Tab Word) (i : Nat) : Tab Word :=
    if p.event.get 0 i = 0xFF ∧ p.waddr.get 0 i = l.extractLsb' 6 51 then t.put i (t.get 0 i + 1) else t
  if p.enable then { p with count := (List.range 8).foldl one p.count } else p

/-- Orders 2 to 7 of R388 for an access at `l` by the task of a ring. -/
def State.access (s : State) (r : Nat) (t : Task) (q : Req) (l : Word) : Check :=
  if q.atomic ∧ (q.sp = .w ∨ q.sp = .io) then .fail s 0x0F
  else if q.sp = .io ∧ q.io = none then .fail s 0x11
  else if spaceLimit q.sp ≤ l.toNat then .fail s 0x0D
  else if l.toNat % q.n ≠ 0 then .fail s 0x0C
  else
    match q.sp with
    | .io => if apertureOk l (q.io.getD 0) then .pass s { space := .io, va := l, key := 0, n := q.n, home := .pool } else .fail s 0x11
    | .p => .pass s { space := .p, va := l, key := poolKey r l.toNat, n := q.n, home := .pool }
    | .w => .pass s { space := .w, va := l, key := sliceKey r l.toNat, n := q.n, home := .slice }
    | .g =>
      match s.lookup r t.ctx l q.use with
      | .cause c => .fail s c
      | .miss => .miss
      | .place key home =>
        let s1 := s.reached r t.ctx l home
        if q.watch && (s1.ring r).seqr.perf.watches l then
          .fail (s1.modSeqr r fun z => { z with perf := z.perf.watched l }) 0x3B
        else .pass s1 { space := .g, va := l, key := key, n := q.n, home := home }

/-- The block that a ring's sequencer runs, for a stop record. -/
def State.blockVa (s : State) (r : Nat) : Word :=
  match (s.ring r).seqr.blk with | some b => b.addr | none => (s.ring r).seqr.pc

/-- A word of the sequencer that reaches memory: the checks of R388, then `act` on the access; a miss waits for its walk
(R114), and a failure names the address. -/
def memWord (i : Instr) (s : State) (addr : Opers → Except Cause (Word × Req)) (act : Opers → Acc → State → State) : Out :=
  whenReady i s fun o s =>
    let r := s.focus.ring
    match addr o, (s.ring r).cur with
    | .error c, _ => s.failWord c
    | .ok _, none => s
    | .ok (l, q), some t =>
      match s.access r t q l with
      | .fail s c => s.failWord c (some l)
      | .miss => s.miss r t.ctx l q.use .sequencer (s.blockVa r)
      | .pass s a => act o a s

/-! ## Value-returning operations and commit items -/

/-- A value-returning word issues its operation as it fires (R240). -/
def State.issueValue (s : State) (i : Instr) (w : Work) : State :=
  match i.vop with
  | none => s
  | some (sn, m, excl) =>
    let r := s.focus.ring
    let now := s.counted r
    let c := match (s.ring r).cur with | some t => t.ctx | none => 0
    ((s.consume i).modSeqr r fun q =>
      { q.issue c q.nextOp sn m excl false w none now s.dev.flush with
        blk := q.blk.map fun b => { b with vops := b.vops ++ [sn] } }).event r 0x04

/-- The deferred WRITE that t0 names, by index and register (R379). -/
def State.deferred (s : State) (i : Instr) : Option (Nat × BitVec 6) :=
  match i.outs, (s.ring s.focus.ring).seqr.blk with
  | .to _ x :: _, some b =>
    match wordAt b.words x.toNat with
    | some (.write reg) => some (x.toNat, reg)
    | _ => none
  | _, _ => none

/-- A commit item is recorded as its word fires; the deferred WRITE it feeds settles (R240, R379). -/
def State.pushItem (s : State) (i : Instr) (w : Work) : State :=
  let r := s.focus.ring
  let ret := s.deferred i
  let s1 := s.consume i
  let s2 := match ret with
    | some (k, _) => s1.setNode s.focus k { s1.node s.focus k with dead := true }
    | none => s1
  s2.modSeqr r fun q =>
    { q with blk := q.blk.map fun b =>
        { b with items := b.items ++ [{ idx := s.focusIdx, strand := i.commitStrand, work := w, ret := ret }] } }

end Sys2Proof.Machine
end

