-- ==== Sys2Proof/Machine/Atomic.lean ====
section
/-!
DEFINITION. Group 0xC: the twelve atomics (R391).
-/

namespace Sys2Proof.Machine

/-- Bytes of an atomic's location. -/
def AtomKind.bytes : AtomKind → Nat
  | .fadd => 4
  | .fmax => 4
  | _ => 8

/-- The new value at the location from the old value, the operand and ACAS's new value (R391). -/
def AtomKind.apply (k : AtomKind) (old b c : Word) : Word :=
  match k with
  | .add => old + b
  | .min => if b.slt old then b else old
  | .max => if old.slt b then b else old
  | .minu => if b < old then b else old
  | .maxu => if old < b then b else old
  | .and => old &&& b
  | .or => old ||| b
  | .xor => old ^^^ b
  | .xchg => b
  | .cas => if old = b then c else old
  | .fadd => BitVec.ofNat 64 (arithElem (fun x y _ => x.add y) fp32 (old.toNat % 2 ^ 32) (b.toNat % 2 ^ 32) 0)
  | .fmax => BitVec.ofNat 64 (maxElem fp32 (old.toNat % 2 ^ 32) (b.toNat % 2 ^ 32))

/-- An atomic: a commit item checked as it fires; its old value comes back when it performs (R378, R379). -/
def atomWord (i : Instr) (k : AtomKind) (sp : Space) (s : State) : Out :=
  memWord i s
    (fun o => (o.scalars i.reads).map fun l =>
      (BitVec.ofNat 64 (opn l 0), { sp := sp, n := k.bytes, use := .write, atomic := true }))
    fun o a s =>
      let v : Option Val → Word := fun x => match x with | some (.sc y) => y | _ => 0
      s.pushItem i (.atomic k a (v o.r) (v o.t))

/-- AADD (R391). -/
def execAadd (pd : Pred) (sp : Space) (sn : Strand) (m : SMask) (t0 : Target) (s : State) : Out :=
  atomWord (.aadd pd sp sn m t0) .add sp s

/-- AMIN (R391). -/
def execAmin (pd : Pred) (sp : Space) (sn : Strand) (m : SMask) (t0 : Target) (s : State) : Out :=
  atomWord (.amin pd sp sn m t0) .min sp s

/-- AMAX (R391). -/
def execAmax (pd : Pred) (sp : Space) (sn : Strand) (m : SMask) (t0 : Target) (s : State) : Out :=
  atomWord (.amax pd sp sn m t0) .max sp s

/-- AMINU (R391). -/
def execAminu (pd : Pred) (sp : Space) (sn : Strand) (m : SMask) (t0 : Target) (s : State) : Out :=
  atomWord (.aminu pd sp sn m t0) .minu sp s

/-- AMAXU (R391). -/
def execAmaxu (pd : Pred) (sp : Space) (sn : Strand) (m : SMask) (t0 : Target) (s : State) : Out :=
  atomWord (.amaxu pd sp sn m t0) .maxu sp s

/-- AAND (R391). -/
def execAand (pd : Pred) (sp : Space) (sn : Strand) (m : SMask) (t0 : Target) (s : State) : Out :=
  atomWord (.aand pd sp sn m t0) .and sp s

/-- AOR (R391). -/
def execAor (pd : Pred) (sp : Space) (sn : Strand) (m : SMask) (t0 : Target) (s : State) : Out :=
  atomWord (.aor pd sp sn m t0) .or sp s

/-- AXOR (R391). -/
def execAxor (pd : Pred) (sp : Space) (sn : Strand) (m : SMask) (t0 : Target) (s : State) : Out :=
  atomWord (.axor pd sp sn m t0) .xor sp s

/-- AXCHG (R391). -/
def execAxchg (pd : Pred) (sp : Space) (sn : Strand) (m : SMask) (t0 : Target) (s : State) : Out :=
  atomWord (.axchg pd sp sn m t0) .xchg sp s

/-- ACAS (R391). -/
def execAcas (pd : Pred) (sp : Space) (sn : Strand) (m : SMask) (t0 : Target) (s : State) : Out :=
  atomWord (.acas pd sp sn m t0) .cas sp s

/-- AFADD (R391). -/
def execAfadd (pd : Pred) (sp : Space) (sn : Strand) (m : SMask) (t0 : Target) (s : State) : Out :=
  atomWord (.afadd pd sp sn m t0) .fadd sp s

/-- AFMAX (R391). -/
def execAfmax (pd : Pred) (sp : Space) (sn : Strand) (m : SMask) (t0 : Target) (s : State) : Out :=
  atomWord (.afmax pd sp sn m t0) .fmax sp s

end Sys2Proof.Machine
end

