-- ==== Sys2Proof/Machine/Control.lean ====
section
/-!
DEFINITION. Group 0xA: block exits, registers, YIELD, FORK and RDV, TRAP, ERET, BRK and WAIT (R380 to R386).
-/

namespace Sys2Proof.Machine

/-! ## Exits (R380) -/

/-- An exit fires; a second one traps (R300). -/
def State.takeExit (s : State) (i : Instr) (e : Blk → Seqr → Except Cause Exit) : State :=
  let r := s.focus.ring
  let q := (s.ring r).seqr
  match q.blk with
  | none => s
  | some b =>
    if b.exit.isSome then s.failWord 0x04
    else
      match e b q with
      | .error c => s.failWord c
      | .ok x => (s.consume i).modSeqr r fun q => { q with blk := q.blk.map fun b => { b with exit := some x } }

/-- The address that an FB offset names (R287). -/
def Blk.target (b : Blk) (offset : BitVec 22) : Word := b.addr + (offset.signExtend 64 <<< 2)

/-- The address past a block: its header, words, and pool if it has one (R380). -/
def Blk.past (b : Blk) : Word :=
  b.addr + BitVec.ofNat 64 (4 * (1 + b.words.length + (if b.pool.isEmpty then 0 else 1 + b.pool.length)))

/-- BR (R380). -/
def execBr (pd : Pred) (offset : BitVec 22) (s : State) : Out :=
  whenReady (.br pd offset) s fun _ s => s.takeExit (.br pd offset) fun b _ => .ok (.to (b.target offset))

/-- CALL (R380). -/
def execCall (pd : Pred) (offset : BitVec 22) (s : State) : Out :=
  whenReady (.call pd offset) s fun _ s =>
    s.takeExit (.call pd offset) fun b q =>
      if 32 ≤ q.stack.length then .error 0x38 else .ok (.call (b.target offset) b.past)

/-- RET (R380): `stack` is kept oldest first. -/
def execRet (pd : Pred) (s : State) : Out :=
  whenReady (.ret pd) s fun _ s =>
    s.takeExit (.ret pd) fun _ q => match q.stack.getLast? with | some a => .ok (.ret a) | none => .error 0x38

/-- DONE (R380). -/
def execDone (pd : Pred) (s : State) : Out :=
  whenReady (.done pd) s fun _ s => s.takeExit (.done pd) fun _ _ => .ok .done

/-! ## Registers (R381) -/

/-- READ: the register as it stood before the block. -/
def execRead (reg : BitVec 6) (t1 t0 : Target) (s : State) : Out :=
  fireValue (.read reg t1 t0) s fun _ => .ok (.sc ((s.ring s.focus.ring).seqr.x.get 0 reg.toNat))

/-- A v register as a token. -/
def VReg.tok (v : VReg) : Tok := { data := v.data, valid := v.valid }

/-- READV. -/
def execReadv (reg : BitVec 3) (t1 t0 : Target) (s : State) : Out :=
  fireValue (.readv reg t1 t0) s fun _ => .ok (.tok ((s.ring s.focus.ring).seqr.v.get {} reg.toNat).tok)

/-- WRITE: takes effect at commit; a token needs a v register. -/
def execWrite (reg : BitVec 6) (s : State) : Out :=
  whenReady (.write reg) s fun o s =>
    match o.l with
    | some (.tok t) => if 8 ≤ reg.toNat then s.failWord 0x05 else s.pushItem (.write reg) (.write reg (.tok t))
    | some (.sc x) => s.pushItem (.write reg) (.write reg (.sc x))
    | none => s.failWord 0x05

/-! ## YIELD, FORK, RDV (R382 to R385) -/

/-- A word that takes scalars and becomes a commit item, or a cause. -/
def itemWord (i : Instr) (s : State) (f : List Word → Except Cause Work) : Out :=
  whenReady i s fun o s =>
    match o.scalars i.reads with
    | .error c => s.failWord c
    | .ok l =>
      match f l with
      | .error c => s.failWord c
      | .ok w => s.pushItem i w

/-- YIELD (R382). -/
def execYield (pd : Pred) (entry : BitVec 13) (s : State) : Out :=
  itemWord (.yield pd entry) s fun _ => .ok (.yield entry)

/-- FORK (R383): an unaligned image traps and names the address. -/
def execFork (pd : Pred) (handle : BitVec 2) (sn : Strand) (m : SMask) (s : State) : Out :=
  whenReady (.fork pd handle sn m) s fun o s =>
    match o.l with
    | some (.sc x) =>
      if x.toNat % 64 ≠ 0 then s.failWord 0x0C (some x)
      else s.pushItem (.fork pd handle sn m) (.fork handle x)
    | _ => s.failWord 0x05

/-- RDV (R385): the cycles of a completed fork, or 0 where none is outstanding; the handle is freed. -/
def execRdv (pd : Pred) (handle : BitVec 2) (t0 : Target) (s : State) : Out :=
  whenReady (.rdv pd handle t0) s fun _ s =>
    let r := s.focus.ring
    let freed := match (s.ring r).seqr.blk with | some b => b.freed.contains handle | none => false
    let v : Word :=
      match (s.ring r).seqr.handles.get .free handle.toNat with
      | .complete _ n => if freed then 0 else BitVec.ofNat 64 (min n (2 ^ 32 - 1))
      | _ => 0
    (((s.consume (.rdv pd handle t0)).deliver (.rdv pd handle t0) (.sc v)).modSeqr r fun q =>
      { q with blk := q.blk.map fun b => { b with freed := handle :: b.freed } })

/-! ## TRAP, ERET, BRK and WAIT (R386) -/

/-- TRAP: the record's VA holds the code. -/
def execTrap (pd : Pred) (code : BitVec 13) (s : State) : Out :=
  whenReady (.trap pd code) s fun _ s => s.failWord 0x3C (some (code.setWidth 64))

/-- BRK. -/
def execBrk (pd : Pred) (code : BitVec 7) (s : State) : Out :=
  whenReady (.brk pd code) s fun _ s => s.failWord 0x39 (some (code.setWidth 64))

/-- Privileged words trap at user level (R108). -/
def State.super (s : State) : Bool := (s.ring s.focus.ring).seqr.priv

/-- ERET: at commit the task's privilege becomes user. -/
def execEret (pd : Pred) (s : State) : Out :=
  itemWord (.eret pd) s fun _ => if s.super then .ok .eret else .error 0x08

/-- WAIT: delivers 0 once its cycles have passed. -/
def execWait (pd : Pred) (cycles : BitVec 13) (t0 : Target) (s : State) : Out :=
  fireValue (.wait pd cycles t0) s fun _ => .ok (.sc 0)

end Sys2Proof.Machine
end

