-- ==== Sys2Proof/Machine/KnotEyelet.lean ====
section
/-!
DEFINITION. Groups 0xD0 to 0xD7: the words that act on knots and eyelet zones, as they fire (R392, R394). What they do to
a knot or zone comes at commit or when they perform (R393, R378).
-/

namespace Sys2Proof.Machine

/-! ## Knots (R392) -/

/-- The knot number in L, or cause 0x26. -/
def knotIndex (l : List Word) : Except Cause (BitVec 6) :=
  if 64 ≤ opn l 0 then .error 0x26 else .ok (BitVec.ofNat 6 (opn l 0))

/-- KINIT: zero fields, then the target of byte-barrier mode (R220, R392). -/
def execKinit (pd : Pred) (sn : Strand) (m : SMask) (s : State) : Out :=
  itemWord (.kinit pd sn m) s fun l =>
    (knotIndex l).bind fun k =>
      let v := opn l 1
      let t := opn l 2
      if 2 ^ 35 ≤ v ∨ 2 ^ 32 ≤ t ∨ (v / 2 ^ 34 % 2 = 1 ∧ t = 0) then .error 0x02
      else .ok (.kinit k (BitVec.ofNat 64 v) (BitVec.ofNat 64 t))

/-- KADD. -/
def execKadd (pd : Pred) (sn : Strand) (m : SMask) (s : State) : Out :=
  itemWord (.kadd pd sn m) s fun l =>
    (knotIndex l).bind fun k =>
      if 2 ^ 32 ≤ opn l 1 then .error 0x02 else .ok (.kadd k (BitVec.ofNat 32 (opn l 1)))

/-- KWAIT. -/
def execKwait (pd : Pred) (trapErr : Bool) (sn : Strand) (m : SMask) (t0 : Target) (s : State) : Out :=
  itemWord (.kwait pd trapErr sn m t0) s fun l =>
    (knotIndex l).bind fun k =>
      if 2 ^ 32 ≤ opn l 1 then .error 0x02 else .ok (.kwait k trapErr (BitVec.ofNat 64 (opn l 1)))

/-- KTRY. -/
def execKtry (pd : Pred) (trapErr : Bool) (sn : Strand) (m : SMask) (t0 : Target) (s : State) : Out :=
  itemWord (.ktry pd trapErr sn m t0) s fun l =>
    (knotIndex l).bind fun k =>
      if 2 ^ 32 ≤ opn l 1 then .error 0x02 else .ok (.ktry k trapErr (BitVec.ofNat 64 (opn l 1)))

/-- A value-returning word that takes one scalar, or a cause. -/
def valueWord (i : Instr) (s : State) (f : Word → Except Cause Work) : Out :=
  whenReady i s fun o s =>
    match o.scalars i.reads with
    | .error c => s.failWord c
    | .ok l =>
      match f (BitVec.ofNat 64 (opn l 0)) with
      | .error c => s.failWord c
      | .ok w => s.issueValue i w

/-- KREAD. -/
def execKread (pd : Pred) (sn : Strand) (m : SMask) (t0 : Target) (s : State) : Out :=
  valueWord (.kread pd sn m t0) s fun l =>
    if 64 ≤ l.toNat then .error 0x26 else .ok (.kread (l.setWidth 6) s.focusIdx t0)

/-! ## Eyelets (R394) -/

/-- Bits of a word that lie outside its fields. -/
def stray (v : Nat) (fields : Word) : Bool := BitVec.ofNat 64 v &&& ~~~fields != 0

/-- LZRESV, reserve form: chip, die, ring and zone in L, KEY in R. -/
def execLzresv (pd : Pred) (sn : Strand) (m : SMask) (t0 : Target) (s : State) : Out :=
  itemWord (.lzresv pd sn m t0) s fun l =>
    if stray (opn l 0) 0x0F1FFFFF || 2 ^ 16 ≤ opn l 1 then .error 0x02
    else .ok (.resv (BitVec.ofNat 64 (opn l 0)) (BitVec.ofNat 64 (opn l 1)))

/-- LZRESV, declare form; the declaration's own checks come at commit (R226). -/
def execLzresvDeclare (pd : Pred) (sn : Strand) (m : SMask) (s : State) : Out :=
  itemWord (.lzresvDeclare pd sn m) s fun l =>
    if opn l 1 ≠ 0 then .error 0x02 else .ok (.declare (BitVec.ofNat 64 (opn l 0)))

/-- LZREL, release form. -/
def execLzrel (pd : Pred) (sn : Strand) (m : SMask) (s : State) : Out :=
  itemWord (.lzrel pd sn m) s fun l =>
    if stray (opn l 0) 0x3F0F || 2 ≤ opn l 1 then .error 0x02
    else .ok (.release (BitVec.ofNat 4 (opn l 0)) (BitVec.ofNat 6 (opn l 0 / 256)) (opn l 1 == 1))

/-- LZREL, retire form. -/
def execLzrelRetire (pd : Pred) (sn : Strand) (m : SMask) (s : State) : Out :=
  itemWord (.lzrelRetire pd sn m) s fun l =>
    if stray (opn l 0) 0xF || opn l 1 ≠ 0 then .error 0x02 else .ok (.retire (BitVec.ofNat 4 (opn l 0)))

/-- LZSTAT, slot form. -/
def execLzstat (pd : Pred) (sn : Strand) (m : SMask) (t0 : Target) (s : State) : Out :=
  valueWord (.lzstat pd sn m t0) s fun l =>
    if stray l.toNat 0x3F0F then .error 0x02
    else .ok (.lzstat (l.setWidth 4) (some (BitVec.ofNat 6 (l.toNat / 256))) s.focusIdx t0)

/-- LZSTAT, zone form. -/
def execLzstatZone (pd : Pred) (sn : Strand) (m : SMask) (t0 : Target) (s : State) : Out :=
  valueWord (.lzstatZone pd sn m t0) s fun l =>
    if stray l.toNat 0x3F0F then .error 0x02 else .ok (.lzstat (l.setWidth 4) none s.focusIdx t0)

end Sys2Proof.Machine
end

