-- ==== Sys2Proof/Machine/Zones.lean ====
section
/-!
DEFINITION. Eyelet zones and their slots (R225 to R234), and the division of the pool that they share with buffers and
declared inputs (R195, R226).
-/

namespace Sys2Proof.Machine

/-! ## Pool ranges -/

/-- First byte past scratch (R195). -/
def scratchTop (pp : BitVec 16) : Nat := (256 - (pp.toNat % 256 + pp.toNat / 256)) * 0x10000

/-- Whether two ranges of first byte and length meet. -/
def overlaps (a b : Nat × Nat) : Bool := a.1 < b.1 + b.2 && b.1 < a.1 + a.2

def Zone.slotBytes (z : Zone) : Nat := 4096 * 2 ^ z.log2sz.toNat

/-- Slots of a zone. -/
def Zone.count (z : Zone) : Nat := z.nslot.toNat + 1

def Zone.range (z : Zone) : Nat × Nat := (4096 * z.base.toNat, z.count * z.slotBytes)

/-- Ranges of the zones declared on a ring. -/
def Ring.zoneRanges (x : Ring) : List (Nat × Nat) :=
  (List.range 16).filterMap fun n => let z := x.zones.get {} n; if z.owner.isSome then some z.range else none

/-- Stream buffers and wrap buffers of the forks outstanding. -/
def Ring.bufferRanges (x : Ring) : List (Nat × Nat) := x.eng.forks.flatMap fun f => f.buffers ++ f.wrapBuf.toList

/-- Input ranges that the running task has declared. -/
def Ring.inputRanges (x : Ring) : List (Nat × Nat) :=
  match x.cur with
  | some t => t.ins.filterMap fun d => d.map fun d => (4096 * d.poff, d.bytes)
  | none => []

/-! ## Words (R225, R228) -/

/-- A zone entry as LZSTAT reads it (R225). -/
def Zone.word (z : Zone) (n : Nat) : Word :=
  BitVec.ofNat 64
    (2 ^ 63 + z.log2sz.toNat * 2 ^ 56 + z.nslot.toNat * 2 ^ 50 + z.knot.toNat * 2 ^ 44 + n * 2 ^ 40 + z.tout.toNat * 2 ^ 35 +
      z.base.toNat * 2 ^ 16 + z.key.toNat)

def SlotState.code : SlotState → Nat
  | .free => 0 | .reserved => 1 | .full => 2 | .torn => 3

/-- A slot as LZSTAT reads it (R228): the holder shows while RESERVED. -/
def EyeSlot.word (e : EyeSlot) : Word :=
  BitVec.ofNat 64
    (e.gen.toNat * 2 ^ 48 + e.state.code * 2 ^ 46 + (if e.state = .reserved then e.holder.toNat * 2 ^ 24 else 0) + e.arrived)

def Zone.slot (z : Zone) (k : Nat) : EyeSlot := z.slots.get {} k

def Zone.setSlot (z : Zone) (k : Nat) (e : EyeSlot) : Zone := { z with slots := z.slots.put k e }

def Ring.zone (x : Ring) (n : Nat) : Zone := x.zones.get {} n

def State.modZone (s : State) (r n : Nat) (f : Zone → Zone) : State :=
  s.modRing r fun x => { x with zones := x.zones.put n (f (x.zone n)) }

/-- What LZSTAT reads for a context (R394): zero for a zone it does not own and a slot past the zone's count. -/
def State.zoneStat (s : State) (r : Nat) (c : CtxId) (n : Nat) (slot : Option Nat) : Word :=
  let z := (s.ring r).zone n
  if z.owner != some c then 0
  else
    match slot with
    | none => z.word n
    | some k => if k < z.count then (z.slot k).word else 0

/-! ## What LZRESV.declare and LZREL do (R226, R233, R394) -/

/-- A declaration's fields (R225). -/
def Zone.ofWord (c : CtxId) (w : Word) : Zone :=
  { owner := some c, log2sz := w.extractLsb' 56 4, nslot := w.extractLsb' 50 6, knot := w.extractLsb' 44 6,
    tout := w.extractLsb' 35 5, base := w.extractLsb' 16 12, key := w.extractLsb' 0 16 }

/-- A declaration by a context (R226). -/
def State.declareZone (s : State) (r : Nat) (c : CtxId) (w : Word) : Except Cause State :=
  let n := (w.extractLsb' 40 4).toNat
  let z := Zone.ofWord c w
  let x := s.ring r
  if w.extractLsb' 60 3 != 0 || w.extractLsb' 28 7 != 0 || 8 < z.log2sz.toNat || z.tout.toNat < 12 ||
      z.base.toNat % 2 ^ z.log2sz.toNat != 0 then .error 0x02
  else if (x.zone n).owner.isSome then .error 0x02
  else if scratchTop x.seqr.poolPart < z.range.1 + z.range.2 ||
      (x.zoneRanges ++ x.bufferRanges ++ x.inputRanges).any (overlaps z.range) then .error 0x16
  else .ok (s.modZone r n fun _ => z)

/-- A retire by a context (R226, R394). -/
def State.retireZone (s : State) (r : Nat) (c : CtxId) (n : Nat) : Except Cause State :=
  let z := (s.ring r).zone n
  match z.owner with
  | none => .ok s
  | some o =>
    if o != c then .error 0x22
    else if (List.range z.count).any fun k => (z.slot k).state == .reserved then .error 0x22
    else .ok (s.modRing r fun x => { x with zones := x.zones.del n })

/-- A slot that becomes FREE with its generation advanced. -/
def EyeSlot.freed (e : EyeSlot) : EyeSlot := { gen := e.gen + 1 }

/-- A slot that becomes TORN from RESERVED by a revocation or timeout: GEN advances, ARRIVED stays (R234, R235). -/
def EyeSlot.tear (e : EyeSlot) : EyeSlot := { e with state := .torn, gen := e.gen + 1 }

/-- A zone's knot gains 1 when a slot becomes full (R221, R231). -/
def State.zoneAdd (s : State) (r n : Nat) : State :=
  s.knotAdd r ((s.ring r).zone n).knot.toNat 1 false .eyelet 0 n

/-- ERROR on a zone's knot (R165). -/
def State.zoneError (s : State) (r n : Nat) : State := s.knotError r ((s.ring r).zone n).knot.toNat

/-- A release by a context (R233, R394); one that revokes a reservation sets ERROR on the zone knot (R165, R224). -/
def State.releaseSlot (s : State) (r : Nat) (c : CtxId) (n k : Nat) (full : Bool) : Except Cause State :=
  let z := (s.ring r).zone n
  let e := z.slot k
  if z.owner != some c || z.count ≤ k || e.state = .free then (if full then .error 0x23 else .ok s)
  else
    match e.state, full with
    | .torn, true => .error 0x25
    | .reserved, true => .error 0x23
    | .reserved, false => .ok ((s.modZone r n fun z => z.setSlot k e.freed).zoneError r n)
    | _, _ => .ok (s.modZone r n fun z => z.setSlot k e.freed)

/-! ## What a zone word does once its commit has judged it (R378, R394) -/

/-- A declaration takes effect. -/
def State.applyDeclare (s : State) (r : Nat) (c : CtxId) (w : Word) : State :=
  let n := (w.extractLsb' 40 4).toNat
  if ((s.ring r).zone n).owner.isSome then s else s.modZone r n fun _ => Zone.ofWord c w

/-- A retire takes effect. -/
def State.applyRetire (s : State) (r : Nat) (c : CtxId) (n : Nat) : State :=
  if ((s.ring r).zone n).owner == some c then s.modRing r fun x => { x with zones := x.zones.del n } else s

/-- A release takes effect. -/
def State.applyRelease (s : State) (r : Nat) (c : CtxId) (n k : Nat) : State :=
  let z := (s.ring r).zone n
  if z.owner != some c || z.count ≤ k then s
  else
    match (z.slot k).state with
    | .free => s
    | .reserved => (s.modZone r n fun z => z.setSlot k (z.slot k).freed).zoneError r n
    | _ => s.modZone r n fun z => z.setSlot k (z.slot k).freed

/-! ## POOL_PART (R195) -/

/-- A write of POOL_PART, as it is judged in the commit cycle. -/
def State.writePoolPart (s : State) (r : Nat) (v : BitVec 16) : Except Cause State :=
  let x := s.ring r
  let out := (List.range 4).any fun h => match x.seqr.handles.get .free h with | .outstanding _ => true | _ => false
  let units := v.toNat % 256 + v.toNat / 256
  if 256 < units || out then .error 0x16
  else if (x.zoneRanges ++ x.bufferRanges ++ x.inputRanges).any fun p => scratchTop v < p.1 + p.2 then .error 0x16
  else .ok (s.modSeqr r fun q => { q with poolPart := v })

end Sys2Proof.Machine
end

