-- ==== Sys2Proof/Machine/LiveTable.lean ====
section
/-!
DEFINITION. Live-range tables (R144, R145): what a table's header and entries hold, and the check that a checkpoint or a
forced save makes.
-/

namespace Sys2Proof.Machine

/-- Bits `lo` to `lo + w - 1` of a number. -/
def bitsOf (n lo w : Nat) : Nat := n / 2 ^ lo % 2 ^ w

/-- A field of entry `n` that is zero and holds a nonzero bit; SAVE_BYTES is a field of entry 0 alone (R144). -/
def liveUnknown (e n : Nat) : Bool := bitsOf e 80 48 != 0 || bitsOf e 384 64 != 0 || (n != 0 && bitsOf e 448 64 != 0)

/-- The ranges in use of an entry. -/
def liveRanges (e : Nat) : List (Nat × Nat) :=
  (List.range (bitsOf e 72 8)).map fun j => (bitsOf e (192 + 32 * j) 16, bitsOf e (208 + 32 * j) 16)

/-- An entry whose ranges are too many, empty, or past the top of scratch. -/
def liveRangesBad (pp : BitVec 16) (e : Nat) : Bool :=
  6 < bitsOf e 72 8 || (liveRanges e).any fun p => p.2 == 0 || decide (scratchTop pp < 4096 * (p.1 + p.2))

/-- A header that fails its check where entry `n` is selected (R145). -/
def liveHeaderBad (h n : Nat) : Bool :=
  let count := bitsOf h 16 16
  bitsOf h 0 8 != 1 || bitsOf h 8 8 != 0 || count == 0 || bitsOf h 32 32 != 1 + 4 * count || decide (count ≤ n) || bitsOf h 64 16 != 0

/-- What a table gives for entry `n`. -/
def liveOf (h : Nat) (es : List Nat) (n : Nat) : Live :=
  let e := es.getD n 0
  { saveVa := BitVec.ofNat 64 (bitsOf h 64 64), saveBytes := bitsOf (es.getD 0 0) 448 64, xmask := BitVec.ofNat 64 (bitsOf e 0 64),
    vmask := BitVec.ofNat 8 (bitsOf e 64 8), kmask := BitVec.ofNat 64 (bitsOf e 128 64), ranges := liveRanges e }

/-- The little-endian number of `n` bytes. -/
def readNum (r : Nat) (c : CtxId) (va : Word) (n : Nat) : Load Nat := do
  let bs ← readBytes r c va n
  pure (natLE bs)

def failIf (b : Bool) (c : Cause) (va : Word) : Load Unit := if b then throw (c, va) else pure ()

/-- The table of a task, read whole and judged, with entry `n` selected (R145): the zero fields and the ranges of every entry count
(log 92). -/
def readLive (r : Nat) (t : Task) (n : Nat) : Load Live := do
  failIf (t.live = 0) 0x2F 0
  let h ← readNum r t.ctx t.live 16
  failIf (liveHeaderBad h n) 0x2F t.live
  let es ← (List.range (bitsOf h 16 16)).mapM fun k => readNum r t.ctx (t.live + 16 + BitVec.ofNat 64 (64 * k)) 64
  let s ← get
  failIf ((List.range es.length).any fun k => liveUnknown (es.getD k 0) k || liveRangesBad (s.ring r).seqr.poolPart (es.getD k 0)) 0x2F t.live
  pure (liveOf h es n)

end Sys2Proof.Machine
end

