-- ==== Sys2Proof/Machine/SaveRecord.lean ====
section
/-!
DEFINITION. The save record (R149): its sections and its length, and the check that SAVE_BYTES covers it (R145, R147).
-/

namespace Sys2Proof.Machine

/-! ## Record sections (R149) -/

/-- A section with its header, padded. -/
def saveSection (ty count : Nat) (d : List Byte) : List Byte :=
  bytesLE 4 ty ++ bytesLE 4 count ++ bytesLE 8 d.length ++ d ++ List.replicate ((64 - d.length % 64) % 64) 0

/-- The numbers below `n` whose bit of a mask is set. -/
def maskList (m n : Nat) : List Nat := (List.range n).filter fun i => m.testBit i

/-- A section of masked items; one whose mask is zero is not written. -/
def maskSection (ty m n : Nat) (item : Nat → List Byte) : List Byte :=
  if m = 0 then [] else saveSection ty (maskList m n).length (bytesLE 8 m ++ (maskList m n).flatMap item)

def VReg.saved (v : VReg) : List Byte := bytesLE 64 v.data.toNat ++ bytesLE 2 v.valid.toNat ++ List.replicate 14 0

def Knot.saved (k : Knot) : List Byte := bytesLE 8 k.word.toNat ++ bytesLE 4 k.target.toNat ++ List.replicate 4 0

/-- Forks of a ring that are stopped at a wave, with the count of stateful virtual stripes of each (R146). -/
def State.wavedForks (s : State) (r : Nat) : List (Fork × Nat) :=
  ((s.ring r).eng.forks.filter (·.waved.isSome)).map fun f =>
    (f, if f.fabric then ((s.fabricRings r).map fun k => match s.fabric k with | some g => g.stateful.length | none => 0).sum else 0)

/-- Zones that a context owns on a ring. -/
def Ring.owned (x : Ring) (c : CtxId) : Tab Zone := x.zones.filter fun e => e.2.owner == some c

/-- What a save takes: the masks of a selected entry, or everything. -/
def Live.whole (l : Live) : Live := { l with xmask := BitVec.allOnes 64, vmask := BitVec.allOnes 8, kmask := BitVec.allOnes 64, ranges := [(0, 4096)] }

/-- A pool range's section. -/
def State.rangeSection (s : State) (r : Nat) (p : Nat × Nat) : List Byte :=
  saveSection 4 1 (bytesLE 4 p.1 ++ bytesLE 4 p.2 ++ List.replicate 8 0 ++ s.mem.bytes (poolKey r (4096 * p.1)) (4096 * p.2))

def Seqr.stackSection (q : Seqr) : List Byte :=
  saveSection 5 q.stack.length (bytesLE 8 q.stack.length ++ q.stack.flatMap fun a => bytesLE 8 a.toNat)

/-- The sections of a save in ascending order. A forced save holds a pattern's snapshots in its section 4. -/
def State.saveSections (s : State) (r : Nat) (c : CtxId) (forced : Bool) (l0 : Live) : List Byte :=
  let x := s.ring r
  let q := x.seqr
  let l := if forced then l0.whole else l0
  let zones := (x.owned c).length
  maskSection 1 l.xmask.toNat 64 (fun i => bytesLE 8 (q.x.get 0 i).toNat) ++
    maskSection 2 l.vmask.toNat 8 (fun i => (q.v.get {} i).saved) ++
    maskSection 3 l.kmask.toNat 64 (fun i => (x.knots.get {} i).saved) ++
    l.ranges.flatMap (s.rangeSection r) ++
    (if l.xmask.getLsbD 62 then q.stackSection else []) ++
    ((s.wavedForks r).flatMap fun f =>
      saveSection 6 1 (s.freeBytes (min (Config.ownBytes 6) (4032 + if forced then 0 else 65536 * f.2)))) ++
    (if forced then saveSection 7 1 (s.freeBytes (min (Config.ownBytes 7) 0x80000)) else []) ++
    (if zones = 0 then [] else saveSection 8 zones (s.freeBytes (min (Config.ownBytes 8) (1024 * zones - 64))))

/-- The length that SAVE_BYTES must cover: a section 6 or 8 counts at its most (R149). -/
def State.saveLength (s : State) (r : Nat) (c : CtxId) (l : Live) : Nat :=
  let zones := ((s.ring r).owned c).length
  let plain := { s with rings := s.rings.put r { s.ring r with zones := [], eng := {} } }
  96 + (plain.saveSections r c false l).length + ((s.wavedForks r).map fun f => 4096 + 65536 * f.2).sum + 1024 * zones

/-- Whether SAVE_BYTES covers a save (R145, R147). -/
def State.saveFits (s : State) (r : Nat) (c : CtxId) (forced : Bool) (l : Live) : Bool :=
  if forced then 0x1100000 ≤ l.saveBytes else s.saveLength r c l ≤ l.saveBytes

end Sys2Proof.Machine
end

