-- ==== Sys2Proof/Machine/System.lean ====
section
/-!
DEFINITION. Group 0xE: SYSR, SYSW, GTIME, FEAT, PERF and TLBINV (R396 to R400), and what a system register reads and does.
-/

namespace Sys2Proof.Machine

/-! ## Access (R396) -/

/-- Access of a system register: read-only or read-write, and whether at supervisor level alone. -/
inductive RegAccess where
  | ro | rw | roSuper | rwSuper
  deriving DecidableEq, Repr

/-- The access of an index; none where it is reserved. -/
def sysAccess (i : Nat) : Option RegAccess :=
  if i = 0x008 then some .rw
  else if i ≤ 0x00E then some .ro
  else if 0x010 ≤ i ∧ i ≤ 0x01F then some .ro
  else if 0x020 ≤ i ∧ i ≤ 0x023 then some .roSuper
  else if i = 0x024 then some .rwSuper
  else if 0x030 ≤ i ∧ i ≤ 0x038 then some .rw
  else none

/-! ## Reading (R396, R142, R153, R159) -/

/-- A thermal allowance of a ring (R65). -/
def State.thermAllow (s : State) (r : Nat) : BitVec 8 := (s.die (ringDie r)).allow.get 0 (r % 4)

/-- PREEMPT_REQ (R142). -/
def State.preemptReq (s : State) (r : Nat) : Word :=
  let l := (s.ring r).slice
  if l.req then BitVec.ofNat 64 (2 ^ 32 * (s.remain r % 2 ^ 25) + 1) else 0

/-- CTX_STATUS (R153). -/
def State.ctxStatus (s : State) (r : Nat) (c : CtxId) : Word :=
  let x := s.ring r
  ((x.srCycles.get 0 c.val).setWidth 64 <<< 32) ||| (BitVec.ofBool x.forcedLast).setWidth 64 <<< 1 |||
    (BitVec.ofBool x.slice.raised).setWidth 64

def Perf.ctl (p : Perf) : Word := (BitVec.ofBool p.step).setWidth 64 <<< 2 ||| (BitVec.ofBool p.enable).setWidth 64

def Perf.sel (p : Perf) (n : Nat) : Word := (p.waddr.get 0 n).setWidth 64 <<< 8 ||| (p.event.get 0 n).setWidth 64

/-- The value of a system register for the task of a ring; a reserved index reads zero. -/
def State.sysRead (s : State) (r : Nat) (t : Task) (i : Nat) : Word :=
  let x := s.ring r
  let q := x.seqr
  let f := (s.ctx t.ctx).fault.get {} r
  match i with
  | 0x000 => BitVec.ofNat 64 t.ctx.val
  | 0x001 => (BitVec.ofBool q.priv).setWidth 64
  | 0x002 => BitVec.ofNat 64 (r + 2 ^ 16 * Config.chip.toNat)
  | 0x003 => (s.ctx t.ctx).touched.setWidth 64
  | 0x004 => t.tile.setWidth 64
  | 0x005 => t.count.setWidth 64
  | 0x006 => t.arg
  | 0x007 => x.stripes.setWidth 64
  | 0x008 => q.poolPart.setWidth 64
  | 0x009 => s.preemptReq r
  | 0x00A => BitVec.ofNat 64 (2 ^ (t.yclass + 8))
  | 0x00B => (s.thermAllow r).setWidth 64
  | 0x00C => s.dev.window.setWidth 64
  | 0x00D => (BitVec.ofBool s.dev.flush).setWidth 64
  | 0x00E => s.ctxStatus r t.ctx
  | 0x020 => f.cause
  | 0x021 => f.block
  | 0x022 => f.va
  | 0x023 => f.engine
  | 0x024 => x.errInject
  | 0x030 => q.perf.ctl
  | _ =>
    if 0x010 ≤ i ∧ i < 0x018 then (q.issued.get 0 (i - 0x010)).setWidth 64
    else if 0x018 ≤ i ∧ i < 0x020 then (q.done.get 0 (i - 0x018)).setWidth 64
    else if 0x031 ≤ i ∧ i < 0x039 then q.perf.sel (i - 0x031)
    else 0

/-- SYSR (R397). -/
def execSysr (pd : Pred) (index : BitVec 13) (t0 : Target) (s : State) : Out :=
  fireValue (.sysr pd index t0) s fun _ =>
    match sysAccess index.toNat, s.super with
    | some .roSuper, false => .error 0x08
    | some .rwSuper, false => .error 0x08
    | _, _ =>
      match (s.ring s.focus.ring).cur with
      | some t => .ok (.sc (s.sysRead s.focus.ring t index.toNat))
      | none => .ok (.sc 0)

/-! ## Writing (R172, R195, R396 to R398) -/

/-- Largest unit of an injection target (R172); none for a reserved target. -/
def injUnits : Nat → Option Nat
  | 0 => some 15
  | 1 => some 7
  | 2 => some 511
  | 3 => some 511
  | 4 => some 15
  | _ => none

/-- Whether a word has a value that its register's rule refuses as SYSW fires. -/
def sysBad (i : Nat) (v : Word) : Bool :=
  if i = 0x008 then 2 ^ 16 ≤ v.toNat
  else if i = 0x024 then
    v.extractLsb' 60 2 != 0 || v.extractLsb' 9 23 != 0 ||
      (match injUnits (v.extractLsb' 57 3).toNat with | some n => n < (v.extractLsb' 48 9).toNat | none => true)
  else if i = 0x030 then 8 ≤ v.toNat
  else v.extractLsb' 59 5 != 0 || (0x0D < v.toNat % 256 && v.toNat % 256 != 0xFF)

/-- SYSW: access and reserved fields as it fires, the write at commit (R397). -/
def execSysw (pd : Pred) (index : BitVec 13) (s : State) : Out :=
  itemWord (.sysw pd index) s fun l =>
    let v := BitVec.ofNat 64 (opn l 0)
    match sysAccess index.toNat with
    | none => .error 0x02
    | some .ro => .error 0x08
    | some .roSuper => .error 0x08
    | some .rwSuper => if !s.super then .error 0x08 else if sysBad index.toNat v then .error 0x02 else .ok (.sysw index v)
    | some .rw => if sysBad index.toNat v then .error 0x02 else .ok (.sysw index v)

/-! ## The rest (R399, R400) -/

/-- GTIME. -/
def execGtime (pd : Pred) (t0 : Target) (s : State) : Out :=
  fireValue (.gtime pd t0) s fun _ => .ok (.sc s.gt)

/-- DEV_ID (R73). -/
def devId : Word :=
  0x1E4B4B0400000000 ||| (if Config.formA then 2 else 1) <<< 28 ||| 2 <<< 25 ||| Config.stepping.setWidth 64 <<< 8

/-- FEAT (R399). -/
def execFeat (pd : Pred) (sel : FeatSel) (t0 : Target) (s : State) : Out :=
  fireValue (.feat pd sel t0) s fun _ =>
    .ok (.sc (match sel with
      | .version => 2
      | .devId => devId
      | .chip => Config.chip.setWidth 64
      | .live => s.dev.live.setWidth 64))

/-- PERF (R399). -/
def execPerf (pd : Pred) (n : BitVec 3) (t0 : Target) (s : State) : Out :=
  fireValue (.perf pd n t0) s fun _ => .ok (.sc ((s.ring s.focus.ring).seqr.perf.count.get 0 n.toNat))

/-- TLBINV: its operands are judged in the order of the description, the reserved bits of R before the level (R378, R400). -/
def execTlbinv (pd : Pred) (sn : Strand) (m : SMask) (s : State) : Out :=
  itemWord (.tlbinv pd sn m) s fun l =>
    if 4 ≤ opn l 1 then .error 0x02
    else if !s.super then .error 0x08
    else .ok (.tlbinv (BitVec.ofNat 64 (opn l 0)) (BitVec.ofNat 2 (opn l 1)))

end Sys2Proof.Machine
end

