-- ==== Sys2Proof/Machine/Commit.lean ====
section
/-!
DEFINITION. The commit of an atomic block (R300, R378, R379, R393), the landing of deferred values, and the end of a task.
-/

namespace Sys2Proof.Machine

/-! ## PREF (R98, R390) -/

/-- Sectors that a prefetch reads into the block cache; a poisoned one is dropped (R164). -/
def State.cacheSectors (s : State) (r : Nat) (c : CtxId) : Nat → Nat → Nat → State
  | 0, _, _ => s
  | n + 1, va, key =>
    let line : CodeLine := { ctx := c, sector := va / 64, data := BitVec.ofNat 512 (s.load key 64) }
    State.cacheSectors
      (if s.poisoned key 64 then s else s.modRing r fun x => { x with code := line :: x.code.filter fun l => !(l.ctx == c && l.sector == va / 64) })
      r c n (va + 64) (key + 64)

/-- A prefetch of a translation: the ring's cache gets it from the die's, or from a walk, which touches the dies of its nodes; it needs no
permission, and touches no page (R98, R109). -/
def State.prefTrans (s : State) (r : Nat) (c : CtxId) (va : Word) : State × Bool :=
  if 2 ^ 57 ≤ va.toNat then (s, false)
  else
    let s1 := s.fromDie r c va
    match s1.cached r c va with
    | some _ => (s1, true)
    | none =>
      let w := s1.walk (ringDie r) c va
      let s2 := s1.touchAll c w.homes
      match w.res with
      | .error _ => (s2, false)
      | .ok t => (s2.install r t w.nodes, true)

/-- PREF over `n` sectors from `va`, by pieces of 4 KiB, each of which lies on one die (R31): it ends silently at the first page that lacks
what it needs, and at the end of space g (log 81). -/
def State.prefetch (s : State) (r : Nat) (c : CtxId) (trans : Bool) : Nat → Nat → Nat → State
  | 0, _, _ => s
  | _, _, 0 => s
  | fuel + 1, va, n =>
    let k := min n (64 - va / 64 % 64)
    if trans then
      match s.prefTrans r c (BitVec.ofNat 64 va) with
      | (s1, false) => s1
      | (s1, true) => State.prefetch s1 r c trans fuel (va + 64 * k) (n - k)
    else
      match s.translate r c (BitVec.ofNat 64 va) .exec with
      | (s1, .error _) => s1
      | (s1, .ok (key, _)) =>
        if s1.heldKey key then s1 else State.prefetch (s1.cacheSectors r c k va key) r c trans fuel (va + 64 * k) (n - k)

/-- PREF as it issues. -/
def State.pref (s : State) (r : Nat) (c : CtxId) (va : Word) (len : Nat) (trans : Bool) : State :=
  let first := va.toNat / 64
  let n := if len = 0 then 0 else (va.toNat + len - 1) / 64 - first + 1
  s.prefetch r c trans (n / 64 + 2) (64 * first) n

/-! ## The commit cycle (R378) -/

/-- What the commit pass carries: `j`, the state with every lower-indexed item in effect, by which items are judged; `s`, the
state that the commit leaves; results available at commit; the first cause found; the first word that waits on a knot with ERROR and traps for it;
whether a KWAIT is not satisfied. -/
structure Cmt where
  j : State
  s : State
  vals : List (Nat × Word) := []
  trap : Option (Cause × Nat) := none
  error : Option Nat := none
  held : Bool := false

def Cmt.fail (m : Cmt) (c : Cause) (k : Nat) : Cmt := { m with trap := some (m.trap.getD (c, k)) }

/-- A commit item issues (R240, R243). -/
def State.issueItem (s : State) (r : Nat) (c : CtxId) (id : Nat) (it : Item) : State :=
  match it.strand with
  | none => s
  | some (sn, m) =>
    let now := s.counted r
    ((s.modSeqr r fun q =>
      { q.issue c id sn m true true it.work (it.ret.map (·.2)) now s.dev.flush with issued := count16 q.issued sn }).modOp r id fun o =>
        { o with issuedAt := s.gt.toNat }).event r 0x04

/-- A commit item that performs as it issues counts in both counters of its strand (R243). -/
def State.issueDone (s : State) (r : Nat) (it : Item) : State :=
  match it.strand with
  | none => s
  | some (sn, _) =>
    (s.modSeqr r fun q => { q with issued := count16 q.issued sn, done := count16 q.done sn }).event r 0x04

/-- A knot after KINIT (R220). -/
def Knot.init (value target : Word) : Knot :=
  { count := value.setWidth 32, phase := value.getLsbD 32, mode := value.getLsbD 34, target := target.setWidth 32 }

/-- Whether an operation of the same knot is one that a KWAIT or KTRY above it counts as applied (R393). -/
def Work.feeds (w : Work) (k : BitVec 6) : Bool :=
  match w with
  | .kinit n _ _ => n == k
  | .kadd n _ => n == k
  | _ => false

/-- Whether a knot satisfies an acquire or phase wait (R220, R222). -/
def Knot.satisfies (k : Knot) (operand : Word) : Bool :=
  if k.mode then k.phase == operand.getLsbD 0 else operand.toNat ≤ k.count.toNat

/-- The amount that a satisfied acquire takes: none of a byte-barrier knot. -/
def Knot.amount (k : Knot) (operand : Word) : W32 := if k.mode then 0 else operand.setWidth 32

/-- A knot word of the block that has an empty snapshot, and in flush mode no marker round to make, performs at commit (R247, R393); else it
issues. -/
def State.knotItem (s : State) (r : Nat) (c : CtxId) (id : Nat) (it : Item) (effect : State → State) : State :=
  match it.strand with
  | some (sn, m) =>
    if (s.ring r).seqr.snapshot sn m true = [] && !(s.dev.flush && m != 0) then effect (s.issueDone r it) else s.issueItem r c id it
  | none => s

/-- A satisfied KWAIT or KTRY takes its amount now, or when the knot words below it have taken effect (R393). -/
def State.acquire (s : State) (r base : Nat) (k : BitVec 6) (a : W32) : State :=
  let below := ((s.ring r).seqr.ops.filter fun o => base ≤ o.id && o.work.feeds k).map (·.id)
  if a = 0 then s
  else if below = [] then s.modKnot r k.toNat (·.take a)
  else s.modSeqr r fun q => { q with owed := q.owed ++ [{ awaits := below, knot := k, amount := a }] }

/-- KWAIT and KTRY in the commit cycle (R222, R223, R393). -/
def Cmt.wait (m : Cmt) (r : Nat) (c : CtxId) (base id : Nat) (it : Item) (k : BitVec 6) (trapErr try' : Bool) (operand : Word) : Cmt :=
  let kn := (m.j.ring r).knots.get {} k.toNat
  if trapErr && kn.error then { m.fail 0x27 it.idx with error := some (m.error.getD it.idx) }
  else if kn.mode && 2 ≤ operand.toNat then m.fail 0x02 it.idx
  else
    let sat := kn.satisfies operand
    if !sat && !try' then { m with held := true }
    else
      let a := if sat then kn.amount operand else 0
      let v := kn.word ||| (if try' && sat then 1 <<< 63 else 0)
      { m with j := m.j.modKnot r k.toNat (·.take a)
               s := (m.s.knotItem r c id it id').acquire r base k a
               vals := m.vals ++ [(id, v)] }
where
  /-- These words change nothing when they perform. -/
  id' : State → State := fun s => s

/-- The result of a zone word, judged and not yet in effect (R378, R394). -/
def Cmt.zone (m : Cmt) (r : Nat) (c : CtxId) (id : Nat) (it : Item) (e : Except Cause State) : Cmt :=
  match e with
  | .error x => m.fail x it.idx
  | .ok j => { m with j := j, s := m.s.issueItem r c id it }

/-- A SYSW takes effect (R397, R398, R172). -/
def State.sysWrite (s : State) (r : Nat) (index : Nat) (v : Word) : State :=
  if index = 0x008 then s.modSeqr r fun q => { q with poolPart := v.setWidth 16 }
  else if index = 0x024 then s.modRing r fun x => { x with errInject := v &&& ~~~(1#64 <<< 62), injectCount := 0 }
  else
    s.modSeqr r fun q =>
      let p := q.perf
      if index = 0x030 then
        { q with perf := { p with step := v.getLsbD 2, enable := v.getLsbD 0, count := if v.getLsbD 1 then [] else p.count } }
      else
        { q with perf := { p with event := p.event.put (index - 0x031) (v.setWidth 8),
                                  waddr := p.waddr.put (index - 0x031) (v.extractLsb' 8 51) } }

/-- A register takes a value; a deferred value that it waited for is discarded when it arrives (R379, R381). -/
def Seqr.write (q : Seqr) (reg : BitVec 6) (v : Val) : Seqr :=
  match v with
  | .sc x => { q with x := q.x.put reg.toNat x, pending := q.pending.del reg.toNat, landing := q.landing.del reg.toNat }
  | .tok t => { q with v := q.v.put reg.toNat { data := t.data, valid := t.valid, side := t.side } }

/-- One commit item, in index order (R378). -/
def Cmt.item (m : Cmt) (r : Nat) (c : CtxId) (base id : Nat) (it : Item) : Cmt :=
  let both (f : State → State) : Cmt := { m with j := f m.j, s := f m.s }
  match it.work with
  | .write reg v => both fun s => s.modSeqr r fun q => q.write reg v
  | .sysw index v =>
    if index = 0x008 then
      match m.j.writePoolPart r (v.setWidth 16) with
      | .error x => m.fail x it.idx
      | .ok _ => both fun s => s.sysWrite r 0x008 v
    else both fun s => s.sysWrite r index.toNat v
  | .eret => both fun s => s.modSeqr r fun q => { q with priv := false }
  | .yield n => if (m.s.ring r).slice.req then both fun s => s.modSeqr r fun q => { q with yielded := some n } else m
  | .pref va len only => { m with s := (m.s.pref r c va len only).issueDone r it }
  | .fork h _ =>
    match (m.j.ring r).seqr.handles.get .free h.toNat with
    | .free =>
      let hold (s : State) : State := s.modSeqr r fun q => { q with handles := q.handles.put h.toNat (.outstanding id) }
      { m with j := hold m.j, s := (hold m.s).issueItem r c id it }
    | _ => m.fail 0x02 it.idx
  | .kinit k value target =>
    let f (s : State) : State := s.modKnot r k.toNat fun _ => .init value target
    { m with j := f m.j, s := m.s.knotItem r c id it f }
  | .kadd k n =>
    match ((m.j.ring r).knots.get {} k.toNat).add n.toNat with
    | none => m.fail 0x28 it.idx
    | some x =>
      { m with j := m.j.modKnot r k.toNat fun _ => x
               s := m.s.knotItem r c id it fun s => s.knotAdd r k.toNat n.toNat false .sequencer (s.blockVa r) }
  | .kwait k e operand => m.wait r c base id it k e false operand
  | .ktry k e operand => m.wait r c base id it k e true operand
  | .declare w => m.zone r c id it (m.j.declareZone r c w)
  | .retire zone => m.zone r c id it (m.j.retireZone r c zone.toNat)
  | .release zone slot full => m.zone r c id it (m.j.releaseSlot r c zone.toNat slot.toNat full)
  | _ => { m with s := m.s.issueItem r c id it }

/-- A deferred WRITE marks its register pending (R379). -/
def Cmt.mark (m : Cmt) (r : Nat) (reg : BitVec 6) (id : Nat) : Cmt :=
  { m with s := m.s.modSeqr r fun q =>
      { q with pending := q.pending.put reg.toNat id, landing := q.landing.del reg.toNat } }

/-- The identifiers of a commit: the item at position `n` of the index order takes `base + n`. -/
def Blk.sorted (b : Blk) : List Item :=
  (List.range b.words.length).filterMap fun k => b.items.find? fun it => it.idx == k

/-- Everything at one index of the block: its item, or the mark of a deferred WRITE there. -/
def Cmt.index (r : Nat) (c : CtxId) (base : Nat) (items : List Item) (m : Cmt) (k : Nat) : Cmt :=
  let m1 :=
    match items.findIdx? fun it => it.idx == k with
    | some n => match items[n]? with | some it => m.item r c base (base + n) it | none => m
    | none => m
  match items.findIdx? fun it => match it.ret with | some (w, _) => w == k | none => false with
  | some n => match (items[n]?).bind (·.ret) with | some (_, reg) => m1.mark r reg (base + n) | none => m1
  | none => m1

/-! ## When a block may commit (R300, R242, R393) -/

/-- Whether a knot word still waits for an operation issued before the commit. -/
def Seqr.knotHeld (q : Seqr) (b : Blk) : Bool :=
  b.items.any fun it =>
    match it.work, it.strand with
    | .kinit .., some (sn, m) => !(q.snapshot sn m true).isEmpty
    | .kadd .., some (sn, m) => !(q.snapshot sn m true).isEmpty
    | .kwait .., some (sn, m) => !(q.snapshot sn m true).isEmpty
    | .ktry .., some (sn, m) => !(q.snapshot sn m true).isEmpty
    | _, _ => false

/-- Whether the block's knot words have their turn at their knots in this cycle (R221, R237). -/
def State.knotTurns (s : State) (r : Nat) (b : Blk) : Bool :=
  b.items.all fun it =>
    match it.work with
    | .kinit k .. => s.addTurn r k.toNat 0
    | .kadd k _ => s.addTurn r k.toNat 0
    | _ => true

/-- Whether an item stays outstanding on a strand after its commit: a PREF performs as it issues (R242, R390). -/
def Item.takesPlace (it : Item) (n : Nat) : Bool :=
  match it.strand, it.work with
  | _, .pref .. => false
  | some (sn, _), _ => sn.toNat == n
  | none, _ => false

/-- Whether every strand has room for the block's commit items (R242). -/
def Seqr.roomFor (q : Seqr) (b : Blk) : Bool :=
  (List.range 8).all fun n =>
    let mine := (b.items.filter (·.takesPlace n)).length
    mine == 0 || q.onStrand (BitVec.ofNat 3 n) + mine ≤ 255

/-- Every item of the block judged and applied. -/
def State.commitPass (s : State) (r : Nat) (c : CtxId) (b : Blk) : Cmt :=
  let free (s : State) : State :=
    s.modSeqr r fun q => { q with handles := b.freed.foldl (fun t h => t.put h.toNat .free) q.handles }
  let s0 := free s
  (List.range b.words.length).foldl (Cmt.index r c (s.ring r).seqr.nextOp b.sorted) { j := s0, s := s0 }

/-- Whether a block that could otherwise commit is held by a KWAIT (R222, R398 event 0x07). -/
def State.kwaitHolds (s : State) (r : Nat) : Bool :=
  match s.running r, (s.ring r).seqr.blk with
  | some t, some b =>
    b.exit.isSome && b.items.any (fun it => match it.work with | .kwait .. => true | _ => false) &&
      (s.ring r).seqr.allSettled b && (s.commitPass r t.ctx b).held
  | _, _ => false

/-! ## The end of a task (R124, R125, R380) -/

/-- The identity of a consumed record within its context. -/
def PendRec.key (p : PendRec) : Nat := p.queue.val + 4 * p.index.toNat

def State.modRec (s : State) (c : CtxId) (key : Nat) (f : PendRec → PendRec) : State :=
  s.modCtx c fun x => { x with table := x.table.map fun p => if p.key == key then f p else p }

/-- Rings that a task holds: its lead ring, and those of its span after it (R137). -/
def Task.rings (t : Task) : List Nat := (List.range (t.span + 1)).map (t.lead.val + ·)

/-- A task has committed DONE: its rings are free, its operations go on performing, and its record knows what to wait for. -/
def State.endTask (s : State) (r : Nat) (t : Task) : State :=
  let left := (s.ring r).seqr.ops.map fun o => (r, o.id)
  let s1 := t.rings.foldl (fun s k => s.modRing k fun x =>
    { x with cur := none, slice := {}, forcedLast := false
             seqr := { x.seqr with blk := none, pc := 0, yielded := none, live := none, stepDue := false, ending := false, pending := [], landing := []
                                   ops := x.seqr.ops.map fun o => { o with old := true } } }) s
  s1.modRec t.ctx t.record fun p => { p with done := t.tile.toNat :: p.done, left := p.left ++ left }

/-- A DONE that has waited for the fork of its own block ends the task (log 70). -/
def State.endWaiting (s : State) (r : Nat) : State :=
  match (s.ring r).cur with
  | some t => if (s.ring r).seqr.ending && !(s.ring r).seqr.forksOut then s.endTask r t else s
  | none => s

/-! ## BLOCK_COMMIT and DEFERRED_VALUE_LAND -/

/-- Results available at commit reach their registers (R379). -/
def Seqr.land (q : Seqr) (id : Nat) (v : Word) : Seqr :=
  let regs := (q.pending.filter fun e => e.2 == id).map (·.1)
  { q with x := regs.foldl (fun t k => t.put k v) q.x, pending := q.pending.filter fun e => e.2 != id }

/-- A checkpoint is reached: its table is read, judged and kept for the save (R145, log 92). -/
def State.checkpoint (s : State) (r : Nat) (t : Task) : State :=
  match (s.ring r).seqr.yielded with
  | none => s
  | some n =>
    match (readLive r t n.toNat).go s with
    | (.error (c, va), s1) => s1.trapSeq r c va
    | (.ok l, s1) => if s1.saveFits r t.ctx false l then s1.modSeqr r fun q => { q with live := some l } else s1.trapSeq r 0x2F t.live

/-- The exit takes effect, after every WRITE (R380); STEP then traps, or waits for the restore of a yield save (R398, R401). A DONE
beside a FORK of its own block ends the task when the fork is complete (log 70). -/
def State.leaveBlock (s : State) (r : Nat) (t : Task) (e : Exit) : State :=
  let go (a : Word) (f : Seqr → Seqr) : State :=
    let s1 := s.modSeqr r fun q => { f q with blk := none, pc := a }
    let q := (s1.ring r).seqr
    if q.yielded.isSome then (s1.modSeqr r fun q => { q with stepDue := q.perf.step }).checkpoint r t
    else if !q.perf.step then s1
    else s1.trapSeq r 0x3A 0
  match e with
  | .to a => go a id
  | .call a ret => go a fun q => { q.write 62 (.sc ret) with stack := q.stack ++ [ret] }
  | .ret a => go a fun q => { q with stack := q.stack.dropLast }
  | .done => if (s.ring r).seqr.forksOut then s.modSeqr r fun q => { q with blk := none, ending := true } else s.endTask r t

/-- Whether a KWAIT of a block traps on ERROR: it is judged through the whole cycle in which it is satisfied (R237). -/
def Blk.trapsOnError (b : Blk) : Bool := b.items.any fun it => match it.work with | .kwait _ e _ => e | _ => false

/-- BLOCK_COMMIT (R300): a block with every instruction settled commits, waits, or traps, by the first word that
takes a cause (R378). -/
def execBlockCommit (r : RingId) (s : State) : Out :=
  let q := (s.ring r).seqr
  match s.running r, q.blk with
  | some t, some b =>
    if !q.allSettled b || q.ops.any (fun o => !o.committed) then .next s
    else
      match b.exit with
      | none => .next (s.trapSeq r 0x04 b.addr)
      | some e =>
        if q.knotHeld b || !s.knotTurns r b || !q.roomFor b then .next s
        else
          let m := s.commitPass r t.ctx b
          match m.held, m.error, m.trap with
          | true, some k, _ => .next (s.trapSeq r 0x27 (s.wordVa r k))
          | true, none, _ => .next (s.setBlk r { b with due := none })
          | false, _, some (c, k) => .next (s.trapSeq r c (s.wordVa r k))
          | false, _, none =>
            if b.trapsOnError && !b.due.any (· < s.cycle r) then .next (s.setBlk r { b with due := some (b.due.getD (s.cycle r)) })
            else
            let s1 := m.s.modSeqr r fun q =>
              let q := m.vals.foldl (fun q p => q.land p.1 p.2) q
              { q with nextOp := max q.nextOp ((s.ring r).seqr.nextOp + b.items.length)
                       issued := b.vops.foldl count16 q.issued
                       done := b.vops.foldl count16 q.done }
            .next ((s1.event r 0x02).leaveBlock r t e)
  | _, _ => .next s

/-- DEFERRED_VALUE_LAND (R379): a register that still waits takes its available value. -/
def execDeferredValueLand (r : RingId) (reg : BitVec 6) (s : State) : Out :=
  match (s.ring r).seqr.landing.look reg.toNat with
  | some v =>
    .next (s.modSeqr r fun q =>
      { q with x := q.x.put reg.toNat v, pending := q.pending.del reg.toNat, landing := q.landing.del reg.toNat })
  | none => .next s

end Sys2Proof.Machine
end

