-- ==== Sys2Proof/Machine/Blocks.lean ====
section
/-!
DEFINITION. The static checks of a block (R285, R286, R294 to R296, R244) and BLOCK_FETCH.
-/

namespace Sys2Proof.Machine

/-! ## Headers (R285, R286) -/

/-- A literal pool header: KIND 10 and COUNT, every other bit zero. -/
def poolHeaderOk (h : W32) : Bool := h.extractLsb' 30 2 == 2#2 && h.extractLsb' 0 23 == 0

/-- Words that follow a header. -/
def headerCount (h : W32) : Nat := (h.extractLsb' 23 7).toNat + 1

/-- WRITE, store and atomic words, which an atomic block's ITEMS counts (R285). -/
def countsAsItem (w : W32) : Bool :=
  let op := (w.extractLsb' 24 8).toNat
  op == 0xA5 || (0xB6 ≤ op && op ≤ 0xBA) || (0xC0 ≤ op && op ≤ 0xCB)

/-- A block header: its fields, then FEATURE (R285, R94). `items` is the count that ITEMS must equal; `next` is the word
after the block, where POOL is set. -/
def headerCause (k : BlockKind) (h : W32) (items : Nat) (next : Option W32) : Option Cause :=
  let kind : BitVec 2 := match k with | .streaming => 0 | .atomic => 1
  let bad :=
    h.extractLsb' 30 2 != kind || h.extractLsb' 8 4 != 0 || h.extractLsb' 0 7 != 0 ||
      (k == .atomic && h.extractLsb' 12 2 != 0) || (h.extractLsb' 14 6).toNat != items ||
      (h.getLsbD 7 && match next with | some p => !poolHeaderOk p | none => true)
  if bad then some 0x03 else if 2 < (h.extractLsb' 20 3).toNat then some 0x07 else none

/-! ## Words (R292 to R296) -/

/-- The domain of an assigned opcode (R293). -/
def opDomain (op : Nat) : Domain :=
  if 0xA0 ≤ op ∨ (0x1D ≤ op ∧ op ≤ 0x1F) then .s
  else if op = 0x65 ∨ (0x70 ≤ op ∧ op ≤ 0x7C) ∨ 0x80 ≤ op then .c
  else .cs

/-- A word that is well formed and has the opcode of `w`, with as much of its bits [23:18] as are defined there: pd and md of the formats that
have them, or of md the bit alone by which CVT reads T (R293). It tells which slots `w` reads where another of its fields is reserved (R295). -/
def likeWord (w : W32) : Option Instr :=
  let op := w &&& 0xFF000000
  ([w &&& 0x00FC0000, w &&& 0x00E00000, w &&& 0x00C00000, 0].flatMap fun keep => [op ||| keep, op ||| keep ||| 0x1FF, op ||| keep ||| 0x3FFFF]).findSome? fun x =>
    match decodeWord x with
    | .ok i => some i
    | .error _ => none

/-- Whether an instruction reads a slot: as an operand, or P as its predicate (R293, R295). -/
def readsSlot (i : Instr) (q : Slot) : Bool := i.reads.contains q || (q == .p && i.pd != .always)

/-- Whether a word reads a slot, whatever its other fields hold. -/
def wordReads (w : W32) (q : Slot) : Bool :=
  match decodeWord w with
  | .ok i => readsSlot i q
  | .error _ => match likeWord w with | some i => readsSlot i q | none => false

/-- A target of a word of a block (R295). -/
def targetOk (ws : List W32) : Target → Bool
  | .null => true
  | .to q x => match ws[x.toNat]? with | some w => wordReads w q | none => false

/-- Words whose value is delivered through a deferred WRITE (R379). -/
def isDeferred : Instr → Bool
  | .aadd .. | .amin .. | .amax .. | .aminu .. | .amaxu .. | .aand .. | .aor .. | .axor .. | .axchg .. | .acas ..
  | .afadd .. | .afmax .. | .kwait .. | .ktry .. | .lzresv .. | .enq .. | .ingr .. => true
  | _ => false

/-- A deferred word's target is null or slot L of a WRITE (R379). -/
def deferredOk (ws : List W32) (i : Instr) : Bool :=
  !isDeferred i ||
    i.outs.all fun t =>
      match t with
      | .null => true
      | .to .l x => match wordAt ws x.toNat with | some (.write _) => true | _ => false
      | _ => false

/-- Checks 2 to 6 of R294 for one word. -/
def wordCause (k : BlockKind) (ws : List W32) (poolLen : Nat) (w : W32) : Option Cause :=
  match decodeWord w with
  | .error .illegalOpcode => some 0x01
  | .error e =>
    if !(opDomain (w.toNat / 2 ^ 24)).allows k then some 0x01
    else match e with | .badTarget => some 0x05 | _ => some 0x02
  | .ok i =>
    if !(match i.domain with | some d => d.allows k | none => false) then some 0x01
    else if !i.widthOk k then some 0x02
    else if !i.outs.all (targetOk ws) || !deferredOk ws i then some 0x05
    else match i with | .lit x _ => if poolLen ≤ x.toNat then some 0x06 else none | _ => none

/-- The first word of a block that fails, with its cause. -/
def wordsCause (k : BlockKind) (ws : List W32) (poolLen : Nat) : Option (Cause × Nat) :=
  (List.range ws.length).findSome? fun n => (ws[n]?).bind fun w => (wordCause k ws poolLen w).map fun c => (c, n)

/-- Whether a value-returning word's snapshot would hold a commit item below it (R244). -/
def strandCause (ws : List W32) : Bool :=
  (List.range ws.length).any fun n =>
    match (wordAt ws n).bind Instr.vop with
    | none => false
    | some (sn, m, ex) =>
      (List.range n).any fun j =>
        match wordAt ws j with
        | some (.pref ..) => false
        | some y => match y.commitStrand with | some (ys, _) => holds sn m ex ys true | none => false
        | none => false

/-! ## BLOCK_FETCH -/

/-- The words of a list of bytes, lowest address first (R9). -/
def wordsOf : List Byte → List W32
  | b0 :: b1 :: b2 :: b3 :: t => (b3 ++ b2 ++ b1 ++ b0) :: wordsOf t
  | _ => []

/-- A sector of code at its place in memory, cached, or 0x0E (R96, R164); a stack that takes no reads holds it back (R416). -/
def codeFill (r : Nat) (c : CtxId) (va key : Nat) : Load (BitVec 512) := fun s =>
  if s.heldKey key then (.error (heldRead, BitVec.ofNat 64 va), s)
  else if s.poisoned key 64 then (.error (0x0E, BitVec.ofNat 64 va), s)
  else
    let d : BitVec 512 := BitVec.ofNat 512 (s.load key 64)
    (.ok d, (s.modRing r fun x => { x with code := { ctx := c, sector := va / 64, data := d } :: x.code }).event r 0x05)

/-- One 64-byte sector of code: through the block cache (R96 to R98), after the translation that R95 asks of every fetch. -/
def codeSector (r : Nat) (c : CtxId) (va : Nat) : Load (BitVec 512) := fun s =>
  match s.translate r c (BitVec.ofNat 64 va) .exec with
  | (s1, .error e) => (.error (e, BitVec.ofNat 64 va), s1)
  | (s1, .ok (key, _)) =>
    match (s1.ring r).code.find? fun l => l.ctx == c && l.sector == va / 64 with
    | some l => (.ok l.data, s1)
    | none => (codeFill r c va key).go s1

/-- `n` words of code from `va`; a fault names the first word that the failing page holds. -/
def codeWords (r : Nat) (c : CtxId) : Nat → Nat → Nat → Load (List W32)
  | 0, _, _ => pure []
  | _, _, 0 => pure []
  | fuel + 1, va, n => do
    let d ← tryCatch (codeSector r c (va / 64 * 64)) fun e => throw (e.1, BitVec.ofNat 64 va)
    let k := min n (16 - va % 64 / 4)
    let ws ← codeWords r c fuel (va + 4 * k) (n - k)
    pure (((List.range k).map fun i => d.extractLsb' (8 * (va % 64) + 32 * i) 32) ++ ws)

/-- CARRY's preloaded predicate at each execution of a block (R310). -/
def initNodes (ws : List W32) : Tab Node :=
  (List.range ws.length).foldl (fun t k => match wordAt ws k with | some (.carry ..) => t.put k { pre := true } | _ => t) []

/-- A block fetched and checked. An address that is not a multiple of 4 is misaligned (R287). -/
def fetchBlock (r : Nat) (c : CtxId) (a : Word) : Load Blk := do
  let va := a.toNat
  failIf (va % 4 != 0) 0x0C a
  let hs ← codeWords r c 1 va 1
  let h := hs.headD 0
  let n := headerCount h
  failIf (headerCause .atomic h (h.extractLsb' 14 6).toNat (some 0x80000000) == some 0x03) 0x03 a
  let ws ← codeWords r c 10 (va + 4) n
  let next ← if h.getLsbD 7 then codeWords r c 1 (va + 4 + 4 * n) 1 else pure []
  match headerCause .atomic h (ws.filter countsAsItem).length next.head? with
  | some e => throw (e, a)
  | none => pure ()
  let pool ← match next with | p :: _ => codeWords r c 10 (va + 8 + 4 * n) (headerCount p) | [] => pure []
  match wordsCause .atomic ws pool.length with
  | some (e, k) => throw (e, a + BitVec.ofNat 64 (4 + 4 * k))
  | none => pure ()
  failIf (strandCause ws) 0x10 a
  let s ← get
  pure { addr := a, words := ws, pool := pool, nodes := initNodes ws, since := s.cycle r + 1 }

/-- The fetch of RESUME ends the measurement of a save and its restore (R153). -/
def State.fetchResume (s : State) (r : Nat) (c : CtxId) : State :=
  let x := s.ring r
  match x.restored with
  | none => s
  | some (c0, took) =>
    let m := took + (s.cycle r - c0)
    s.setRing r { x with restored := none, srCycles := x.srCycles.put c.val (BitVec.ofNat 32 (min m (2 ^ 32 - 1))) }

/-- BLOCK_FETCH (R294): the next block of the ring's task is fetched and checked, or traps. A STEP trap that a yield save
put off comes first (R401). -/
def execBlockFetch (r : RingId) (s : State) : Out :=
  let q := (s.ring r).seqr
  match s.running r with
  | none => .next s
  | some t =>
    if t.lead != r || q.blk.isSome || q.yielded.isSome || q.ending then .next s
    else if q.stepDue then .next ((s.modSeqr r fun q => { q with stepDue := false }).trapSeq r 0x3A 0)
    else
      match (fetchBlock r t.ctx q.pc).go s with
      | (.error (c, va), s1) => .next (s1.trapOn r .sequencer c q.pc va)
      | (.ok b, s1) => .next ((s1.fetchResume r t.ctx).modSeqr r fun q => { q with blk := some b })

end Sys2Proof.Machine
end

