-- ==== Sys2Proof/Machine/Translation.lean ====
section
/-!
DEFINITION. Translation moves: the end of a walk (R111 to R114) and shootdowns (R96, R115, R116).
-/

namespace Sys2Proof.Machine

/-! ## Walks -/

/-- Misses of one page, which merge into one walk. -/
def Miss.samePage (a b : Miss) : Bool := a.ctx == b.ctx && a.va.toNat / 2 ^ 16 == b.va.toNat / 2 ^ 16

/-- Ground times and rings of the walks of a ring, one for each page, each from its oldest miss. -/
def Ring.walks (x : Ring) (r : Nat) : List (Nat × Nat) :=
  ((List.range x.misses.length).filterMap fun k =>
    match x.misses[k]? with
    | some m => if (x.misses.take k).any m.samePage then none else some (m.arrived, r)
    | none => none)

/-- Whether a miss's walk is one of the 32 that its die runs, in order of arrival; at one ground time lower rings come first (R114). -/
def State.walking (s : State) (r : Nat) (m : Miss) : Bool :=
  let first := ((s.ring r).misses.find? m.samePage).getD m
  let all := (dieRings (ringDie r)).flatMap fun k => (s.ring k).walks k
  (all.filter fun w => w.1 < first.arrived || (w.1 == first.arrived && w.2 < r)).length < 32

/-- TRANSLATION_WALK_DONE (R114): the leaf enters the caches, or the engine that asked takes the cause; every miss of the
page leaves the queue. A walk for a context that does not run on the ring any more changes nothing else; one that a stack holds back goes on
(R416). -/
def execTranslationWalkDone (r : RingId) (miss : Nat) (s : State) : Out :=
  match (s.ring r).misses[miss]? with
  | none => .next s
  | some m =>
    if !s.walking r m then .next s
    else
      let s1 := s.modRing r fun x => { x with misses := x.misses.filter fun n => !n.samePage m }
      match s1.walkThrough (ringDie r) m.ctx (s.ring r).seqr.priv (if m.write then .write else .read) m.va fun s t ns => s.install r t ns with
      | (s2, .ok _) => .next s2
      | (s2, .error e) => if e = heldRead then .next s else if s.served r == some m.ctx then .next (s2.raise m.ctx r m.engine e m.block m.va) else .next s2

/-! ## Shootdowns -/

/-- First byte and length of the aligned range of PAGE and SIZE (R115); none for every translation of the context. -/
def shootRange (w : Word) : Option (Nat × Nat) :=
  let va := w.toNat % 2 ^ 57
  match (w.extractLsb' 0 2).toNat with
  | 0 => some (va / 2 ^ 16 * 2 ^ 16, 2 ^ 16)
  | 1 => some (va / 2 ^ 21 * 2 ^ 21, 2 ^ 21)
  | 2 => some (va / 2 ^ 30 * 2 ^ 30, 2 ^ 30)
  | _ => none

/-- Whether a cached translation is one that a shootdown removes. -/
def Trans.hit (t : Trans) (c : CtxId) (range : Option (Nat × Nat)) : Bool :=
  t.ctx == c && match range with | some p => overlaps (t.page * 2 ^ t.size, 2 ^ t.size) p | none => true

/-- Whether bytes of a context lie in a shootdown's range. -/
def shotAt (w : Word) (p : Nat × Nat) : Bool := match shootRange w with | some q => overlaps p q | none => true

/-- A ring at its shootdown point: translations and block-cache lines of the range go, and block-store copies become stale (R96, R115). -/
def State.shootRing (s : State) (r : Nat) (c : CtxId) (w : Word) : State :=
  s.modRing r fun x =>
    { x with tlb := x.tlb.filter fun t => !t.hit c (shootRange w),
             code := x.code.filter fun l => !(l.ctx == c && shotAt w (64 * l.sector, 64)),
             blocks := x.blocks.map fun b => { b with stale := b.stale || (b.ctx == c && shotAt w (b.addr.toNat, 4 * b.words.length)) } }

/-- Whether a shootdown removes a non-leaf entry: the addresses under it meet the range (R115). -/
def NodeEntry.hit (n : NodeEntry) (c : CtxId) (w : Word) : Bool := n.ctx == c && shotAt w (n.tag * 2 ^ n.lo, 2 ^ n.lo)

/-- Whether a ring takes its point later, at GO, or not at all (R115). -/
def State.runsRing (s : State) (r : Nat) : Bool :=
  let d := s.die (ringDie r)
  s.dev.live.getLsbD (ringDie r) && d.pwr == .running && !d.tstop && d.rst == .idle

/-- A shootdown whose last ring has passed: BUSY clears and the TLBINV that asked performs. -/
def State.shootDone (s : State) (c : CtxId) : State :=
  let x := s.ctx c
  if x.shootBusy && x.shootRings.isEmpty then
    let s1 := s.modCtx c fun x => { x with shootBusy := false, shootOp := none }
    match x.shootOp with
    | some (r, op) => s1.finishOp r op
    | none => s1
  else s

/-- A shootdown starts (R115): die caches at once, rings that do not run at once, the others at their points. -/
def State.shoot (s : State) (c : CtxId) (w : Word) (op : Option (RingId × Nat)) : State :=
  let s1 := (List.range 8).foldl (fun s d => s.modDie d fun x =>
    { x with tcache := x.tcache.filter fun t => !t.hit c (shootRange w), wcache := x.wcache.filter fun n => !n.hit c w }) s
  let part : List RingId := (List.finRange 32).filter fun r => s.dev.live.getLsbD (ringDie r)
  let now := part.filter fun r => !s.runsRing r
  let s2 := now.foldl (fun s r => s.shootRing r c w) s1
  (s2.modCtx c fun x =>
    { x with shootBusy := true, shootRings := part.filter fun r => s.runsRing r, shootRange := w, shootOp := op }).shootDone c

/-- SHOOTDOWN_GO (R115): ignored while BUSY. -/
def execShootdownGo (c : CtxId) (s : State) : Out :=
  let x := s.ctx c
  if x.shootBusy then .next s else s.atReady fun s => s.shoot c x.shootVa none

/-- SHOOTDOWN_POINT (R96, R115). -/
def execShootdownPoint (r : RingId) (c : CtxId) (s : State) : Out :=
  let x := s.ctx c
  if x.shootBusy && x.shootRings.contains r then
    .next (((s.shootRing r c x.shootRange).modCtx c fun x =>
      { x with shootRings := x.shootRings.filter (· != r) }).shootDone c)
  else .next s

end Sys2Proof.Machine
end

