-- ==== Sys2Proof/Machine/Pipes.lean ====
section
/-!
DEFINITION. Window pipes (R48 to R51, R246, R247): what a message does at its destination, seals, late windows, flush
markers and the drain that a change of ORDER_MODE makes.
-/

namespace Sys2Proof.Machine

/-! ## Windows and pipes -/

/-- A pipe that carries nothing yet. Windows that its source has left are sealed there: for a die, those before its last boundary (log 66); for
another chip, those whose seals have come over its port (R48). -/
def State.newPipe (s : State) (p : Path) : Pipe :=
  match p.src with
  | .die d => let n := (s.die d.val).left; { path := p, seals := windowedVcs.map fun vc => (vc.toNat, n), sent := n }
  | .chip c =>
    match (s.routeOf c).bind ownPort with
    | some q => { path := p, seals := windowedVcs.map fun vc => (vc.toNat, (s.link q.val).sealIn.get 0 vc.toNat) }
    | none => { path := p }

def State.pipe (s : State) (p : Path) : Pipe := (s.dev.pipes.find? fun x => x.path == p).getD (s.newPipe p)

def State.setPipe (s : State) (x : Pipe) : State :=
  s.modDev fun d =>
    { d with pipes :=
        if d.pipes.any (fun y => y.path == x.path) then d.pipes.map fun y => if y.path == x.path then x else y
        else d.pipes ++ [x] }

/-- Whether window `n` of a pipe is sealed: seal `n` has come on all three windowed VCs (R48). -/
def Pipe.isSealed (x : Pipe) (n : Nat) : Bool := [0, 1, 3].all fun vc => n < x.seals.get 0 vc

/-- The lowest window that is not sealed. -/
def Pipe.unsealed (x : Pipe) : Nat := min (x.seals.get 0 0) (min (x.seals.get 0 1) (x.seals.get 0 3))

/-- Whether an end of a path is a die of this device. -/
def pathDie? : PathEnd → Option DieId
  | .die d => some d
  | .chip _ => none

/-- Whether a home lies on another die than a ring's own (R245). -/
def remoteDie (r : Nat) (h : Home) : Option DieId :=
  match h with
  | .die d => if d.val = ringDie r then none else some d
  | _ => none

def ringDieId (r : RingId) : DieId := ⟨r.val / 4, by omega⟩

/-! ## Messages of eyelets (R229 to R232) -/

/-- The ring that a message waits at. -/
def Msg.ring? : Msg → Option RingId
  | .beat r _ | .verdict r _ | .request r _ => some r
  | _ => none

/-- The chip that sent a message. -/
def Msg.chip? : Msg → Option (BitVec 16)
  | .beat _ b => some b.chip
  | .verdict _ v => some v.chip
  | .request _ q => some q.chip
  | _ => none

/-- Whether a ring of this device sent a message. -/
def Msg.sentBy (m : Msg) (r : Nat) : Bool :=
  m.chip? == some ownChip && match m with | .beat _ b => b.ring == r | .verdict _ v => v.ring == r | .request _ q => q.ring == r | _ => false

/-! ## What a message does (R246, R248) -/

def State.modChan (s : State) (r ch : Nat) (f : Chan → Chan) : State :=
  s.modEng r fun e => { e with chans := e.chans.put ch (f (e.chans.get {} ch)) }

def State.modCopy (s : State) (r ch : Nat) (f : Copy → Copy) : State := s.modChan r ch fun c => { c with run := c.run.map f }

def modTab {α : Type} (t : Tab α) (k : Nat) (f : α → α) : Tab α := t.map fun e => if e.1 = k then (e.1, f e.2) else e

/-- A write of an engine performs. -/
def State.enginePerforms (s : State) (r : RingId) (who : Engine) : State :=
  match who with
  | .shuttle ch => s.modCopy r ch fun c => { c with inFlight := c.inFlight - 1 }
  | .walker .outbound p =>
    s.modEng r fun e => { e with outWalkers := modTab e.outWalkers p.val fun x => { x with inFlight := x.inFlight - 1 } }
  | _ => s

/-- A write that performs with its acknowledgement is on its way to it (R247). -/
def State.awaitAck (s : State) (r : RingId) (who : Engine) (op : Nat) : State := s.modDev fun d => { d with acks := d.acks ++ [(r, who, op)] }

/-- An access has become visible: it performs now, or in flush mode, `far` from its ring, when its acknowledgement returns (R246, R247). -/
def State.delivered (s : State) (w : PipeWrite) (v : Option Word) (far : Bool) : State :=
  match w.who with
  | .sequencer => if w.flush then s.modOp w.ring w.op fun o => { o with stage := .landed, value := v } else s.finishOp w.ring w.op v
  | e => if w.flush && far then s.awaitAck w.ring e w.op else s.enginePerforms w.ring e

/-- An atomic on uncorrectable data never performs: its context takes cause 0x0E (R164). -/
def State.spoiled (s : State) (r : Nat) (c : CtxId) (op : Nat) : State :=
  let va : Word := match s.op? r op with | some o => (match o.work with | .atomic _ a _ _ => a.va | _ => 0) | none => 0
  (s.modOp r op fun o => { o with stage := .failed }).raise c r .sequencer 0x0E (s.blockVa r) va

/-- An atomic at its home: the state and the old value (R391). -/
def State.atomicApply (s : State) (kind : AtomKind) (key : Nat) (b c : Word) : State × Word :=
  let old : Word := BitVec.ofNat 64 (s.load key kind.bytes)
  (s.store (cellsAt key (bytesLE kind.bytes (kind.apply old b c).toNat)), old)

/-- Elements of a reduce-add (R215). -/
def reduceBeat (rfmt : BitVec 8) (dst src : BitVec 512) : BitVec 512 :=
  let f (w : Nat) (g : Nat → Nat → Nat) : BitVec 512 :=
    BitVec.ofNat 512 (elemwise w (512 / w) (fun a b _ => g a b) dst.toNat src.toNat 0)
  match rfmt.toNat with
  | 0 => f 32 fun a b => arithElem (fun x y _ => x.add y) fp32 a b 0
  | 1 => f 16 fun a b => arithElem (fun x y _ => x.add y) bf16 a b 0
  | 2 => f 16 fun a b => arithElem (fun x y _ => x.add y) fp16 a b 0
  | _ => f 32 fun a b => a + b

/-- The cells of a 64-byte beat. -/
def beatCells (key : Nat) (d : BitVec 512) : List Host.Cell := cellsAt key (bytesLE 64 d.toNat)

/-- A beat or verdict of a copy that an operation of a ring has started. -/
def PipeWrite.ofCopy (w : PipeWrite) (r : RingId) (op : Nat) : Bool :=
  w.ring == r && w.op == op && match w.who with | .shuttle _ => true | _ => false

/-- A copy's beat to another chip has been accepted, or refused for a cause (R231). -/
def State.copyAck (s : State) (r : RingId) (op : Nat) (refused : Option Cause) : State :=
  match s.dev.pipes.find? fun x => (pathDie? x.path.dst).isNone && x.writes.any (·.ofCopy r op) with
  | none => s
  | some x =>
    match x.writes.find? (·.ofCopy r op) with
    | some w =>
      match w.who with
      | .shuttle ch =>
        (s.setPipe { x with writes := x.writes.erase w }).modCopy r ch.val fun c =>
          { c with inFlight := c.inFlight - 1, error := if c.error.isSome then c.error else refused }
      | _ => s
    | none => s

/-- A message takes effect at its destination; what is bound for an eyelet, and a result that returns, waits there for its move. -/
def State.applyMsg (s : State) (w : PipeWrite) (far : Bool) : State :=
  match w.msg with
  | .write cells => (s.store cells).delivered w none far
  | .spoil cells => (s.storeAs cells true).delivered w none far
  | .atomic kind key b c =>
    if s.poisoned key kind.bytes then s.spoiled w.ring w.ctx w.op
    else
      let (s1, old) := s.atomicApply kind key b c
      s1.delivered w (some old) far
  | .reduce f key d => (s.store (beatCells key (reduceBeat f (BitVec.ofNat 512 (s.load key 64)) d))).delivered w none far
  | .grant dst op v => s.modDev fun d => { d with answers := d.answers ++ [(dst, op, v)] }
  | .marker .. => s
  | .ack dst op refused => s.copyAck dst op refused
  | m => s.modDev fun d => { d with arrived := d.arrived ++ [m] }

/-- Whether a message of a pipe is due: sent in window mode, its window is sealed and the second one after it has begun (R48). -/
def State.due (s : State) (x : Pipe) (w : PipeWrite) : Bool := !w.flush && x.isSealed w.window && w.window + 2 ≤ s.curWindow

/-- Whether a message would read its destination in a stack that takes no reads now (R416). -/
def State.msgHeld (s : State) : Msg → Bool
  | .atomic _ key .. => s.heldKey key
  | .reduce _ key _ => s.heldKey key
  | _ => false

/-- Writes at the head of a pipe whose windows are visible take effect, in pipe order (R48, R246). -/
def State.showPipe (s : State) (p : Path) : Nat → State
  | 0 => s
  | fuel + 1 =>
    let x := s.pipe p
    match x.writes with
    | w :: t =>
      if s.due x w && !s.msgHeld w.msg then
        ((s.setPipe { x with writes := t }).applyMsg w true).showPipe p fuel
      else s
    | [] => s

def State.show (s : State) (p : Path) : State := s.showPipe p (s.pipe p).writes.length

/-- The VC of a message (R40): what a shuttle moves into an eyelet is on VC 0 (R412), and so is all else that it moves (log 98). -/
def Msg.vc : Msg → BitVec 2
  | .grant .. | .ack .. => 1
  | .marker .. => 2
  | _ => 0

/-- The endpoint code of an end of a path: a die, or the port that a route leaves by (R26). -/
def endCode (e : PathEnd) (route : List (BitVec 16 × LinkId)) : Option (BitVec 8) :=
  match e with
  | .die d => some (BitVec.ofNat 8 d.val)
  | .chip _ => (ownPort route).map fun p => BitVec.ofNat 8 (0x10 + p.val)

/-- The circuit that traffic between two endpoints takes while it is up; with none it takes the ground mesh (R25, R28). -/
def State.circuit (s : State) (p : Path) (route : List (BitVec 16 × LinkId)) : Option (Fin 64) :=
  match endCode p.src route, endCode p.dst route with
  | some a, some b => (List.finRange 64).find? fun n => let x : Conn := s.dev.conns.get {} n.val; x.state == .up && x.src == a && x.dst == b
  | _, _ => none

/-- A message joins a pipe. -/
def State.pushPipe (s : State) (p : Path) (w : PipeWrite) : State := s.setPipe { s.pipe p with writes := (s.pipe p).writes ++ [w] }

/-- A message enters the pipe of its path, stamped with the current window (R246), by windows or not; one for another chip leaves as a flit of its
VC. -/
def State.enterAs (s : State) (p : Path) (w : PipeWrite) (flush : Bool) : State :=
  let (route, s1) := match p.dst with | .chip c => s.flitTo c w.msg.vc .data | .die _ => ([], s)
  s1.pushPipe p { w with window := s.curWindow, flush := flush, route := route, via := s.circuit p route }

/-- It enters by the mode in force. -/
def State.enter (s : State) (p : Path) (w : PipeWrite) : State := s.enterAs p w s.dev.flush

/-! ## What is lost on its way (R42, R49, R163, R235, R254) -/

/-- The earliest message of each context among some. -/
def earliest (l : List PipeWrite) : List PipeWrite := l.foldl (fun l w => if l.any fun e => e.ctx == w.ctx then l else l ++ [w]) []

/-- A copy stops: it moves no further beat and never completes; a first error counts (R217, R235). -/
def Copy.stop (c : Copy) : Copy :=
  { c with stopped := true, finished := true, cmd := none, error := some (c.error.getD 0x33) }

/-- A message on its way that is lost: its operation never performs (R254), and a copy stops (R235). -/
def State.loseMsg (s : State) (w : PipeWrite) : State :=
  match w.who with
  | .sequencer => if w.msg.vc = 2 then s else s.modOp w.ring w.op fun o => match o.work with | .resv .. => o | _ => { o with stage := .failed }
  | .shuttle ch => s.modCopy w.ring ch fun c => { c with inFlight := c.inFlight - 1 }.stop
  | _ => s

/-- The address that the stop record of an engine of a ring gives (R158). -/
def State.engineBlock (s : State) (r : Nat) (e : Engine) : Word :=
  match (s.ring r).engines.find? fun p => p.1 == e with
  | some p => p.2
  | none => 0

/-- The virtual address of a sequencer's operation (R158). -/
def State.opVa (s : State) (r op : Nat) : Word :=
  match s.op? r op with
  | some o => (match o.work with | .store a .. => a.va | .atomic _ a _ _ => a.va | _ => 0)
  | none => 0

/-- A context takes LINK_LOST for an engine, once for a halt. -/
def State.lostOnce (s : State) (c : CtxId) (r : Nat) (e : Engine) (va : Word) : State :=
  if (s.ctx c).halted && (s.ctx c).stops.any fun k => k.engine == e.code && k.ring.toNat == e.ringNo r && k.cause == 0x33 then s
  else s.raise c r e 0x33 (s.engineBlock r e) va

/-- A context takes LINK_LOST for a message of it. -/
def State.linkLost (s : State) (w : PipeWrite) : State :=
  s.lostOnce w.ctx w.ring w.who (match w.who with | .sequencer => s.opVa w.ring w.op | _ => 0)

/-- Messages of a pipe are discarded, and the contexts of this device among their senders take LINK_LOST (R163). -/
def State.discardOn (s : State) (x : Pipe) (gone : PipeWrite → Bool) : State :=
  let l := x.writes.filter gone
  let s1 := l.foldl State.loseMsg (s.setPipe { x with writes := x.writes.filter fun w => !gone w })
  (earliest (l.filter fun w => (pathDie? x.path.src).isSome && w.msg.vc != 2)).foldl State.linkLost s1

/-- A path is lost (R42, R49, R163): what its windows have sealed goes on to become visible, and the rest is discarded. -/
def State.losePath (s : State) (p : Path) : State :=
  let x := s.pipe p
  let s1 := s.discardOn x fun w => w.flush || !x.isSealed w.window
  s1.setPipe { s1.pipe p with lost := true }

/-! ## Sending -/

/-- While a change of ORDER_MODE drains the pipes, nothing new enters one (R51, R247). -/
def State.draining (s : State) : Bool := s.dev.modeNext.isSome

/-- Whether what a ring sends to an end of a path would have to enter a pipe that drains. -/
def State.heldBack (s : State) (r : RingId) (d : PathEnd) : Bool := s.draining && d != .die (ringDieId r)

/-- Whether a write of a ring to a home would have to enter a pipe that drains. -/
def State.heldHome (s : State) (r : RingId) (h : Home) : Bool := match remoteDie r h with | some d => s.heldBack r (.die d) | none => false

/-- Whether both ends of a path that are dies of this device are live. -/
def State.endsLive (s : State) (p : Path) : Bool :=
  [p.src, p.dst].all fun e => match e with | .die d => s.dev.live.getLsbD d.val | .chip _ => true

/-- What would go over a lost path never arrives, and its context takes LINK_LOST, but where the path went with a die (R42, R162, R163). -/
def State.refused (s : State) (p : Path) (w : PipeWrite) : State :=
  let s1 := s.loseMsg w
  if s.endsLive p then s1.linkLost w else s1

/-- What an engine of a ring sends: to its own die at once, to another through the pipe in window mode; in flush mode it is visible on
arrival (R247). -/
def State.sendTo (s : State) (d : PathEnd) (w : PipeWrite) : State :=
  let p : Path := { src := .die (ringDieId w.ring), dst := d }
  if d = .die (ringDieId w.ring) then s.applyMsg w false
  else if (s.pipe p).lost then s.refused p w
  else
    match d, s.dev.flush with
    | .die _, true => s.applyMsg { w with flush := true } true
    | _, _ => s.enter p w

/-- The flits of a flush marker down a path: on every route, where it leads to another chip (R50). -/
def State.markPath (s : State) (p : Path) : State := match p.dst with | .chip c => s.markFlits c | .die _ => s

/-- A flush marker of an operation goes down every path from its die, on every route (R50). -/
def State.sendMarkers (s : State) (r : RingId) (c : CtxId) (op : Nat) : State :=
  let w : PipeWrite := { window := 0, ring := r, ctx := c, who := .sequencer, op := op, msg := .marker r op }
  let paths := (s.dev.pipes.filter fun x => x.path.src == .die (ringDieId r) && !x.lost).map (·.path)
  paths.foldl (fun s p =>
    (s.markPath p).pushPipe p { w with window := s.curWindow }) s

/-- Whether a marker of an operation has yet to be gathered. -/
def State.markersOut (s : State) (r : RingId) (op : Nat) : Bool := s.dev.pipes.any fun x => !x.lost && x.writes.any fun w => w.msg == .marker r op

/-! ## Window moves (R48, R49): in flush mode no windows apply (R50), but to what was sent under them (R254) -/

/-- A pipe holds something that goes by windows. -/
def Pipe.windowed (x : Pipe) : Bool := x.writes.any fun w => !w.flush && w.msg.vc != 2

/-- Windows apply to a path: in window mode, or to what it carries from then (R254). -/
def State.windows (s : State) (x : Pipe) : Bool := !s.dev.flush || x.windowed

/-- WINDOW_BOUNDARY: the die has left every window before the current one; it sends their seals, and what is sealed and due
on the paths that end there becomes visible. -/
def execWindowBoundary (d : DieId) (s : State) : Out :=
  if s.dev.flush && !s.dev.pipes.any Pipe.windowed then .next s
  else
    let n := s.curWindow
    let s1 := s.modDev fun v => { v with pipes := v.pipes.map fun x => if x.path.src == .die d then { x with sent := max x.sent n } else x }
    let s2 := (s1.modDie d fun x => { x with left := max x.left n }).sendSeals
    let due := (s2.dev.pipes.filter fun x => x.path.dst == .die d).map (·.path)
    .next (due.foldl State.show s2)

/-- Contexts with a write of a window in a pipe, each with the ring of its earliest one. -/
def Pipe.senders (x : Pipe) (n : Nat) : List (CtxId × RingId) :=
  (x.writes.filter fun w => w.window == n).foldl
    (fun l w => if l.any fun e => e.1 == w.ctx then l else l ++ [(w.ctx, w.ring)]) []

/-- The lowest window that is not sealed and has not been found late. -/
def Pipe.nextLate (x : Pipe) : Nat :=
  (List.range (x.late.length + 1)).foldl (fun n _ => if x.late.any fun e => e.1 == n then n + 1 else n) x.unsealed

/-- One window is late once the second window after it has begun; its writes stay held, and a notice goes back to the source. -/
def State.markLate (s : State) (path : Path) : State :=
  let x := s.pipe path
  let n := x.nextLate
  if n + 2 ≤ s.curWindow ∧ !x.lost ∧ s.windows x then
    let s1 := s.setPipe { x with late := x.late ++ [(n, x.senders n)] }
    match path.src with
    | .die _ => s1
    | .chip c => s1.notify (.chip c) (.lateSeal path n)
  else s

/-- SEAL_LATE. -/
def execSealLate (path : Path) (s : State) : Out := .next (s.markLate path)

/-- Every window of a path that is late and not yet found so; past 64 windows the path is lost. -/
def State.markAllLate (s : State) (path : Path) : State := (List.range 66).foldl (fun s _ => s.markLate path) s

/-- A seal on a windowed VC of a path; one that comes late finds its window late (R49). -/
def State.takeSeal (s : State) (path : Path) (vc : BitVec 2) (window : Nat) : State :=
  let s1 := s.markAllLate path
  let x := s1.pipe path
  (s1.setPipe { x with seals := x.seals.put vc.toNat (max (x.seals.get 0 vc.toNat) (window + 1)) }).show path

/-- SEAL_RECEIVE: a seal of a path; it cannot come before its source has sent it. -/
def execSealReceive (path : Path) (vc : BitVec 2) (window : Nat) (s : State) : Out :=
  if !s.windows (s.pipe path) ∨ vc = 2 ∨ ((pathDie? path.src).isSome ∧ (s.pipe path).sent ≤ window) then .next s
  else .next (s.takeSeal path vc window)

/-- LATE_SEAL_NOTICE: the source posts one WINDOW_OVERRUN record for each context with a write of the window on the path. -/
def execLateSealNotice (path : Path) (window : Nat) (s : State) : Out :=
  let x := s.pipe path
  let known := match x.late.find? fun e => e.1 == window with | some e => e.2 | none => x.senders window
  let own := (pathDie? path.dst).isSome
  if (pathDie? path.src).isNone ∨ x.noticed.contains window ∨ (own ∧ !(x.late.any fun e => e.1 == window)) then .next s
  else
    let s1 := s.setPipe { x with noticed := x.noticed ++ [window] }
    .next (known.foldl (fun s e => s.raise e.1 e.2 .sequencer 0x34 0 (BitVec.ofNat 64 window)) s1)

/-- What a message of another chip, stamped by its source, becomes as it comes in: it is visible at once in flush mode; in window mode it waits in
the pipe of its path (R48, R50). -/
def State.comesIn (s : State) (chip : BitVec 16) (r : RingId) (stamp : Nat) (m : Msg) : State × Bool :=
  if s.dev.flush then (s, true)
  else
    let p : Path := { src := .chip chip, dst := .die (ringDieId r) }
    if (s.pipe p).lost then (s, false)
    else ((s.pushPipe p { window := stamp, ring := r, ctx := 0, who := .eyelet, op := 0, msg := m }).show p, false)

/-! ## ORDER_MODE and the window exponent (R46, R50, R51) -/

/-- The paths from the live dies of this device: to its other live dies, and to the chips of the route table. -/
def State.ownPaths (s : State) : List Path :=
  let dies := (List.finRange 8).filter fun d => s.dev.live.getLsbD d.val
  dies.flatMap fun d =>
    ((dies.filter (· != d)).map fun e => { src := .die d, dst := .die e }) ++
      ((s.dev.routes.filter fun e => e.1 != ownChip).map fun e => { src := .die d, dst := .chip e.1 })

/-- A flush marker of a change of ORDER_MODE goes down a path (R51). -/
def State.markMode (s : State) (p : Path) : State :=
  let x := s.pipe p
  if x.lost then s else (s.markPath p).setPipe { x with marker := true, gathered := false }

/-- ORDER_MODE_WRITE: a marker goes down every path; a later write before the switch replaces the first, whichever value it writes (log 66). -/
def execOrderModeWrite (v : Word) (s : State) : Out :=
  let m := v.getLsbD 0
  if !s.dev.ready then .next s
  else if s.dev.modeNext.isSome then .next (s.modDev fun d => { d with modeNext := some m })
  else if m = s.dev.flush then .next s
  else .next ((s.ownPaths.foldl State.markMode s).modDev fun d => { d with modeNext := some m })

/-- A round's marker that can be gathered: behind nothing of its path, where the device sees what has arrived. -/
def Pipe.ripe (x : Pipe) : Option PipeWrite :=
  let mark (w : PipeWrite) : Bool := match w.msg with | .marker .. => true | _ => false
  match x.path.dst with
  | .die _ => x.writes.head?.filter mark
  | .chip _ => x.writes.find? mark

/-- A flush marker of another chip's path has come: with the last of them, one for each route between the chips (log 98), they are gathered and
the source has its acknowledgement (R50). -/
def State.gather (s : State) (path : Path) (c : BitVec 16) : State :=
  let n := ((s.dev.gathers.find? fun e => e.1 == path).map (·.2)).getD 0 + 1
  let rest := s.dev.gathers.filter fun e => e.1 != path
  if n < (s.liveRoutes c).length then s.modDev fun d => { d with gathers := (path, n) :: rest }
  else (s.modDev fun d => { d with gathers := rest }).notify (.chip c) (.gathered path)

/-- FLUSH_MARKER_RECEIVE: the marker is behind everything its path carried. -/
def execFlushMarkerReceive (path : Path) (s : State) : Out :=
  let x := s.pipe path
  match path.src with
  | .chip c => if x.writes = [] then .next (s.gather path c) else .next s
  | .die _ =>
    match x.ripe with
    | some w => .next (s.setPipe { x with writes := x.writes.erase w })
    | none => if x.marker ∧ x.writes = [] then .next (s.setPipe { x with gathered := true }) else .next s

/-- WMISMATCH from the exponent that the peer last announced, if any (R47). -/
def Link.compare (x : Link) (n : BitVec 4) : Link := { x with wmismatch := x.peerExp.any (· != n) }

/-- GROUND_WINDOW_WRITE: 7 to 13, and only in flush mode (R46); every port announces the new exponent (R47). -/
def execGroundWindowWrite (v : Word) (s : State) : Out :=
  let n := v.extractLsb' 0 4
  if s.dev.ready ∧ s.dev.flush ∧ 7 ≤ n.toNat ∧ n.toNat ≤ 13 then
    let s1 := s.modDev fun d => { d with window := n, links := d.links.map fun e => (e.1, e.2.compare n) }
    .next (((List.finRange 16).filter fun p => (s.link p.val).up).foldl (fun s p => s.notify (.port p) (.announce n)) s1)
  else .next s

end Sys2Proof.Machine
end

