-- ==== Sys2Proof/Machine/Records.lean ====
section
/-!
DEFINITION. Task records (R119 to R122): their fields, the checks that the master makes, and what consuming one does
(R123, R124, R138); the split of ready indices over the dies (R128, R129).
-/

namespace Sys2Proof.Machine

/-! ## Fields (R120, R121) -/

/-- An input declaration from its 16 bytes; none where VALID is 0. -/
def InDecl.parse (n : Nat) : Option InDecl :=
  if bitsOf n 112 1 = 1 then
    some { src := BitVec.ofNat 64 (bitsOf n 0 64), bytes := bitsOf n 64 32, poff := bitsOf n 96 16,
           indexed := bitsOf n 113 1 == 1, keep := bitsOf n 114 1 == 1 }
  else none

/-- The four successor references of a record. -/
def succWord (n j : Nat) : Nat := bitsOf n (384 + 32 * j) 32

/-- The 16 bytes of input declaration `j`. -/
def inWord (n j : Nat) : Nat := bitsOf n (512 + 128 * j) 128

/-- A record's fields from its 128 bytes. -/
def TaskRec.parse (n : Nat) : TaskRec :=
  { prio := bitsOf n 32 2, gang := bitsOf n 34 1 == 1, pinned := bitsOf n 35 1 == 1, migrate := bitsOf n 36 1 == 1,
    span := bitsOf n 37 3, ring := Fin.ofNat 32 (bitsOf n 40 5), entry := BitVec.ofNat 64 (bitsOf n 64 64),
    arg := BitVec.ofNat 64 (bitsOf n 128 64), ibase := bitsOf n 192 32, icount := bitsOf n 224 32,
    yclass := bitsOf n 288 8, live := BitVec.ofNat 64 (bitsOf n 320 64),
    succs := (List.range 4).filterMap fun j =>
      let w := succWord n j
      if bitsOf w 31 1 = 1 then some (BitVec.ofNat 2 (bitsOf w 29 2), bitsOf w 0 16) else none
    ins := (List.range 4).map fun j => InDecl.parse (inWord n j) }

/-- A nonzero bit in a field that the layout gives as zero (R100, R120, R121). -/
def recordUnknown (n : Nat) : Bool :=
  bitsOf n 45 19 != 0 || bitsOf n 296 24 != 0 || (List.range 4).any fun j =>
    bitsOf (succWord n j) 16 13 != 0 || bitsOf (inWord n j) 57 7 != 0 || bitsOf (inWord n j) 115 13 != 0

/-! ## Queues (R119) -/

/-- The task queue is enabled. -/
def TaskQueue.on (q : TaskQueue) : Bool := 4 ≤ q.log2n.toNat && q.log2n.toNat ≤ 16

def TaskQueue.slots (q : TaskQueue) : Nat := 2 ^ q.log2n.toNat

/-- Address of slot `i` of a queue. -/
def TaskQueue.slotAddr (q : TaskQueue) (i : Nat) : Nat := q.base.toNat + 128 * (i % q.slots)

def State.queue (s : State) (c : CtxId) (q : Nat) : TaskQueue := (s.ctx c).tq.get {} q

def State.modQueue (s : State) (c : CtxId) (q : Nat) (f : TaskQueue → TaskQueue) : State :=
  s.modCtx c fun x => { x with tq := x.tq.put q (f (x.tq.get {} q)) }

/-- The place of a record's word, where the queue lies in memory of the device. -/
def State.recordKey (s : State) (addr : Nat) : Option Nat :=
  match s.locate addr with
  | .ok (key, .die _) => some key
  | _ => none

/-! ## Dies and rings (R107, R128) -/

/-- Whether R107 lets a context run on a ring's die. -/
def State.mayRun (s : State) (r : Nat) : Bool :=
  let d := s.die (ringDie r)
  s.dev.live.getLsbD (ringDie r) && d.pwr == .running && !d.tstop

/-- Rings that CTX_RINGS allows. -/
def State.allowed (s : State) (c : CtxId) (r : Nat) : Bool := (s.ctx c).rings.getLsbD r

/-- The eligible dies, ascending (R128). -/
def State.eligible (s : State) (c : CtxId) : List DieId :=
  (List.finRange 8).filter fun d => (dieRings d.val).any fun r => s.allowed c r && s.mayRun r

/-- Rings that a record names: its ring, and those of its span. -/
def TaskRec.rings (t : TaskRec) : List Nat := (List.range (t.span + 1)).map (t.ring.val + ·)

/-! ## Pass values (R131) -/

/-- Arithmetic-clock cycles of the dispatchers in ground nanoseconds, counted at P0 (R54, log 2). -/
def p0Cycles (ns : Nat) : Nat := ns * 3 / 5

/-- Whether a context has a saved task on a ring. -/
def Ring.holds (x : Ring) (c : CtxId) : Bool := x.saved.any fun v => v.task.ctx == c

/-- Locks of slices that a saved task's patterns hold (R24, log 38). -/
def Saved.locks (v : Saved) : List Nat := v.engines.flatMap fun e => (e.2.forks.filter (·.locks)).map (·.op)

/-- Locks of a ring's slices that patterns of saved tasks hold. -/
def State.savedLocks (s : State) (r : Nat) : List Nat :=
  (List.range 32).flatMap fun k => ((s.ring k).saved.filter fun v => v.task.rings.contains r).flatMap (·.locks)

/-- Whether a context has a ready index on a die, a saved task of one of its rings among them (R131, R151). A halt takes nothing from it. -/
def State.hasReady (s : State) (d : Nat) (c : CtxId) : Bool :=
  (s.ctx c).enable && !(s.ctx c).closing &&
    ((s.ctx c).table.any (fun p => p.ready && !(p.shares.get [] d).isEmpty) || (dieRings d).any fun r => (s.ring r).holds c)

def Die.passOf (x : Die) (c : Nat) : Nat := x.pass.get 0 c

/-- A context that gains a ready index takes the larger of its pass value and the lowest one held (R131). Each die's dispatcher has pass values
of its own (log 101). -/
def State.passes (s : State) (d : Nat) : State :=
  let act := ((List.finRange 64).filter fun c => s.hasReady d c).map (·.val)
  s.modDie d fun x =>
    let old := act.filter (x.hadReady.contains ·)
    let low := (old.map x.passOf).min?.getD 0
    { x with hadReady := act, pass := (act.filter (!x.hadReady.contains ·)).foldl (fun t c => t.put c (max (t.get 0 c) low)) x.pass }

/-- The pass values of every die follow what has become ready. -/
def State.passAll (s : State) : State := (List.range 8).foldl State.passes s

/-! ## Checks (R122) -/

/-- Check 4 of R122. -/
def inputsBad (l : List InDecl) : Bool :=
  (l.any fun d => d.bytes == 0 || d.bytes % 64 != 0 || d.src.toNat % 64 != 0 || 0x1000000 < 4096 * d.poff + d.bytes) ||
    !decide (l.Pairwise fun a b => overlaps (4096 * a.poff, a.bytes) (4096 * b.poff, b.bytes) = false)

/-- The first check of R122 that a record of a context fails. A record that holds old and new sectors mixed takes the cause of the check that it
fails, as R122 says, where R83 names 0x29 alone (log 86). -/
def State.recordCause (s : State) (c : CtxId) (n : Nat) : Option Cause :=
  let t := TaskRec.parse n
  let x := s.ctx c
  if bitsOf n 0 16 ≠ 1 ∨ bitsOf n 16 16 ≠ 128 then some 0x1F
  else if recordUnknown n then some 0x1E
  else if t.gang ∧ !x.priv then some 0x08
  else if 16 < t.yclass ∨ t.succs.any (fun p => !(s.queue c p.1.toNat).on) ∨ 31 < t.ring.val + t.span ∨
      ((t.pinned ∨ 0 < t.span) ∧ t.rings.any fun r => !s.allowed c r || s.dev.fenced.getLsbD (ringDie r)) ∨
      (t.gang ∧ (t.icount ≠ 1 ∨ 0 < t.span)) then some 0x29
  else if inputsBad (t.ins.filterMap id) then some 0x2A
  else if (t.pinned ∨ 0 < t.span ∨ t.gang) ∧ t.rings.any fun r => s.dev.parked.getLsbD (ringDie r) then some 0x3D
  else none

/-- The master takes a cause for a record: global ring 0xFF and the record's address (R122, R158). -/
def State.recordTrap (s : State) (c : CtxId) (cause : Cause) (addr : Nat) : State :=
  s.raise c 0xFF .dispatcher cause 0 (BitVec.ofNat 64 addr)

/-! ## The split (R128 to R130) -/

/-- The place of an index in its record's range. -/
def PendRec.offset (p : PendRec) (n : Nat) : Nat := (n + 2 ^ 32 - p.fields.ibase) % 2 ^ 32

/-- Indices in ascending order. -/
def PendRec.inOrder (p : PendRec) (l : List Nat) : List Nat := l.insertionSort fun a b => p.offset a ≤ p.offset b

/-- Indices over the eligible dies: die `E[k]` of `m` takes positions `k n / m` to `(k + 1) n / m - 1`, beside the share that
it has, which it starts in ascending order. -/
def PendRec.distribute (p : PendRec) (dies : List DieId) (idx : List Nat) : PendRec :=
  let l := p.inOrder idx
  let n := l.length
  let m := dies.length
  let one (t : Tab (List Nat)) (k : Nat) : Tab (List Nat) :=
    match dies[k]? with
    | some d => t.put d.val (p.inOrder (t.get [] d.val ++ (l.drop (k * n / m)).take ((k + 1) * n / m - k * n / m)))
    | none => t
  { p with split := true, unsplit := [], shares := (List.range m).foldl one p.shares }

/-- Whether a record's indices run on its own rings alone. -/
def TaskRec.placed (t : TaskRec) : Bool := t.pinned || 0 < t.span

/-- The shares of parked dies wait for a new split: what is not pinned is placed elsewhere (R62). -/
def PendRec.withdraw (p : PendRec) (parked : BitVec 8) : PendRec :=
  if p.fields.placed then p
  else
    { p with shares := p.shares.filter fun e => !parked.getLsbD e.1
             unsplit := p.unsplit ++ (p.shares.filter fun e => parked.getLsbD e.1).flatMap (·.2) }

/-- Whether a record has an index that has no ring yet and names a ring of a parked die (R62). -/
def PendRec.parkedOut (p : PendRec) (parked : BitVec 8) : Bool :=
  (p.fields.placed || p.fields.gang) && p.ready && !(p.unsplit.isEmpty && p.shares.all (·.2.isEmpty)) &&
    p.fields.rings.any fun r => parked.getLsbD (ringDie r)

/-- The split of one record's waiting indices: a pinned or spanned record's go to the die of its ring, and where that die is lost they wait
there for good, a cause being given only for a context with no die left (log 84); with no eligible die they wait, and with no die left the
context halts (R129). -/
def State.splitRec (s : State) (c : CtxId) (p : PendRec) : State :=
  if !p.ready || p.unsplit.isEmpty then s
  else if p.fields.placed then
    s.modRec c p.key fun q => q.distribute [Fin.ofNat 8 (ringDie p.fields.ring.val)] q.unsplit
  else
    match s.eligible c with
    | [] =>
      if (List.range 32).all fun r => !s.allowed c r || !s.dev.live.getLsbD (ringDie r) then s.recordTrap c 0x29 p.addr
      else s
    | dies => s.modRec c p.key fun q => q.distribute dies q.unsplit

/-- A record whose WAIT reads zero becomes ready (R124, R125); a stack that takes no reads does not show it (R416). -/
def State.readyRec (s : State) (c : CtxId) (p : PendRec) : State :=
  match s.recordKey (p.addr + 0x20) with
  | some key => if !p.ready && !s.heldKey key && s.load key 4 = 0 then s.modRec c p.key fun q => { q with ready := true, readyAt := s.gt.toNat } else s
  | none => s

/-- Whether an index of a record is staged on the rings of a span one of whose dies has parked since (R62). -/
def State.stagedOut (s : State) (c : CtxId) (p : PendRec) : Bool :=
  p.fields.span != 0 && (List.range 32).any fun r =>
    (s.ring r).staged.any fun g =>
      g.task.ctx == c && g.task.record == p.key && !g.resumes && p.fields.rings.any fun k => s.dev.parked.getLsbD (ringDie k)

/-- One record as the master finds it: a ring of a parked die that it names is a cause, and what waits for a split is split where it can be. -/
def State.settleRec (s : State) (c : CtxId) (p : PendRec) : State :=
  if (s.ctx c).halted then s
  else if p.parkedOut s.dev.parked || s.stagedOut c p then s.recordTrap c 0x3D p.addr
  else s.splitRec c p

/-- Every record of a context that has become ready is ready, and what waits is split where it can be; its pass values follow (R131). -/
def State.settle (s : State) (c : CtxId) : State :=
  let s1 := (s.ctx c).table.foldl (fun s p => s.readyRec c p) s
  let s2 := s1.modCtx c fun x => { x with table := x.table.map (·.withdraw s.dev.parked) }
  ((s2.ctx c).table.foldl (fun s p => s.settleRec c p) s2).passAll

/-! ## The dispatcher's own reads under a context's translation (R134, R138) -/

/-- A translation by the uncore: the die's cache, else a walk that fills it (R110, R114). -/
def State.uncoreTranslate (s : State) (d : Nat) (c : CtxId) (super : Bool) (va : Word) (u : Use) : State × Except Cause (Nat × Home) :=
  if 2 ^ 57 ≤ va.toNat then (s, .error 0x0D)
  else
    match findTrans (s.die d).tcache c va with
    | some t => s.passThrough c t super u va
    | none => s.walkThrough d c super u va fun s t ns => s.installDie d t ns

/-- The key of `n` bytes at an address that lie in one 64-byte sector, checked for uncorrectable data (R164); what its stack holds back waits
(R416). -/
def uncoreKey (d : Nat) (c : CtxId) (super : Bool) (va : Word) (n : Nat) : Load Nat := fun s =>
  match s.uncoreTranslate d c super va .read with
  | (s1, .error e) => (.error (e, va), s1)
  | (s1, .ok (key, _)) => (if s1.heldKey key then .error (heldRead, va) else if s1.poisoned key n then .error (0x0E, va) else .ok key, s1)

/-- The keys of the 64-byte sectors from an address, in order. -/
def uncoreSectors (d : Nat) (c : CtxId) (super : Bool) (n : Nat) (va : Word) : Load (List Nat) :=
  (List.range n).mapM fun k => uncoreKey d c super (va + BitVec.ofNat 64 (64 * k)) 64

/-- The master: the dispatcher of the lowest-numbered live die (R127). -/
def State.master (s : State) : Nat := ((List.range 8).find? fun d => s.dev.live.getLsbD d).getD 0

/-- The 16 bytes at the head of an argument block: the tick of a gang and its identifier (R138, R160). -/
def gangWords (c : CtxId) (arg : Word) : Load (Word × Word) := do
  let s ← get
  let k0 ← uncoreKey s.master c (s.ctx c).priv arg 8
  let k1 ← uncoreKey s.master c (s.ctx c).priv (arg + 8) 8
  pure (BitVec.ofNat 64 (s.load k0 8), BitVec.ofNat 64 (s.load k1 8))

/-! ## Consumption (R122 to R124, R138) -/

/-- A record joins the dispatch table. -/
def State.addRecord (s : State) (c : CtxId) (p : PendRec) : State :=
  (s.modCtx c fun x => { x with table := x.table ++ [p] }).settle c

/-- What comes of a record that the master reads: it is in the dispatch table, it has failed, or it is to be read again, since a page of it
was missing or a stack held its reads back (R118, R138, R416). -/
inductive Consumed where
  | yes | no | later
  deriving DecidableEq, Repr

/-- A gang's record that is consumed at or after its tick traps, and its peers learn of that although the record has no place in the table
(R138, R160). -/
def State.lateRecord (s : State) (c : CtxId) (gang : Word) (addr : Nat) : State :=
  (if gang = 0 || (s.gangIds c).contains gang then s else s.notify .all (.halt gang)).recordTrap c 0x2D addr

/-- The master consumes the record at index `i` of a queue. -/
def State.consumeRecord (s : State) (c : CtxId) (q : Fin 4) (i : W32) (launch : Nat) : State × Consumed :=
  let addr := (s.queue c q.val).slotAddr i.toNat
  match s.recordKey addr with
  | none => (s.recordTrap c 0x29 addr, .no)
  | some key =>
    if s.heldKey key then (s, .later)
    else if s.poisoned key 128 then (s.recordTrap c 0x0E addr, .no)
    else
      let n := s.load key 128
      match s.recordCause c n with
      | some e => (s.recordTrap c e addr, .no)
      | none =>
        let t := TaskRec.parse n
        let p : PendRec :=
          { addr := addr, queue := q, index := i, fields := t, launch := launch,
            unsplit := (List.range t.icount).map fun k => (t.ibase + k) % 2 ^ 32 }
        if t.gang then
          match (gangWords c t.arg).go s with
          | (.error (e, va), s1) =>
            (s1.raise c 0xFF .dispatcher e (BitVec.ofNat 64 addr) va, if e = heldRead ∨ e = 0x09 then .later else .no)
          | (.ok (tick, id), s1) =>
            if tick.toNat ≤ s1.gt.toNat then (s1.lateRecord c id addr, .no)
            else (s1.addRecord c { p with tick := tick, gangId := id }, .yes)
        else (s.addRecord c p, .yes)

/-- Records from index `i` on, `n` of them, in slot order, up to the first that fails; one that is to be read again is answered, with those after
it. -/
def State.consumeRecords (s : State) (c : CtxId) (q : Fin 4) (launch : Nat) : Nat → W32 → State × Option (Nat × W32)
  | 0, _ => (s, none)
  | n + 1, i =>
    match s.consumeRecord c q i launch with
    | (s1, .yes) => State.consumeRecords s1 c q launch n (i + 1)
    | (s1, .no) => (s1, none)
    | (s1, .later) => (s1, some (n + 1, i))

/-- The master reads records; what is to be read again is the first that it will read. -/
def State.readQueue (s : State) (c : CtxId) (q : Fin 4) (launch n : Nat) (i : W32) : State :=
  match s.consumeRecords c q launch n i with
  | (s1, none) => s1
  | (s1, some (m, k)) => s1.modCtx c fun x => { x with unread := (q, launch, m, k) :: x.unread }

/-- Records have been queued: the master reads them, or they wait behind those that it has still to read. -/
def State.readNext (s : State) (c : CtxId) (q : Fin 4) (launch n : Nat) (i : W32) : State :=
  if (s.ctx c).unread.isEmpty then s.readQueue c q launch n i
  else s.modCtx c fun x => { x with unread := x.unread ++ [(q, launch, n, i)] }

end Sys2Proof.Machine
end

