-- ==== Sys2Proof/Machine/Ordering.lean ====
section
/-!
DEFINITION. The ordering machine's moves: PIPE_ENTER, OPERATION_PERFORM, VISIBILITY_ACK, STRAND_ERROR_TIMEOUT and INGR_TAKE
(R244 to R251), and what each operation does as it performs.
-/

namespace Sys2Proof.Machine

/-! ## Which operations may go on -/

/-- The access of a load, store or atomic. -/
def Work.acc? : Work → Option Acc
  | .load a _ _ => some a
  | .store a _ _ => some a
  | .atomic _ a _ _ => some a
  | .enq a _ => some a
  | _ => none

/-- Whether an operation is a write or atomic to another die (R245, R246). -/
def Work.remote? (r : Nat) : Work → Option DieId
  | .store a _ _ => remoteDie r a.home
  | .atomic _ a _ _ => remoteDie r a.home
  | _ => none

/-- Whether an operation whose snapshot is empty must wait for its flush-marker round: it has a mask, and its snapshot emptied in flush mode
(R50, R247, R254). -/
def Op.needsRound (o : Op) : Bool := o.mode == some true && o.mask != 0 && o.stage == .queued

/-- Whether an operation's snapshot is empty and its marker round, if it has one, over. -/
def Op.free (o : Op) : Bool := o.snap.isEmpty && !o.needsRound && (o.stage == .queued || o.stage == .flushed)

/-- Whether it has not been accepted yet. -/
def Op.waits (o : Op) : Bool := o.stage == .queued || o.stage == .flushing || o.stage == .flushed

/-- Its marker round begins (R50). -/
def State.startRound (s : State) (r : RingId) (o : Op) : State :=
  (s.modOp r o.id fun o => { o with stage := .flushing }).sendMarkers r o.ctx o.id

/-- Whether an access's home can be reached: its die is live, and a die whose stack holds its reads back takes none (R32,
R416). While an uncore reset is in progress the HBM of a die that stays live is served as ever (log 79). -/
def State.reaches (s : State) (h : Home) (read : Bool) : Bool :=
  match h with
  | .die d => s.dev.live.getLsbD d && !(read && (s.die d).hold)
  | _ => true

/-! ## Writes to another die (R246, R247) -/

/-- What a remote write or atomic sends. -/
def Op.msg (o : Op) : Option Msg :=
  match o.work with
  | .store a data lanes => some (.write (laneCells a.key data lanes |>.filter fun c => c.1 < a.key + a.n))
  | .atomic k a b c => some (.atomic k a.key b c)
  | _ => none

/-- Whether a message of a pipe is an operation's write or atomic. -/
def PipeWrite.writeOf (w : PipeWrite) (r : RingId) (op : Nat) : Bool :=
  w.ring == r && w.who == .sequencer && w.op == op && match w.msg with | .write _ | .atomic .. => true | _ => false

/-- PIPE_ENTER (R246): every member of the snapshot is a write ahead in the same pipe; in flush mode, none is left and the
marker round is over (R247). The write goes by the mode in which its snapshot emptied (R254). Nothing enters a pipe that drains (R51). -/
def execPipeEnter (r : RingId) (op : Nat) (s : State) : Out :=
  match s.op? r op with
  | none => .next s
  | some o =>
    match o.work.remote? r, o.msg with
    | some d, some m =>
      let path : Path := { src := .die (ringDieId r), dst := .die d }
      let x := s.pipe path
      let ahead := o.snap.all fun i => x.writes.any (·.writeOf r i)
      let may := if o.snap.isEmpty then o.free else o.stage == .queued && !s.dev.flush && ahead
      let w : PipeWrite := { window := 0, ring := r, ctx := o.ctx, who := .sequencer, op := op, msg := m }
      if s.draining || !may || !s.dev.live.getLsbD d then .next s
      else if x.lost then .next (s.refused path w)
      else
        .next ((s.enterAs path w (o.mode == some true)).modOp r op fun o => { o with stage := .piped s.curWindow })
    | _, _ => .next s

/-- A write that was sent in flush mode arrives, and is visible at once (R247); an atomic waits for a stack that takes no reads (R416). -/
def State.arrive (s : State) (r : RingId) (op : Nat) (d : DieId) : State :=
  let path : Path := { src := .die (ringDieId r), dst := .die d }
  let x := s.pipe path
  match x.writes.find? fun w => w.writeOf r op && w.flush with
  | some w => if s.msgHeld w.msg then s else (s.setPipe { x with writes := x.writes.erase w }).applyMsg w true
  | none => s

/-! ## Loads and reads -/

/-- The value of a load (R387). -/
def State.loadValue (s : State) (a : Acc) : Val :=
  let v := s.load a.key a.n
  if a.n = 64 then .tok { data := BitVec.ofNat 512 v, valid := 0xFFFF } else .sc (BitVec.ofNat 64 v)

/-- A value-returning operation performs and delivers (R240, R389). -/
def State.deliverOp (s : State) (r : RingId) (o : Op) (t0 : Target) (v : Val) : State :=
  (s.finishOp r o.id).deliverTo (.seq r) t0 v

/-- A load performs: uncorrectable data traps (R164); a pool read is where an armed injection takes place (R172). -/
def State.performLoad (s : State) (r : RingId) (o : Op) (a : Acc) (t0 : Target) : State :=
  let s1 := s.poolRead r a.key
  if s1.poisoned a.key a.n then s1.raise o.ctx r .sequencer 0x0E (s1.blockVa r) a.va
  else s1.deliverOp r o t0 (s1.loadValue a)

/-! ## Reservations (R229, R230) -/

/-- Fields of a reservation target (R394). -/
def resvChip (w : Word) : BitVec 16 := w.extractLsb' 0 16
def resvRing (w : Word) : Nat := 4 * (w.extractLsb' 16 3).toNat + (w.extractLsb' 19 2).toNat

/-- The result granted = 0 and error = 1 (R229). -/
def resvError : Word := 0x800000

/-- A reservation result reaches its LZRESV: one without a grant traps where the target is null (R229). -/
def State.resvResult (s : State) (r : RingId) (o : Op) (v : Word) (cause : Cause := 0x22) : State :=
  let s1 := s.finishOp r o.id v
  if o.ret.isNone && !v.getLsbD 22 then s1.raise o.ctx r .sequencer cause (s1.blockVa r) 0 else s1

/-- The end of the path to a chip and ring. -/
def pathTo (chip : BitVec 16) (ring : Nat) : PathEnd := if chip = ownChip then .die (Fin.ofNat 8 (ring / 4)) else .chip chip

/-- Whether a ring's traffic to an end of a path has a way left: a route that no lost port has broken, and a path that is not lost (R42, R49). -/
def State.wayTo (s : State) (r : RingId) (e : PathEnd) : Bool :=
  (match e with | .chip c => s.routed c | .die _ => true) &&
    !s.dev.pipes.any fun x => x.lost && x.path.src == .die (ringDieId r) && x.path.dst == e && e != .die (ringDieId r)

/-- LZRESV sends its request, or answers at once for an unreachable destination (R230) or a lost route (R235). -/
def State.sendResv (s : State) (r : RingId) (o : Op) (target key : Word) : State :=
  let chip := resvChip target
  let dst := resvRing target
  if !s.reachable chip (dst / 4) then s.resvResult r o resvError
  else if !s.wayTo r (pathTo chip dst) then s.resvResult r o resvError 0x33
  else
    let q : ResvReq := { chip := ownChip, ring := r, op := o.id, zone := target.extractLsb' 24 4, key := key.setWidth 16 }
    let w : PipeWrite := { window := 0, ring := r, ctx := o.ctx, who := .sequencer, op := o.id,
                           msg := .request (Fin.ofNat 32 dst) q }
    let to' := pathTo chip dst
    if s.heldBack r to' then s else (s.modOp r o.id fun o => { o with stage := .sent }).sendTo to' w

/-! ## ENQ (R139, R395) -/

/-- Why ENQ does not queue its record: its status, or none where it does (R139). -/
def State.enqRefusal (s : State) (c : CtxId) (q : Fin 4) : Option Word :=
  let k := s.queue c q.val
  if (s.ctx c).closing then some 2
  else if !k.on || !k.owner then some 3
  else if (k.prod - k.cons).toNat = k.slots then some 1
  else none

/-- The record of an ENQ is copied as it stands, PROD advances, and the master consumes it at once; SLOT is the status (R139). -/
def State.enqueue (s : State) (c : CtxId) (a : Acc) (q : Fin 4) : State × Word :=
  let k := s.queue c q.val
  let s1 :=
    match s.recordKey (k.slotAddr k.prod.toNat) with
    | some key => s.store (cellsAt key (s.mem.bytes a.key 128))
    | none => s
  ((s1.modQueue c q.val fun k => { k with prod := k.prod + 1 }).readNext c q 0 1 k.prod,
    BitVec.ofNat 64 (k.prod.toNat % k.slots * 2 ^ 16))

/-- The cause that ENQ takes for a status with a null target. -/
def enqCause (status : Word) : Cause :=
  match status.toNat with
  | 1 => 0x2B
  | 2 => 0x2C
  | _ => 0x29

/-! ## EGR (R82, R395) -/

/-- The record that EGR posts (R80): its lanes 0 to 11, an invalid lane as zero. -/
def egrRecord (r : RingId) (c : CtxId) (t : Tok) (a : Word) : Egr :=
  { kind := 0x01, ctx := BitVec.ofNat 16 c.val, a := BitVec.ofNat 32 (r.val + 256 * (a.toNat % 2 ^ 24)),
    b := (List.range 12).flatMap fun i => bytesLE 4 (if t.ok i then (t.lane i).toNat else 0) }

/-- EGR: its record joins the queue, waits for room, or is discarded from a disabled queue, which performs it. -/
def State.egr (s : State) (r : RingId) (o : Op) (t : Tok) (a : Word) : State :=
  let e := egrRecord r o.ctx t a
  let q := (s.ctx o.ctx).egq
  if !q.usable then (s.modCtx o.ctx fun x => { x with egq := x.egq.lose }).finishOp r o.id
  else
    let q1 := if q.room && q.held.isEmpty && q.waiting.isEmpty then { q with lines := q.lines ++ [(e, some (r, o.id))] }
              else { q with waiting := q.waiting ++ [(e, r, o.id)] }
    (s.modCtx o.ctx fun x => { x with egq := q1.flow }).modOp r o.id fun o => { o with stage := .started }

/-! ## What has its turn at a zone or a knot (R221, R237) -/

/-- Whether a message is a beat for a ring's zone. -/
def Msg.beatFor (m : Msg) (r n : Nat) : Bool := match m with | .beat q b => q.val == r && b.zone.toNat == n | _ => false

/-- Whether a beat for a zone is visible at its ring, or becomes so now, and has not been acted on: it comes before a timeout or a revocation of its
cycle (R237). -/
def State.beatWaits (s : State) (r n : Nat) : Bool :=
  s.dev.arrived.any (·.beatFor r n) || s.dev.pipes.any fun x => (x.writes.takeWhile (s.due x)).any (·.msg.beatFor r n)

/-- Whether an operation may take effect in this cycle: a knot word comes before the engines' adds of its cycle, a release before the
requests of its cycle, and both a release and a retirement after its beats (R221, R237). -/
def State.workTurn (s : State) (r : Nat) (w : Work) : Bool :=
  match w with
  | .kinit k .. => s.addTurn r k.toNat 0
  | .kadd k _ => s.addTurn r k.toNat 0
  | .release z .. => !s.beatWaits r z.toNat && (s.ring r).asked.look z.toNat != some (s.cycle r)
  | .retire z => !s.beatWaits r z.toNat
  | _ => true

/-! ## Performing -/

/-- An operation whose snapshot is empty takes effect at its home (R245). -/
def State.perform (s : State) (r : RingId) (o : Op) : State :=
  match o.work with
  | .load a _ t0 => s.performLoad r o a t0
  | .kread k _ t0 => s.deliverOp r o t0 (.sc ((s.ring r).knots.get {} k.toNat).word)
  | .lzstat zone slot _ t0 => s.deliverOp r o t0 (.sc (s.zoneStat r o.ctx zone.toNat (slot.map (·.toNat))))
  | .store a data lanes => (s.store ((laneCells a.key data lanes).filter fun c => c.1 < a.key + a.n)).finishOp r o.id
  | .atomic k a b c =>
    let s0 := s.poolRead r a.key
    if s0.poisoned a.key a.n then s0.spoiled r o.ctx o.id
    else
      let (s1, old) := s0.atomicApply k a.key b c
      s1.finishOp r o.id old
  | .kinit k v t => (s.modKnot r k.toNat fun _ => .init v t).finishOp r o.id
  | .kadd k n => (s.knotAdd r k.toNat n.toNat false .sequencer (s.blockVa r)).finishOp r o.id
  | .kwait .. => s.finishOp r o.id
  | .ktry .. => s.finishOp r o.id
  | .resv target key => s.sendResv r o target key
  | .declare w => (s.applyDeclare r o.ctx w).finishOp r o.id
  | .retire zone => (s.applyRetire r o.ctx zone.toNat).finishOp r o.id
  | .release zone slot _ => (s.applyRelease r o.ctx zone.toNat slot.toNat).finishOp r o.id
  | .enq a q =>
    match s.enqRefusal o.ctx q.toFin with
    | some v =>
      let s1 := s.finishOp r o.id v
      if o.ret.isNone then s1.raise o.ctx r .sequencer (enqCause v) (s1.blockVa r) a.va else s1
    | none =>
      let s0 := (s.poolRead r a.key).poolRead r (a.key + 64)
      if s0.poisoned a.key a.n then s0.spoiled r o.ctx o.id
      else
        let (s1, v) := s0.enqueue o.ctx a q.toFin
        s1.finishOp r o.id v
  | .egr t a => s.egr r o t a
  | .tlbinv va size =>
    if (s.ctx o.ctx).shootBusy then s
    else (s.modOp r o.id fun o => { o with stage := .started }).shoot o.ctx (va &&& ~~~0xFFFF ||| size.setWidth 64) (some (r, o.id))
  | _ => s

/-- OPERATION_PERFORM (R245): an operation with an empty snapshot performs at its home. In flush mode its marker round
comes first (R247), and one that stands in a pipe arrives. Engine starts, INGR and remote writes of window mode have moves
of their own. -/
def execOperationPerform (r : RingId) (op : Nat) (s : State) : Out :=
  match s.op? r op with
  | none => .next s
  | some o =>
    match o.work.remote? r, o.stage with
    | some d, .piped _ => .next (s.arrive r op d)
    | rem, st =>
      if !o.snap.isEmpty || !(st == .queued || st == .flushed) then .next s
      else if o.needsRound then .next (s.startRound r o)
      else if rem.isSome then .next s
      else
        match o.work.acc? with
        | some a =>
          let read := match o.work with | .store .. => false | _ => true
          if s.reaches a.home read then .next (s.perform r o) else .next s
        | none => if s.workTurn r o.work then .next (s.perform r o) else .next s

/-- The chip whose acknowledgement a copy's beat awaits. -/
def State.ackFrom (s : State) (r : RingId) (op : Nat) : Option (BitVec 16) :=
  s.dev.pipes.findSome? fun x => match x.path.dst with | .chip c => if x.writes.any (·.ofCopy r op) then some c else none | .die _ => none

/-- VISIBILITY_ACK (R246, R247): the acknowledgement of an engine's write returns; a marker round ends once every marker is gathered; a write that is
visible performs; or a beat of a copy to another chip is acknowledged,
by an answer that its windows hold as they hold the beat (R48). -/
def execVisibilityAck (r : RingId) (op : Nat) (ack : Stamped (Option (BitVec 6))) (s : State) : Out :=
  match s.dev.acks.find? fun a => a.1 == r && a.2.2 == op with
  | some a => .next ((s.modDev fun d => { d with acks := d.acks.erase a }).enginePerforms r a.2.1)
  | none =>
    match s.op? r op with
    | none => .next s
    | some o =>
      match o.stage with
      | .flushing => if s.markersOut r op then .next s else .next (s.modOp r op fun o => { o with stage := .flushed })
      | .landed => .next (s.finishOp r op o.value)
      | .started =>
        match s.ackFrom r op with
        | none => .next s
        | some chip =>
          match s.comesIn chip r ack.stamp (.ack r op ack.body) with
          | (s1, true) => .next (s1.copyAck r op ack.body)
          | (s1, false) => .next s1
      | _ => .next s

/-- Whether the fabric of a FORK in a snapshot has moved within 2^24 counted cycles (R244). -/
def State.fabricMoves (s : State) (r : RingId) (o : Op) : Bool :=
  (List.range 32).any fun k =>
    match (s.ring k).eng.fabric with
    | some g => g.lead == r && o.snap.contains g.op && s.counted r < g.moved + 2 ^ 24
    | none => false

/-- STRAND_ERROR_TIMEOUT (R244): 2^24 counted cycles with a non-empty snapshot and no progress in it. -/
def execStrandErrorTimeout (r : RingId) (op : Nat) (s : State) : Out :=
  match s.op? r op with
  | none => .next s
  | some o =>
    if !o.snap.isEmpty && o.stage == .queued && o.since + 2 ^ 24 ≤ s.counted r && !s.fabricMoves r o && (s.served r).isSome && !(s.ctx o.ctx).halted then
      .next (s.raise o.ctx r .sequencer 0x10 (s.blockVa r) 0)
    else .next s

/-! ## INGR (R249, R395) -/

/-- Capture's share of a consumed token is added by the host moves (R85); here the token leaves its channel. -/
def State.takeToken (s : State) (c : CtxId) (ch : Nat) : Option (State × Word) :=
  match (s.ctx c).ingress.get [] ch with
  | [] => none
  | w :: t => some (s.modCtx c fun x => { x with ingress := x.ingress.put ch t }, w)

end Sys2Proof.Machine
end

