-- ==== Sys2Proof/Machine/Capture.lean ====
section
/-!
DEFINITION. CRC-32C, capture and pinned replay (R85 to R87), and INGR_TAKE (R249, R395).
-/

namespace Sys2Proof.Machine

/-! ## CRC-32C (R216) -/

/-- One bit of the reflected polynomial 0x1EDC6F41. -/
def crcBit (c : W32) : W32 := (c >>> 1) ^^^ (if c.getLsbD 0 then 0x82F63B78 else 0)

/-- A running value over one byte. -/
def crcByte (c : W32) (b : Byte) : W32 :=
  crcBit (crcBit (crcBit (crcBit (crcBit (crcBit (crcBit (crcBit (c ^^^ b.setWidth 32))))))))

def crcRun (c : W32) (l : List Byte) : W32 := l.foldl crcByte c

/-- The CRC-32C of bytes, in order. -/
def crc32c (l : List Byte) : W32 := crcRun (BitVec.allOnes 32) l ^^^ BitVec.allOnes 32

/-! ## Capture (R85, R87) -/

/-- A write of the device to host memory: nothing outside the host range. -/
def State.hostWrite (s : State) (a : Nat) (l : List Byte) : State :=
  if hostBase ≤ a ∧ a + l.length ≤ 2 ^ 52 then s.store (cellsAt a l) else s

/-- Whether capture is on and a context selected. -/
def State.captures (s : State) (c : CtxId) : Bool := s.dev.capOn && s.dev.capCtx.getLsbD c.val

/-- The buffer has room for one more record. -/
def Dev.capRoom (d : Dev) : Bool := 64 * (d.capCount + 1) ≤ d.capSize.toNat

/-- The buffer is full: capture stops until ENABLE is set again, with its record (R85). -/
def State.captureFull (s : State) : State :=
  if s.dev.capRoom || s.dev.capStopped then s
  else (s.modDev fun d => { d with capFull := true, capStopped := true }).postDev 0x07 0 []

/-- One capture record of 64 bytes; `body` is bytes 16 to 63. One whose place lies outside the host range is written nowhere, and counted (log
104). -/
def State.capture (s : State) (c : CtxId) (kind : Nat) (body : List Byte) : State :=
  if !s.captures c || s.dev.capStopped then s
  else if s.dev.capRoom then
    let i := s.dev.capCount
    let l := bytesLE 2 kind ++ bytesLE 2 c.val ++ bytesLE 4 i ++ bytesLE 8 s.gt.toNat ++ body
    ((s.hostWrite (s.dev.capBase.toNat + 64 * i) (l ++ List.replicate (64 - l.length) 0)).modDev fun d =>
      { d with capCount := i + 1, capBytes := d.capBytes + 64 }).captureFull
  else s.captureFull

/-- The record of a consumed ingress token (R87). -/
def State.captureToken (s : State) (c : CtxId) (ch : Nat) (w : Word) : State :=
  s.capture c 1 (bytesLE 8 ch ++ bytesLE 8 w.toNat)

/-- CRC-32C of each declared input of a task in a ring's pool, and zero for one that is not valid (R85, R87). -/
def State.inputCrcs (s : State) (r : Nat) (t : Task) : List W32 :=
  t.ins.map fun d => match d with | some d => crc32c (s.mem.bytes (poolKey r (4096 * d.poff)) d.bytes) | none => 0

/-- One bit for each valid input declaration. -/
def Task.valid (t : Task) : Nat :=
  (List.range 4).foldl (fun n j => match t.ins[j]? with | some (some _) => n + 2 ^ j | _ => n) 0

/-- The record of a task start (R87). -/
def State.captureStart (s : State) (r : Nat) (t : Task) (addr : Nat) : State :=
  s.capture t.ctx 2 (bytesLE 8 addr ++ bytesLE 4 t.tile.toNat ++ bytesLE 1 r ++ bytesLE 1 t.valid ++ bytesLE 2 0 ++
    (s.inputCrcs r t).flatMap fun c => bytesLE 4 c.toNat)

/-- CAPTURE_ENABLE: a record count begins when ENABLE is set. -/
def execCaptureEnable (on : Bool) (s : State) : Out :=
  s.atReady fun s => s.modDev fun d =>
    if on && !d.capOn then { d with capOn := true, capCount := 0, capBytes := 0, capStopped := false } else { d with capOn := on }

/-! ## Replay (R86, R87) -/

/-- A context whose starts replay fixes. -/
def State.replays (s : State) (c : CtxId) : Bool := s.dev.repCtx == c && (s.dev.repActive || !s.dev.repFixed.isEmpty)

/-- REPLAY_GO: ignored with a malformed base or length, and while a replay is active. -/
def execReplayGo (c : CtxId) (s : State) : Out :=
  let b := s.dev.repBase.toNat
  if !s.dev.ready ∨ s.dev.repActive ∨ b < hostBase ∨ 2 ^ 52 ≤ b ∨ b % 64 ≠ 0 ∨ s.dev.repLen.toNat % 64 ≠ 0 then .next s
  else .next (s.modDev fun d =>
    { d with repActive := true, repCtx := c, repPos := 0, repLast := none, repFixed := [] })

/-- What the next record of a replay does; a token waits for room in its channel. -/
def State.replayStep (s : State) (n : Nat) : State :=
  let d := s.dev
  let kind := bitsOf n 0 8
  let seq : W32 := BitVec.ofNat 32 (bitsOf n 32 32)
  let on (s : State) : State :=
    s.modDev fun d =>
      { d with repPos := d.repPos + 64, repLast := some seq, repActive := d.repPos + 64 < d.repLen.toNat }
  if (kind ≠ 1 ∧ kind ≠ 2) ∨ (d.repLast.any fun l => seq ≤ l) then
    s.modDev fun d => { d.diverged with repActive := false }
  else if bitsOf n 16 16 ≠ d.repCtx.val then on s
  else if kind = 1 then
    let ch := bitsOf n 128 4
    let l := (s.ctx d.repCtx).ingress.get [] ch
    if 64 ≤ l.length then s
    else on (s.modCtx d.repCtx fun x => { x with ingress := x.ingress.put ch (l ++ [BitVec.ofNat 64 (bitsOf n 192 64)]) })
  else
    let f : FixedStart :=
      { record := bitsOf n 128 64, tile := BitVec.ofNat 32 (bitsOf n 192 32), ring := Fin.ofNat 32 (bitsOf n 224 5),
        valid := BitVec.ofNat 4 (bitsOf n 232 4), crcs := (List.range 4).map fun j => BitVec.ofNat 32 (bitsOf n (256 + 32 * j) 32) }
    on (s.modDev fun d => { d with repFixed := d.repFixed ++ [f] })

/-- REPLAY_RECORD: the next record of the stream, or its end. A record past the end of the host range is no record: DIVERGED is set and
replay ends, as for a malformed stream (log 87). -/
def execReplayRecord (s : State) : Out :=
  let d := s.dev
  if !d.repActive then .next s
  else if d.repLen.toNat ≤ d.repPos then .next (s.modDev fun d => { d with repActive := false })
  else if 2 ^ 52 < d.repBase.toNat + d.repPos + 64 then .next (s.modDev fun d => { d.diverged with repActive := false })
  else .next (s.replayStep (s.load (d.repBase.toNat + d.repPos) 64))

/-- The comparison at a start: the first input whose CRC differs from the captured one, with both (R86). -/
def State.replayDiffers (s : State) (r : Nat) (t : Task) : Option (Nat × W32 × W32) :=
  match s.dev.repFixed with
  | f :: _ =>
    if s.replays t.ctx then
      (List.range 4).findSome? fun j =>
        match t.ins[j]?, f.crcs[j]?, (s.inputCrcs r t)[j]? with
        | some (some _), some a, some b => if a = b then none else some (j, a, b)
        | _, _, _ => none
    else none
  | [] => none

/-- DIVERGED is set, with its record. -/
def State.diverge (s : State) (c : CtxId) (addr j : Nat) (a b : W32) : State :=
  (s.modDev Dev.diverged).postCtx c 0x08 (BitVec.ofNat 32 j)
    (bytesLE 8 addr ++ bytesLE 4 a.toNat ++ bytesLE 4 b.toNat)

/-! ## INGR_TAKE (R249, R395) -/

/-- Whether an INGR of the context that issued earlier still waits for the channel (R395). -/
def State.ingrAhead (s : State) (r : Nat) (o : Op) (ch : BitVec 4) : Bool :=
  (List.range 32).any fun k =>
    (s.ring k).seqr.ops.any fun p =>
      (match p.work with | .ingr n => n == ch | _ => false) && p.ctx == o.ctx &&
        (p.issuedAt < o.issuedAt || (k == r && p.id < o.id))

/-- INGR_TAKE: an INGR with an empty snapshot takes the oldest token of its channel and performs; while its context is halted tokens stay queued
(R401). -/
def execIngrTake (r : RingId) (op : Nat) (s : State) : Out :=
  match s.op? r op with
  | none => .next s
  | some o =>
    match o.work with
    | .ingr ch =>
      if !o.free || (s.ctx o.ctx).halted || s.ingrAhead r o ch then .next s
      else
        match s.takeToken o.ctx ch.toNat with
        | none => .next s
        | some (s1, w) => .next ((s1.captureToken o.ctx ch.toNat w).finishOp r op w)
    | _ => .next s

end Sys2Proof.Machine
end

