-- ==== Sys2Proof/Machine/Tasks.lean ====
section
/-!
DEFINITION. The dispatchers (R123 to R140, R414, R415): launches, placement, inputs, starts, completion, aging, migration and
gang starts; the clearing of a ring (R150) and its slices (R141, R153).
-/

namespace Sys2Proof.Machine

/-! ## Clearing and slices (R141, R150, R153, R227) -/

/-- A zone as the clearing for another context leaves it (R227). -/
def Zone.absent (z : Zone) : Zone :=
  { z with slots := z.slots.map fun e => if e.2.state = .free then e else (e.1, e.2.freed) }

/-- Whether an operation reads or writes the ring's own pool, slices, knots, zones or engines. -/
def Work.inRing : Work → Bool
  | .load a .. | .store a .. | .atomic _ a .. => a.home == .pool || a.home == .slice
  | .aperture .. | .fork .. | .kinit .. | .kadd .. | .kread .. | .declare .. | .release .. | .retire .. => true
  | _ => false

/-- Whether some engines run what an operation has started. -/
def Engines.hold (e : Engines) (op : Nat) : Bool :=
  (e.forks.any (·.op == op)) ||
    e.chans.any fun k => (k.2.queue.any (·.op == some op)) || match k.2.run with | some c => c.start.op == some op | none => false

/-- A fork or a copy that some engines do not run. -/
def Op.strayFrom (o : Op) (e : Engines) : Bool :=
  o.stage == .started && (match o.work with | .fork .. | .aperture .. => true | _ => false) && !e.hold o.id

/-- A fork or a copy whose engines are gone from the ring and from the tasks saved there: it never performs (R157, R161). -/
def Ring.orphan (x : Ring) (o : Op) : Bool := o.strayFrom x.eng && x.saved.all fun v => v.engines.all fun e => o.strayFrom e.2

/-- Whether a ring may be cleared for a context: every operation of another one that acts in the ring has performed (R150). -/
def Ring.clearable (x : Ring) (c : CtxId) : Bool :=
  x.resident == some c || x.seqr.ops.all fun o => o.ctx == c || !o.work.inRing || o.strayFrom x.eng

/-- The clearing of R150: pool, knots, cell state and residency table go, and zones stay as R227 gives. -/
def State.wipeRing (s : State) (r : Nat) (owner : Option CtxId) : State :=
  let x := s.ring r
  let zones := x.zones.map fun e =>
    match e.2.owner with
    | some o => if x.holds o then e else (e.1, e.2.absent)
    | none => e
  let s1 := { s with mem := s.mem.clear (poolKey r 0) (2 ^ 24)
                     poison := s.poison.filter fun p => !(sectorOf (poolKey r 0) ≤ p && p < sectorOf (poolKey (r + 1) 0)) }
  s1.modRing r fun x => { x with resident := owner, entered := false, residency := [], knots := [], zones := zones, eng := {}, errInject := 0, injectCount := 0 }

/-- The clearing for a context, where another one is resident or none has been. -/
def State.clearRing (s : State) (r : Nat) (c : CtxId) : State :=
  if (s.ring r).resident == some c then s else s.wipeRing r (some c)

/-- The length of a slice of a task on a ring, and whether the minimum quantum has raised it (R141, R153). -/
def State.sliceLen (s : State) (r : Nat) (t : Task) : Nat × Bool :=
  let base := 65536 * max 1 t.weight.toNat
  let m := ((s.ring r).srCycles.get 0 t.ctx.val).toNat
  if base < 2 * m then (2 * m, true) else (base, false)

/-- A slice of a task begins. -/
def State.startSlice (s : State) (r : Nat) (t : Task) : State :=
  let (len, raised) := s.sliceLen r t
  let now := s.cycle r
  s.modRing r fun x => { x with slice := { start := now, len := len, raised := raised } }

/-! ## Which contexts and rings take part (R107, R131, R133, R157) -/

/-- Whether the dispatchers place and start tasks of a context (R86, R140, R157). -/
def State.dispatches (s : State) (c : CtxId) : Bool :=
  let x := s.ctx c
  x.enable && !x.closing && !x.tearing && !x.halted && !(s.dev.repDiverged && s.dev.repStopped == some c)

/-- A staged chained task keeps new tasks off every ring of its span (R132). -/
def State.reserved (s : State) (r : Nat) : Bool :=
  (List.range 32).any fun k => (s.ring k).staged.any fun g => g.task.span != 0 && g.task.rings.contains r

/-- Whether a ring's staged place is open for a task. -/
def State.open (s : State) (r : Nat) : Bool := (s.ring r).staged.isNone && !s.reserved r && s.mayRun r && (s.die (ringDie r)).rst == .idle

/-- Whether it was open when this cycle began, and is: a place that opens takes part from the next cycle on (R414). -/
def State.openPlace (s : State) (r : Nat) : Bool := (s.ring r).wasOpen && s.open r

/-- A free ring: no current and no staged task. -/
def Ring.free (x : Ring) : Bool := x.cur.isNone && x.staged.isNone

/-- Rings of a die that an index of a record may take: open, allowed, and its own ring where it is pinned or spanned. -/
def State.places (s : State) (d : Nat) (c : CtxId) (t : TaskRec) : List Nat :=
  (dieRings d).filter fun r =>
    s.openPlace r && s.allowed c r && (!t.placed || t.ring.val == r)

/-! ## Candidates (R131, R132, R151) -/

/-- A placement: an index of a record on a die, or a saved task of a ring. -/
inductive Cand where
  | index (p : PendRec) (tile : Nat)
  | saved (p : PendRec) (r : Nat) (v : Saved)

def Cand.record : Cand → PendRec
  | .index p _ => p
  | .saved p _ _ => p

/-- The place of its index in the record's range. -/
def Cand.offset : Cand → Nat
  | .index p n => p.offset n
  | .saved p _ v => p.offset v.task.tile.toNat

/-- Effective priority (R132). -/
def PendRec.priority (p : PendRec) : Nat := min 3 (p.fields.prio + p.levels)

/-- Saved tasks of a context on a die whose ring is open, with their records. A change of CTX_RINGS does not reach a task that has started
(R106). -/
def State.savedCands (s : State) (d : Nat) (c : CtxId) : List Cand :=
  (dieRings d).flatMap fun r =>
    if s.openPlace r then
      (s.ring r).saved.filterMap fun v =>
        if v.task.ctx == c then ((s.ctx c).table.find? fun p => p.key == v.task.record).map fun p => .saved p r v else none
    else []

/-- The starts that replay still has to fix, oldest first, without those that are staged (R87). -/
def State.fixed (s : State) : List FixedStart :=
  s.dev.repFixed.filter fun f =>
    !((List.range 32).any fun r => (s.ring r).staged.any fun g => g.task.ctx == s.dev.repCtx && g.task.tile == f.tile &&
        (s.ctx s.dev.repCtx).table.any fun p => p.key == g.task.record && p.addr == f.record)

/-- Ready indices of a context on a die, oldest record first, lowest index first, that have a place there. Under replay only
the next captured start, on its captured ring, is one. -/
def State.indexCands (s : State) (d : Nat) (c : CtxId) : List (Cand × List Nat) :=
  (s.ctx c).table.flatMap fun p =>
    if !p.ready then []
    else if s.replays c then
      match s.fixed with
      | f :: _ =>
        if p.addr = f.record ∧ (p.shares.any fun e => e.2.contains f.tile.toNat) ∧ ringDie f.ring.val = d ∧ s.openPlace f.ring.val then
          [(.index p f.tile.toNat, [f.ring.val])]
        else []
      | [] => []
    else
      match (p.inOrder (p.shares.get [] d)), s.places d c p.fields with
      | n :: _, r :: rs => [(.index p n, r :: rs)]
      | _, _ => []

/-- Every candidate of a context, with the rings that it may take. -/
def State.cands (s : State) (d : Nat) (c : CtxId) : List (Cand × List Nat) :=
  if s.dispatches c then
    (s.savedCands d c).map (fun k => (k, match k with | .saved _ r _ => [r] | .index .. => [])) ++ s.indexCands d c
  else []

/-- Position of a record in the age order of its context. -/
def State.age (s : State) (c : CtxId) (p : PendRec) : Nat := (s.ctx c).table.findIdx fun q => q.key == p.key

/-- R131, steps 2 and 3: priority, age, index. -/
def State.before (s : State) (c : CtxId) (a b : Cand) : Bool :=
  let pa := a.record.priority
  let pb := b.record.priority
  pb < pa || (pa == pb && (s.age c a.record < s.age c b.record || (s.age c a.record == s.age c b.record && a.offset < b.offset)))

/-- The first of a list by an order. -/
def firstBy {α : Type} (lt : α → α → Bool) : List α → Option α
  | [] => none
  | a :: t => some (t.foldl (fun m b => if lt b m then b else m) a)

/-! ## Choosing a ring (R133) -/

/-- An input of an index, with INDEXED applied (R121). -/
def InDecl.forTile (d : InDecl) (t : TaskRec) (tile : Nat) : InDecl :=
  if d.indexed then { d with src := d.src + BitVec.ofNat 64 ((tile + 2 ^ 32 - t.ibase) % 2 ^ 32 * d.bytes), indexed := false } else d

/-- Whether a ring's residency table makes an input resident (R133). -/
def Ring.matched (x : Ring) (c : CtxId) (d : InDecl) : Bool :=
  d.keep && x.resident == some c && x.residency.any fun e => e.src == d.src && e.bytes == d.bytes && e.poff == d.poff

/-- The keys of R133, in order; the lowest ring wins. -/
def State.ringBefore (s : State) (c : CtxId) (ins : List InDecl) (a b : Nat) : Bool :=
  let key (r : Nat) : Nat × Nat × Nat × Nat :=
    let x := s.ring r
    ((if x.free then 0 else 1), 4 - (ins.filter (x.matched c ·)).length, 8 - (s.thermAllow r).toNat / 32, r)
  let (a0, a1, a2, a3) := key a
  let (b0, b1, b2, b3) := key b
  a0 < b0 || (a0 == b0 && (a1 < b1 || (a1 == b1 && (a2 < b2 || (a2 == b2 && a3 < b3)))))

/-- The task of an index (R135). -/
def PendRec.task (p : PendRec) (c : CtxId) (tile : Nat) (lead : RingId) : Task :=
  let t := p.fields
  { ctx := c, record := p.key, queue := p.queue, index := p.index, tile := BitVec.ofNat 32 tile,
    count := BitVec.ofNat 32 t.icount, arg := t.arg, entry := t.entry, live := t.live, yclass := t.yclass, span := t.span,
    lead := lead, gangId := p.gangId, ins := t.ins.map fun d => d.map fun d => d.forTile t tile }

/-- An index becomes the staged task of a ring; inputs that its residency table holds are resident. -/
def State.stage (s : State) (c : CtxId) (p : PendRec) (tile : Nat) (r : RingId) : State :=
  let t := p.task c tile r
  let x := s.ring r
  let need := (List.range 4).filter fun j => match t.ins[j]? with | some (some d) => !x.matched c d | _ => false
  let g : Staged := { task := t, need := need, since := s.cycle r, migrate := p.fields.migrate && !p.fields.pinned && p.fields.span == 0 && !p.fields.gang,
                      tick := if p.fields.gang then some p.tick else none }
  (s.modRing r fun x => { x with staged := some g }).modRec c p.key fun q =>
    { q with shares := q.shares.map fun e => (e.1, e.2.filter (· != tile)), started := tile :: q.started }

/-- A candidate takes its ring. -/
def State.place (s : State) (c : CtxId) (k : Cand) (rings : List Nat) : State :=
  match k with
  | .saved _ r v => s.modRing r fun x => { x with staged := some { task := v.task, resumes := true } }
  | .index p n =>
    let ins := p.fields.ins.filterMap fun d => d.map fun d => d.forTile p.fields n
    match firstBy (s.ringBefore c ins) rings with
    | some r => s.stage c p n (Fin.ofNat 32 r)
    | none => s

/-- Gang records whose tick has come before their index has a ring (R138). -/
def State.lateGangs (s : State) : State :=
  (List.finRange 64).foldl (fun s (c : CtxId) =>
    (s.ctx c).table.foldl (fun s p =>
      if p.fields.gang && p.started.isEmpty && p.tick.toNat ≤ s.gt.toNat && !(s.ctx c).halted && !(s.ctx c).closing then
        s.recordTrap c 0x2D p.addr
      else s) s) s

/-- An index that was placed and has not started goes back to the share of its die, or where that die is not eligible any more waits for a new
split (R128, R129). -/
def PendRec.giveBack (p : PendRec) (n : Nat) (d : Nat) (eligible : Bool) : PendRec :=
  let q := { p with started := p.started.filter (· != n) }
  if eligible && !p.fields.placed then { q with shares := q.shares.put d (q.inOrder (n :: q.shares.get [] d)) } else { q with unsplit := q.unsplit ++ [n] }

/-- A staged task whose context no longer has a ring of it goes back to its record (R106, R107). -/
def State.recall (s : State) (r : Nat) : State :=
  match (s.ring r).staged with
  | some g =>
    let c := g.task.ctx
    if g.resumes || !s.dispatches c || g.task.rings.all (s.allowed c ·) then s
    else
      (s.modRing r fun x => { x with staged := none }).modRec c g.task.record fun p =>
        p.giveBack g.task.tile.toNat (ringDie r) ((s.eligible c).any (·.val == ringDie r))
  | none => s

/-- Whether a dispatcher may make a placement: one in a cycle whose number is a multiple of 8 (R131, R414). -/
def State.placeTurn (s : State) (d : Nat) : Bool :=
  let n := p0Cycles s.gt.toNat
  n % 8 == 0 && (s.die d).placedAt.all fun t => p0Cycles t != n

/-- The dispatchers have placed or started a task of a context in this cycle (R140). -/
def State.acted (s : State) (c : Nat) : State := s.modCtx c fun x => { x with actedAt := some (p0Cycles s.gt.toNat) }

/-- A placement is made; a context whose last ready index it took has none until it gains one (R131). -/
def State.placed (s : State) (d : Nat) : State :=
  s.modDie d fun x => { x with placedAt := some s.gt.toNat, hadReady := x.hadReady.filter fun c => s.hasReady d (Fin.ofNat 64 c) }

/-- PLACEMENT (R131 to R133): at most one index of the die's share, or saved task of its rings, takes an open place. -/
def execPlacement (d : DieId) (s : State) : Out :=
  if !s.dev.live.getLsbD d || !s.placeTurn d then .next s
  else
    let s0 := (dieRings d.val).foldl State.recall s
    let s1 := (((List.finRange 64).foldl (fun s c => if s.dispatches c then s.settle c else s) s0).lateGangs).passes d
    let choice := (List.finRange 64).filterMap fun c =>
      (firstBy (fun a b => s1.before c a.1 b.1) (s1.cands d c)).map fun k => (c, k)
    match firstBy (fun a b => (s1.die d).passOf a.1.val < (s1.die d).passOf b.1.val) choice with
    | some (c, k, rings) => .next (((s1.place c k rings).placed d).acted c)
    | none => .next s1

/-! ## Inputs (R134, R415) -/

/-- Whether the copy of an input may go on (R415). -/
def State.mayCopy (s : State) (r : Nat) (g : Staged) (d : InDecl) : Bool :=
  let x := s.ring r
  match x.cur with
  | some t => x.resident == some g.task.ctx &&
      !(t.ctx == g.task.ctx && x.inputRanges.any (overlaps (4096 * d.poff, d.bytes)))
  | none => x.clearable g.task.ctx && x.saving.isNone

/-- PREFETCH_COMPLETE (R134): the copy of input `j` of a ring's staged task performs, or faults. A stack that holds its reads
back takes none (R416). -/
def execPrefetchComplete (r : RingId) (j : Fin 4) (s : State) : Out :=
  match (s.ring r).staged with
  | none => .next s
  | some g =>
    match g.task.ins[j.val]? with
    | some (some d) =>
      let c := g.task.ctx
      if !g.need.contains j.val || !s.dispatches c || !s.mayCopy r g d then .next s
      else
        let s0 := if (s.ring r).cur.isNone then s.clearRing r c else s
        match (uncoreSectors (ringDie r) c (s.ctx c).priv (d.bytes / 64) d.src).go s0 with
        | (.error (e, va), s1) =>
          if e = heldRead then .next s else
          let addr : Word := match (s.ctx c).table.find? fun p => p.key == g.task.record with | some p => BitVec.ofNat 64 p.addr | none => 0
          .next (s1.raise c r .prefetch e addr va)
        | (.ok keys, s1) =>
          let bytes := keys.flatMap fun k => s1.mem.bytes k 64
          let s2 := s1.store (cellsAt (poolKey r (4096 * d.poff)) bytes)
          .next (s2.modRing r fun x =>
            { x with staged := x.staged.map fun g => { g with need := g.need.filter (· != j.val), since := s.cycle r } })
    | _ => .next s

/-! ## Starts (R135, R137, R138) -/

/-- Whether a staged task's rings are free for it and its context's, and its inputs resident (R106, R107, R135). -/
def State.mayStart (s : State) (r : Nat) (g : Staged) : Bool :=
  let c := g.task.ctx
  !g.resumes && g.need.isEmpty && s.dispatches c &&
    g.task.rings.all (fun k =>
      let x := s.ring k
      s.allowed c k && x.cur.isNone && x.saving.isNone && (k == r || x.staged.isNone) && s.mayRun k && (s.die (ringDie k)).rst == .idle &&
        x.clearable c) &&
    (!s.replays c || (match s.dev.repFixed with
      | f :: _ => f.tile == g.task.tile && f.ring.val == r && (s.ctx c).table.any fun p => p.key == g.task.record && p.addr == f.record
      | [] => false))

/-- The sequencer of a task that starts (R135). -/
def Seqr.begin (q : Seqr) (entry : Word) (priv : Bool) : Seqr :=
  { pc := entry, priv := priv, ops := q.ops, nextOp := q.nextOp }

/-- A task takes its rings (R106, R109, R135, R137). The declarations of a chained task are of its lead ring's pool, so the table of every other
ring of the span is left empty (R133; log 85). -/
def State.begin (s : State) (t : Task) : State :=
  let x := s.ctx t.ctx
  let t := { t with weight := x.weight }
  let s1 := t.rings.foldl (fun s k =>
    let s := (s.clearRing k t.ctx).touch t.ctx (.die (Fin.ofNat 8 (ringDie k)))
    s.modRing k fun y => { y with cur := some t, entered := true, residency := [], stripes := x.stripes, forcedLast := false, seqr := y.seqr.begin t.entry x.priv }) s
  (s1.startSlice t.lead t).modRing t.lead fun y =>
    { y with staged := none, residency := t.ins.filterMap fun d => d.filter (·.keep) }

/-- The pass value of a context rises at a start, with the dispatcher of the die of the lead ring (R131, log 101). -/
def State.pass (s : State) (r : Nat) (c : CtxId) : State :=
  let w := max 1 (s.ctx c).weight.toNat
  s.modDie (ringDie r) fun x => { x with pass := x.pass.put c.val (x.passOf c.val + 65536 / w) }

/-- The staged task of a ring starts, or its inputs differ from those that replay expects (R86). -/
def State.start (s : State) (r : RingId) (g : Staged) : State :=
  let t := g.task
  let addr := match (s.ctx t.ctx).table.find? fun p => p.key == t.record with | some p => p.addr | none => 0
  match s.replayDiffers r t with
  | some (j, a, b) => s.diverge t.ctx addr j a b
  | none =>
    let s1 := if s.replays t.ctx then s.modDev fun d => { d with repFixed := d.repFixed.drop 1 } else s
    (((s1.begin t).pass r t.ctx).captureStart r t addr).acted t.ctx

/-- TASK_START (R135): a staged task that no tick holds back. -/
def execTaskStart (r : RingId) (s : State) : Out :=
  match (s.ring r).staged with
  | some g => if g.tick.isNone && s.mayStart r g then .next (s.start r g) else .next s
  | none => .next s

/-- A tick that passes with an input of its gang not resident, or its ring not free, is missed (R138). -/
def State.missTick (before : Nat) (s : State) (r : Nat) : State :=
  match (s.ring r).staged with
  | some g =>
    match g.tick with
    | some t =>
      if before < t.toNat && t.toNat ≤ s.gt.toNat && !s.mayStart r g then s.modRing r fun x => { x with staged := some { g with missed := true } }
      else s
    | none => s
  | none => s

/-- GANG_START (R138): at its tick a gang task starts, or its device traps. -/
def execGangStart (r : RingId) (s : State) : Out :=
  match (s.ring r).staged with
  | some g =>
    match g.tick with
    | none => .next s
    | some t =>
      if s.gt.toNat < t.toNat || !s.dispatches g.task.ctx then .next s
      else if s.mayStart r g && !g.missed then .next (s.start r g)
      else
        match (s.ctx g.task.ctx).table.find? fun p => p.key == g.task.record with
        | some p => .next (s.recordTrap g.task.ctx 0x2D p.addr)
        | none => .next s
  | none => .next s

/-! ## Launches (R76, R123) -/

/-- BAD for a channel, with its record of kind 2 (R76, R123). -/
def State.badLaunch (s : State) (c : CtxId) (q : Fin 4) (w : Word) : State :=
  (s.modCtx c fun x => { x with bad := x.bad ||| (1#16 <<< q.val) }).postCtx c 0x04 (BitVec.ofNat 32 (q.val + 0x200)) (bytesLE 8 w.toNat)

/-- LAUNCH_CONSUME (R123): records that are queued and still to be read come first; else the next token of launch channel `q`. -/
def execLaunchConsume (c : CtxId) (q : Fin 4) (s : State) : Out :=
  let x := s.ctx c
  if !x.enable || x.closing || x.halted then .next s
  else
    match x.unread, s.takeToken c q.val with
    | (p, launch, n, i) :: rest, _ => .next ((s.modCtx c fun x => { x with unread := rest }).readQueue c p launch n i)
    | [], none => .next s
    | [], some (s0, w) =>
      let s1 := s0.captureToken c q.val w
      let k := s1.queue c q.val
      let prod : W32 := w.setWidth 32
      let ahead := (prod - k.cons).toNat
      if w.extractLsb' 32 31 != 0 || !k.on || k.owner || ahead ≤ (k.prod - k.cons).toNat || k.slots < ahead then
        .next (s1.badLaunch c q w)
      else
        let id := x.nextLaunch + 1
        let l : Launch := { id := id, queue := q, first := k.prod, prod := prod, report := w.getLsbD 63 }
        let s2 := (s1.modQueue c q.val fun k => { k with prod := prod }).modCtx c fun x =>
          { x with launches := x.launches ++ [l], nextLaunch := id }
        .next (s2.readQueue c q id (prod - k.prod).toNat k.prod)

/-! ## Completion (R81, R125, R126) -/

/-- Whether every index of a record has committed DONE (R124). -/
def PendRec.complete (p : PendRec) : Bool :=
  p.ready && p.unsplit.isEmpty && p.shares.all (fun e => e.2.isEmpty) && p.done.dedup.length == p.fields.icount

/-- A successor's WAIT falls by one (R125). Where it reads zero, or its slot is in no memory of the device, FAULT_VA of the 0x29 names the slot;
the other successors are decremented and the record retires all the same (log 83). -/
def State.decrement (s : State) (c : CtxId) (succ : BitVec 2 × Nat) : State :=
  let addr := (s.queue c succ.1.toNat).slotAddr succ.2
  match s.recordKey (addr + 0x20) with
  | none => s.recordTrap c 0x29 addr
  | some key =>
    let w := s.load key 4
    if w = 0 then s.recordTrap c 0x29 addr else s.store (cellsAt key (bytesLE 4 (w - 1)))

/-- CONS passes retired records (R126); `fuel` is the queue's size. -/
def State.passCons (s : State) (c : CtxId) (q : Nat) : Nat → State
  | 0 => s
  | fuel + 1 =>
    let k := s.queue c q
    if (s.ctx c).table.any fun p => p.queue.val == q && p.index == k.cons && p.retired then
      State.passCons ((s.modCtx c fun x => { x with table := x.table.filter fun p => !(p.queue.val == q && p.index == k.cons) }).modQueue
        c q fun k => { k with cons := k.cons + 1 }) c q fuel
    else s

/-- Whether a launch has completed: each of its records has been passed by CONS or has retired, its operations performed with it (R81, R125,
R250). -/
def State.launchDone (s : State) (c : CtxId) (l : Launch) : Bool :=
  let k := s.queue c l.queue.val
  (List.range (l.prod - l.first).toNat).all fun n =>
    let i := l.first + BitVec.ofNat 32 n
    (k.prod - k.cons).toNat ≤ (i - k.cons).toNat ||
      (s.ctx c).table.any fun p => p.queue == l.queue && p.index == i && p.retired

/-- LAUNCH_DONE records of a queue, in launch order; `fuel` is the number of launches. -/
def State.reportLaunches (s : State) (c : CtxId) (q : Fin 4) : Nat → State
  | 0 => s
  | fuel + 1 =>
    match (s.ctx c).launches.find? fun l => l.queue == q with
    | some l =>
      if s.launchDone c l then
        let s1 := s.modCtx c fun x => { x with launches := x.launches.filter (·.id != l.id) }
        State.reportLaunches (if l.report then s1.postCtx c 0x02 (BitVec.ofNat 32 q.val) (bytesLE 4 l.prod.toNat) else s1) c q fuel
      else s
    | none => s

/-- A write of an operation, or of an engine that it started, is on its way to a die, or its acknowledgement on the way back. -/
def State.onWay (s : State) (r op : Nat) : Bool :=
  (s.dev.pipes.any fun x => (pathDie? x.path.dst).isSome && x.writes.any fun w =>
    w.ring.val == r && w.op == op && match w.msg with | .write _ | .spoil _ | .atomic .. | .reduce .. => true | _ => false) ||
    s.dev.acks.any fun a => a.1.val == r && a.2.2 == op

/-- Whether something that an operation does is still to perform (R125); what no engine runs any more never does. -/
def State.outstanding (s : State) (r op : Nat) : Bool :=
  (match s.op? r op with | some o => !(s.ring r).orphan o | none => false) || s.onWay r op

/-- Whether the WAIT of a successor lies in a stack that takes no reads now (R416). -/
def State.waitHeld (s : State) (c : CtxId) (succ : BitVec 2 × Nat) : Bool :=
  match s.recordKey ((s.queue c succ.1.toNat).slotAddr succ.2 + 0x20) with
  | some key => s.heldKey key
  | none => false

/-- RECORD_COMPLETE (R125): once every operation of its tasks has performed, successors are decremented and it retires. -/
def execRecordComplete (c : CtxId) (rec : Nat) (s : State) : Out :=
  match (s.ctx c).table.find? fun p => p.key == rec with
  | none => .next s
  | some p =>
    if p.retired || !p.complete || (s.ctx c).closing || p.left.any (fun e => s.outstanding e.1 e.2) || p.fields.succs.any (s.waitHeld c) then .next s
    else
      let s1 := p.fields.succs.foldl (fun s k => s.decrement c k) s
      let s2 := ((s1.modRec c rec fun p => { p with retired := true }).settle c)
      let s3 := s2.reportLaunches c p.queue (s2.ctx c).launches.length
      .next (s3.passCons c p.queue.val (s3.queue c p.queue.val).slots)

/-! ## Aging and migration (R132, R136) -/

/-- PRIORITY_AGING: 2^20 cycles more without a start. -/
def execPriorityAging (c : CtxId) (rec : Nat) (s : State) : Out :=
  match (s.ctx c).table.find? fun p => p.key == rec with
  | none => .next s
  | some p =>
    if p.ready && (!p.unsplit.isEmpty || p.shares.any fun e => !e.2.isEmpty) && p.priority < 3 &&
        (p.levels + 1) * 2 ^ 20 ≤ p0Cycles (s.gt.toNat - p.readyAt) then
      .next (s.modRec c rec fun p => { p with levels := p.levels + 1 })
    else .next s

/-- Neighbours of a ring, those of its die first, each by number (R136). -/
def neighbours (r : Nat) : List Nat :=
  let i := r % 4
  (if 0 < i then [r - 1] else []) ++ (if i < 3 then [r + 1] else []) ++ (if 4 ≤ r then [r - 4] else []) ++ (if r < 28 then [r + 4] else [])

/-- The pool bytes of an input go to another ring's pool; poison goes with them. -/
def State.copyInput (s : State) (from' to' : Nat) (d : InDecl) : State :=
  let a := poolKey from' (4096 * d.poff)
  let b := poolKey to' (4096 * d.poff)
  let bad := (List.range (d.bytes / 64)).filter fun k => s.poison.contains (sectorOf a + k)
  bad.foldl (fun t k => t.mark (sectorOf b + k)) (s.store (cellsAt b (s.mem.bytes a d.bytes)))

/-- MIGRATION (R136): a staged task that has waited moves to the first free neighbour, once that ring may be cleared for it (R150). -/
def execMigration (r : RingId) (s : State) : Out :=
  let x := s.ring r
  match x.staged, x.cur with
  | some g, some _ =>
    let c := g.task.ctx
    let at' := (neighbours r.val).find? fun n => (s.ring n).free && s.open n && s.allowed c n
    match at' with
    | some n =>
      if !(s.ring n).clearable c || !g.migrate || g.moved || g.resumes || !g.need.isEmpty || s.cycle r < g.since + 4096 || s.replays c || !s.dispatches c then .next s
      else
        let s1 := (g.task.ins.filterMap id).foldl (fun s d => s.copyInput r n d) (s.clearRing n c)
        let g1 : Staged := { g with task := { g.task with lead := Fin.ofNat 32 n }, moved := true, since := s.cycle n }
        .next ((s1.modRing r fun x => { x with staged := none }).modRing n fun x => { x with staged := some g1 })
    | none => .next s
  | _, _ => .next s

/-! ## The cycles of the dispatchers (R140, R414) -/

/-- CLOSING reads 1, launch tokens are discarded, and running tasks stop as under a halt (R140). -/
def State.tearDown (s : State) (c : CtxId) : State :=
  ((s.runRings c).foldl State.stopRing s).modCtx c.val fun x =>
    { x with enable := false, closing := true, tearing := false, unread := [], ingress := x.ingress.filter (4 ≤ ·.1) }

/-- A cycle of the dispatchers begins, as ground time passes from `before`: a teardown that was written in the last one takes effect (R140), and
the places that are open now take part in it (R414). -/
def State.newCycle (before s : State) : State :=
  if p0Cycles before.gt.toNat = p0Cycles s.gt.toNat then s
  else
    let s1 := (List.finRange 64).foldl (fun s c => if (s.ctx c).tearing then s.tearDown c else s) s
    (List.range 32).foldl (fun s r => if (s.ring r).wasOpen = before.open r then s else s.modRing r fun x => { x with wasOpen := before.open r }) s1

/-- What the passing of ground time from `before` does to the dispatchers (R138, R140, R414). -/
def State.timePassed (before s : State) : State := (List.range 32).foldl (State.missTick before.gt.toNat) (State.newCycle before s)

end Sys2Proof.Machine
end

