-- ==== Sys2Proof/Machine/ForkLoad.lean ====
section
/-!
DEFINITION. What FORK reads and checks (R181, R384, R175 to R177, R190 to R193, R202 to R206, R294, R359, R375): the pattern header,
the section table and its items, configurations, walker descriptors and initial state.
-/

namespace Sys2Proof.Machine

/-! ## Reading -/

/-- An engine command block of version 1, as far as its own SIZE goes (R100); `defined` counts 16-byte units. -/
def readBlock (r : Nat) (c : CtxId) (va : Word) (defined : Nat) : Load Nat := do
  let h ← readNum r c va 16
  failIf (bitsOf h 0 8 != 1 || bitsOf h 8 8 < defined) 0x1F va
  readNum r c va (16 * bitsOf h 8 8)

/-- Nonzero bytes past the defined size of a block (R100). -/
def trailing (n defined : Nat) : Bool := n / 2 ^ (128 * defined) != 0

/-! ## The pattern header (R181) -/

def PatHdr.parse (n : Nat) : PatHdr :=
  { v := bitsOf n 16 10 + 1, q := bitsOf n 32 13, d := bitsOf n 48 3, runlvl := bitsOf n 51 3, period := bitsOf n 54 1 == 1,
    nseg := bitsOf n 56 3, nclause := bitsOf n 64 8, wrap := bitsOf n 80 16, sect := BitVec.ofNat 64 (bitsOf n 128 64) }

/-- A nonzero bit in a field that the header gives as zero. -/
def hdrUnknown (n : Nat) : Bool :=
  bitsOf n 26 6 != 0 || bitsOf n 45 3 != 0 || bitsOf n 55 1 != 0 || bitsOf n 59 5 != 0 || bitsOf n 72 8 != 0 || bitsOf n 96 32 != 0 ||
    bitsOf n 192 64 != 0 || trailing n 2

def readHeader (r : Nat) (c : CtxId) (va : Word) : Load PatHdr := do
  let n ← readBlock r c va 2
  let h := PatHdr.parse n
  failIf (hdrUnknown n) 0x1E va
  failIf (h.q < 16 || 4096 < h.q || h.d == 7) 0x02 va
  failIf (h.d < h.runlvl) 0x18 va
  pure h

/-! ## The section table (R384) -/

/-- The table by type: each section's count of items and address. -/
def readSections (r : Nat) (c : CtxId) : Nat → Word → Tab (Nat × Word) → Load (Tab (Nat × Word))
  | 0, _, t => pure t
  | fuel + 1, va, t => do
    let n ← readNum r c va 16
    let ty := bitsOf n 0 8
    if ty = 0 then pure t
    else
      failIf (9 < ty || (t.look ty).isSome || bitsOf n 8 8 != 0 || bitsOf n 32 32 != 0) 0x1E va
      readSections r c fuel (va + 16) (t.put ty (bitsOf n 16 16, BitVec.ofNat 64 (bitsOf n 64 64)))

/-- The items of a section, each with its address; a nonzero bit in a zero field fails. -/
def readItems (r : Nat) (c : CtxId) (t : Tab (Nat × Word)) (ty size : Nat) (unknown : Nat → Bool) : Load (List (Nat × Word)) :=
  match t.look ty with
  | none => pure []
  | some (n, a) =>
    (List.range n).mapM fun k => do
      let va := a + BitVec.ofNat 64 (size * k)
      let x ← readNum r c va size
      failIf (unknown x) 0x1E va
      pure (x, va)

/-- A configuration item with its words. -/
structure ConfItem where
  v : Nat
  first : Nat
  last : Nat
  addr : Word
  conf : Config
  words : List W32
  deriving DecidableEq, Repr

/-- An island item with its tables. -/
structure IslandItem where
  v : Nat
  island : Nat
  plane : Nat
  tables : List (BitVec 16)
  deriving DecidableEq, Repr

/-- A port buffer with its port: a walker's, or a shuttle-side port's. -/
structure PortBuf where
  dir : Dir
  port : PortId
  first : Nat
  bytes : Nat
  deriving DecidableEq, Repr

/-- A walker with its direction and buffer. -/
structure WalkItem where
  buf : PortBuf
  walker : Walker
  deriving DecidableEq, Repr

/-- All that FORK reads of an image before it fills state. -/
structure Image where
  hdr : PatHdr
  fabric : Bool
  confs : List ConfItem
  walks : List WalkItem
  starts : List (ChanId × Word)
  islands : List IslandItem
  inits : List (Nat × Word)
  clauses : List Clause
  segs : List Nat
  sides : List PortBuf
  errKnot : Option (BitVec 6)
  deriving DecidableEq, Repr

/-! ## Configurations (R175 to R177, R259, R285, R294) -/

/-- A configuration from its words: port word, channel table, header, block and pool. -/
def Config.ofWords (w : List W32) : Config :=
  let h := w.getD 33 0
  { portWord := w.getD 0 0, chans := (w.drop 1).take 32, header := h, words := (w.drop 34).take (headerCount h),
    pool := if h.getLsbD 7 then w.drop (35 + headerCount h) else [] }

/-- Whether a configuration's length agrees with its block header. -/
def lengthOk (w : List W32) : Bool :=
  let h := w.getD 33 0
  let n := 34 + headerCount h
  34 ≤ w.length && (if h.getLsbD 7 then n < w.length && n + 1 + headerCount (w.getD n 0) == w.length else n == w.length)

def Config.ein (c : Config) : Bool := c.portWord.getLsbD 31
def Config.iport (c : Config) : Nat := (c.portWord.extractLsb' 28 3).toNat
def Config.eout (c : Config) : Bool := c.portWord.getLsbD 27
def Config.oport (c : Config) : Nat := (c.portWord.extractLsb' 24 3).toNat

/-- The inlet field of a channel-table entry. -/
def inletField (e : W32) : Nat := (e.extractLsb' 0 9).toNat

/-- An instruction of a block for which a test holds. -/
def Config.uses (c : Config) (f : Instr → Bool) : Bool :=
  (List.range c.words.length).any fun k => match wordAt c.words k with | some i => f i | none => false

/-- An OUT to a port without a link in column `j` (R175). -/
def Config.linkless (c : Config) (j : Nat) : Bool :=
  c.uses fun i =>
    match i with
    | .out _ .left _ => j == 0
    | .out _ .right _ => j == 31
    | .out _ .edge _ => !c.eout
    | _ => false

/-- The cause of a channel-table entry (R177, R259). -/
def chanCause (words : Nat) (e : W32) : Option Cause :=
  let fmt := (e.extractLsb' 28 4).toNat
  let block := e.getLsbD 27
  let spare := e.getLsbD 26
  if e.extractLsb' 9 12 != 0 || (block && !(3 ≤ fmt && fmt ≤ 5)) || (spare && !(fmt == 5 && block)) then some 0x02
  else if e.getLsbD 21 && (inletField e == 0x1FF || words ≤ inletField e % 128 || 9 ≤ fmt) then some 0x13
  else none

/-- The check of a configuration's block (R294, R384): its cause and the address that VA names. -/
def blockCause (addr : Word) (w : List W32) : Option (Cause × Word) :=
  let c := Config.ofWords w
  let items := (c.chans.filter fun e => inletField e != 0x1FF).length
  if !lengthOk w then some (0x03, addr)
  else
    match headerCause .streaming c.header items (if c.header.getLsbD 7 then w[34 + headerCount c.header]? else none),
        wordsCause .streaming c.words c.pool.length with
    | some e, _ => some (e, addr + 132)
    | none, some (e, k) => some (e, addr + BitVec.ofNat 64 (4 * (34 + k)))
    | none, none => none

/-- The checks of R175 to R177 on a configuration in columns `first` to `last`. -/
def linkCause (first last : Nat) (c : Config) : Option Cause :=
  if c.portWord.extractLsb' 0 24 != 0 then some 0x02
  else if (List.range 32).any fun j => first ≤ j && j ≤ last && c.linkless j then some 0x13
  else c.chans.findSome? fun e => chanCause c.words.length e

/-- A configuration's words as FORK loads them: the copy that the block stores of its ring hold, unless it is stale; else a block fetch
(R94 to R96). -/
def readWords (r : Nat) (c : CtxId) (home : Nat) (addr : Word) (len : Nat) : Load (List W32) := do
  let s ← get
  match (s.ring home).blocks.find? fun b => b.ctx == c && b.addr == addr && b.words.length == len && !b.stale with
  | some b => pure b.words
  | none =>
    let bs ← readBytes r c addr (4 * len) .exec
    pure (wordsOf bs)

/-- A configuration item as the section has it (R384). -/
structure ConfRef where
  v : Nat
  first : Nat
  last : Nat
  addr : Word
  len : Nat
  deriving DecidableEq, Repr

def ConfRef.parse (n : Nat) : ConfRef :=
  { v := bitsOf n 0 16, first := bitsOf n 16 8, last := bitsOf n 24 8, addr := BitVec.ofNat 64 (bitsOf n 64 64), len := bitsOf n 32 16 }

/-- The checks of an item that need no word of it; a column range that is none takes its own address. -/
def confRef (x : Nat × Word) : Load ConfRef := do
  let k := ConfRef.parse x.1
  failIf (k.last < k.first || 31 < k.last) 0x02 x.2
  failIf (k.addr.toNat % 4 != 0) 0x0C k.addr
  pure k

/-- A configuration with its words, its block checked; `home` names the ring that runs a virtual stripe. -/
def readConf (r : Nat) (c : CtxId) (home : Nat → Nat) (k : ConfRef) : Load ConfItem := do
  let w ← readWords r c (home k.v) k.addr k.len
  match blockCause k.addr w with
  | some e => throw e
  | none => pure { v := k.v, first := k.first, last := k.last, addr := k.addr, conf := .ofWords w, words := w }

/-- The checks of R175 to R177 on a configuration that has been loaded. -/
def linkConf (k : ConfItem) : Load Unit :=
  match linkCause k.first k.last k.conf with
  | some e => throw (e, k.addr)
  | none => pure ()

/-- Whether two configuration items cover one column of one virtual stripe. -/
def ConfRef.meets (a b : ConfRef) : Bool := a.v == b.v && a.first ≤ b.last && b.first ≤ a.last

/-! ## Walker descriptors (R203, R204) -/

/-- A nonzero bit in a field of a descriptor that is zero. -/
def walkerUnknown (n : Nat) : Bool :=
  let depth := bitsOf n 32 3
  bitsOf n 20 4 != 0 || bitsOf n 27 5 != 0 || bitsOf n 35 5 != 0 || bitsOf n 45 3 != 0 ||
    (bitsOf n 16 1 == 1 && bitsOf n 40 5 != 0) || bitsOf n 55 9 != 0 || (bitsOf n 19 1 == 0 && bitsOf n 128 64 != 0) ||
    bitsOf n 832 64 != 0 || trailing n 7 ||
    (List.range 6).any fun l => depth ≤ l && (bitsOf n (256 + 32 * l) 32 != 0 || bitsOf n (448 + 64 * l) 64 != 0)

def spaceOf : Nat → Space
  | 0 => .g
  | 1 => .p
  | _ => .w

/-- A descriptor's fields; levels above its depth are not kept. -/
def WalkItem.parse (op : Nat) (va : Word) (n : Nat) : WalkItem :=
  let depth := bitsOf n 32 3
  let port : PortId := Fin.ofNat 8 (bitsOf n 24 3)
  { buf := { dir := if bitsOf n 16 1 = 1 then .outbound else .inbound, port := port, first := 4096 * bitsOf n 224 16,
             bytes := 4096 * bitsOf n 240 16 }
    walker :=
      { op := op, desc := va, space := spaceOf (bitsOf n 17 2), scalearr := bitsOf n 19 1 == 1, port := port,
        counts := (List.range depth).map fun l => bitsOf n (256 + 32 * l) 32,
        strides := (List.range depth).map fun l => (BitVec.ofNat 64 (bitsOf n (448 + 64 * l) 64)).toInt,
        chan := BitVec.ofNat 5 (bitsOf n 40 5), knot := if bitsOf n 54 1 = 1 then some (BitVec.ofNat 6 (bitsOf n 48 6)) else none,
        base := BitVec.ofNat 64 (bitsOf n 64 64), scale := BitVec.ofNat 64 (bitsOf n 128 64), period := bitsOf n 192 32 } }

/-- The checks of R204. -/
def walkerBad (va : Word) (n : Nat) (w : WalkItem) : Bool :=
  let depth := bitsOf n 32 3
  let len := bitsOf n 240 16
  va.toNat % 16 != 0 || bitsOf n 17 2 == 3 || depth == 0 || 6 < depth || w.walker.counts.any (· == 0) ||
    w.walker.base.toNat % 64 != 0 || w.walker.scale.toNat % 8 != 0 || w.walker.strides.any (fun x => x % 64 != 0) || len == 0 || 256 < len

/-- The port and the buffer that a descriptor names, before it is checked. -/
def readBuf (r : Nat) (c : CtxId) (x : Nat × Word) : Load PortBuf := do
  let n ← readNum r c (BitVec.ofNat 64 x.1) 32
  pure (WalkItem.parse 0 0 n).buf

def readWalker (r : Nat) (c : CtxId) (op : Nat) (x : Nat × Word) : Load WalkItem := do
  let va : Word := BitVec.ofNat 64 x.1
  let n ← readBlock r c va 7
  failIf (walkerUnknown n) 0x1E va
  let w := WalkItem.parse op va n
  failIf (walkerBad va n w) 0x1C va
  pure w

/-! ## Other items -/

def readIsland (r : Nat) (c : CtxId) (x : Nat × Word) : Load IslandItem := do
  let n := x.1
  failIf (7 < bitsOf n 16 8 || 3 < bitsOf n 24 8) 0x17 x.2
  let m ← readNum r c (BitVec.ofNat 64 (bitsOf n 64 64)) 512
  pure { v := bitsOf n 0 16, island := bitsOf n 16 8, plane := bitsOf n 24 8,
         tables := (List.range 256).map fun k => BitVec.ofNat 16 (bitsOf m (16 * k) 16) }

/-- A shuttle-side port, type 8. -/
def sideOf (n : Nat) : PortBuf :=
  { dir := if bitsOf n 0 1 = 1 then .outbound else .inbound, port := Fin.ofNat 8 (bitsOf n 1 3), first := 4096 * bitsOf n 16 16,
    bytes := 4096 * bitsOf n 32 16 }

def PortBuf.same (a b : PortBuf) : Bool := a.dir == b.dir && a.port == b.port

def clauseOf (n : Nat) : Clause := { first := bitsOf n 0 16, last := bitsOf n 16 16, inRate := bitsOf n 32 16, outRate := bitsOf n 48 16 }

/-- Each virtual stripe lies in exactly one clause, and every rate is at least 1 (R166, R170). -/
def clausesOk (v : Nat) (l : List Clause) : Bool :=
  l.isEmpty ||
    (l.all (fun k => k.first ≤ k.last && k.last < v && k.inRate != 0 && k.outRate != 0) &&
      (List.range v).all fun x => (l.filter fun k => k.first ≤ x && x ≤ k.last).length == 1)

/-- Segments cover 0 to V - 1 in ascending order (R196). -/
def segsOk (v : Nat) (l : List Nat) : Bool := l.head? == some 0 && decide (l.Pairwise (· < ·)) && l.all (· < v)

/-- The segment that a virtual stripe lies in: the last that begins at or before it (R196). -/
def segOf (l : List Nat) (v : Nat) : Nat := (l.filter (· ≤ v)).length - 1

/-- The pairs of a list, in order, of which none may meet. -/
def anyPair {α : Type} (f : α → α → Bool) : List α → Bool
  | [] => false
  | a :: t => t.any (f a) || anyPair f t

/-! ## Ports and buffers (R201, R202, R383) -/

/-- Ports of the fork with their buffers. -/
def Image.bufs (im : Image) : List PortBuf := im.walks.map (·.buf) ++ im.sides

/-- Virtual stripes of the configurations that bind a port in a direction. -/
def Image.binders (im : Image) (d : Dir) (p : Nat) : List Nat :=
  (im.confs.filterMap fun k =>
    match d with
    | .inbound => if k.conf.ein && k.conf.iport == p then some k.v else none
    | .outbound => if k.conf.eout && k.conf.oport == p then some k.v else none).dedup

/-- The wrap buffers of a ring (R191). -/
def Image.wrapRange (im : Image) : Nat × Nat := (0x10000 * im.hdr.wrap, 32 * (im.hdr.q + 4) * 64)

def PortBuf.range (b : PortBuf) : Nat × Nat := (b.first, b.bytes)

/-- The checks of R202, and for a fork without a fabric part of step 4 of R383, on the ports `bufs`; `top` is the end of scratch. -/
def Image.portCause (im : Image) (bufs : List PortBuf) (top : Nat) : Option Cause :=
  let ends (d : Dir) (p : Nat) : Bool := bufs.any fun b => b.dir == d && b.port.val == p
  let ranges := bufs.map (·.range) ++ (if im.fabric then [im.wrapRange] else [])
  if im.fabric && ((List.range 8).any fun p =>
      ((im.binders .inbound p).isEmpty != !ends .inbound p) || ((im.binders .outbound p).isEmpty != !ends .outbound p)) then some 0x21
  else if !im.fabric && (List.range 8).any fun p => ends .inbound p != ends .outbound p then some 0x21
  else if anyPair PortBuf.same bufs || (List.range 8).any fun p => 1 < (im.binders .inbound p).length then some 0x1C
  else if ranges.any (fun x => top < x.1 + x.2) || anyPair overlaps ranges then some 0x16
  else none

/-- R206: with PERIOD, every inbound walker carries the same nonzero period. -/
def Image.periodBad (im : Image) : Bool :=
  let ps := (im.walks.filter (·.buf.dir == .inbound)).map (·.walker.period)
  im.hdr.period && ps.any fun p => p == 0 || ps.head? != some p

/-! ## The fabric part (R167, R182, R184, R190, R193, R196, R359, R375) -/

/-- A segment: the offset of its ring in the span, its first virtual stripe and its count. -/
structure Seg where
  ring : Nat
  first : Nat
  count : Nat
  deriving DecidableEq, Repr

def Image.segments (im : Image) : List Seg :=
  (List.range im.segs.length).map fun k =>
    let a := im.segs.getD k 0
    { ring := k, first := a, count := im.segs.getD (k + 1) im.hdr.v - a }

/-- Whether the pattern scrolls on an allotment: a chained one always does (R185, R196). -/
def Image.scrolls (im : Image) (p : Nat) : Bool := im.hdr.nseg != 0 || p < im.hdr.v

/-- Virtual stripes with a cell that uses accumulators or state registers (R182). -/
def Image.isStateful (im : Image) (v : Nat) : Bool := im.confs.any fun k => k.v == v && (k.conf.header.getLsbD 12 || k.conf.header.getLsbD 13)

def Image.stateful (im : Image) (g : Seg) : List Nat := ((List.range g.count).map (g.first + ·)).filter im.isStateful

/-- Stripes that a segment scrolls over: the allotment (R196); where it has a stateful virtual stripe, no more than it has virtual stripes, since
such a one follows its own drain and so has one place in the window (R15, R405; log 21). -/
def Seg.stripes (g : Seg) (im : Image) (p : Nat) : Nat := if (im.stateful g).isEmpty then p else min p g.count

/-- The virtual stripes of a segment that one physical stripe may hold (R193). -/
def Seg.groups (g : Seg) (im : Image) (scroll : Bool) (p : Nat) : List (List Nat) :=
  let all := List.range g.count
  if scroll then
    let d := Nat.gcd g.count (g.stripes im p)
    (List.range d).map fun k => (all.filter fun x => x % d == k).map (g.first + ·)
  else all.map fun x => [g.first + x]

/-- The block store of a column holds every configuration of a group; configurations at one address count once. -/
def Image.fits (im : Image) (vs : List Nat) : Bool :=
  (List.range 32).all fun j =>
    let l := im.confs.filter fun k => vs.contains k.v && k.first ≤ j && j ≤ k.last
    (((l.map fun k => (k.addr, k.words.length)).dedup).map (·.2)).sum ≤ 2048

/-- Group 0x8, and the shadow users of R359. -/
def usesMatrix : Instr → Bool
  | .mma .. | .mmat .. | .mzero .. | .mdrain .. | .mload .. | .mswap .. | .mscale .. | .mwaddr .. => true
  | _ => false

def usesShadow : Instr → Bool
  | .mswap .. | .mzero _ .sacc | .mload _ .sacc | .mdrain _ .sacc _ _ _ | .mwaddr _ .sacc => true
  | _ => false

/-- The checks of R375. -/
def Image.islandsBad (im : Image) (scroll : Bool) (p : Nat) : Bool :=
  (anyPair (fun (a b : IslandItem) => a.v == b.v && a.plane != b.plane) im.islands) ||
    (im.confs.any fun k =>
      (k.conf.uses fun i => match i with | .fbits .. => true | .fget .. => true | _ => false) &&
        (List.range 32).any fun j => k.first ≤ j && j ≤ k.last && !(im.islands.any fun x => x.v == k.v && x.island == j / 4)) ||
    (im.segments.any fun g => (g.groups im scroll p).any fun vs =>
      anyPair (fun (a b : IslandItem) =>
        vs.contains a.v && vs.contains b.v && a.island == b.island && a.plane == b.plane && a.tables != b.tables) im.islands)

/-- The checks of R193 and R359, in a pattern on `p` stripes. -/
def Image.storeCause (im : Image) (p : Nat) : Option Cause :=
  let scroll := im.scrolls p
  if im.segments.any fun g => (g.groups im scroll p).any fun vs => !im.fits vs then some 0x12
  else if im.confs.any fun k => (k.conf.uses usesMatrix && !k.conf.header.getLsbD 13) ||
      (scroll && im.isStateful k.v && k.conf.uses usesShadow) then some 0x1B
  else none

/-- The checks of POOL_PART and of the wrap buffers (R167, R191, R195). -/
def Image.poolCause (im : Image) (pp : BitVec 16) (p : Nat) : Option Cause :=
  let save := pp.toNat % 256
  let snap := pp.toNat / 256
  let need := (im.segments.map fun g => (im.stateful g).length).foldl max 0
  if im.fabric && (im.hdr.period || im.hdr.nclause != 0) && snap < 2 * need then some 0x16
  else if im.hdr.nclause != 0 && im.sides.any (·.dir == .inbound) then some 0x21
  else if im.fabric && im.scrolls p && save < need then some 0x15
  else if im.fabric && scratchTop pp < im.wrapRange.1 + im.wrapRange.2 then some 0x16
  else none

/-! ## The image -/

/-- A cause where a check has found one. -/
def failFor (e : Option Cause) (va : Word) : Load Unit := match e with | some c => throw (c, va) | none => pure ()

/-- Steps 2 to 4 of R383, in order; `span` is that of the task, `pp` is POOL_PART and `p` the allotment. -/
def readImage (r : Nat) (c : CtxId) (op span : Nat) (pp : BitVec 16) (p : Nat) (va : Word) : Load Image := do
  -- step 2: the header, the section table and its items (R181, R384)
  failIf (va.toNat % 64 != 0) 0x0C va
  let h ← readHeader r c va
  let t ← readSections r c 16 h.sect []
  let confs ← readItems r c t 1 16 fun n => bitsOf n 10 6 != 0 || bitsOf n 48 16 != 0
  let walks ← readItems r c t 2 8 fun _ => false
  let starts ← readItems r c t 3 16 fun n => bitsOf n 4 60 != 0
  let isles ← readItems r c t 4 16 fun n => bitsOf n 32 32 != 0
  let inits ← readItems r c t 5 16 fun n => bitsOf n 10 54 != 0
  let clauses ← readItems r c t 6 8 fun _ => false
  let segs ← readItems r c t 7 2 fun _ => false
  let sides ← readItems r c t 8 8 fun n => bitsOf n 4 12 != 0 || bitsOf n 48 16 != 0
  let confs ← confs.mapM confRef
  failIf (anyPair ConfRef.meets confs) 0x02 va
  let sides := sides.map fun x => sideOf x.1
  failIf (sides.any (fun b => b.bytes == 0 || 0x100000 < b.bytes) || anyPair PortBuf.same sides) 0x1C va
  let clauses := clauses.map fun x => clauseOf x.1
  failIf (clauses.length != h.nclause || 63 < h.nclause || !clausesOk h.v clauses) 0x02 va
  let segs := segs.map (·.1)
  failIf ((t.look 7).isSome && segs.length != h.nseg + 1) 0x02 va
  failIf (h.nseg != 0 && !segsOk h.v segs) 0x02 va
  let knot := t.look 9
  failIf (match knot with | some (_, a) => 63 < a.toNat | none => false) 0x02 va
  failIf (h.nseg != span) 0x29 va
  -- step 3: the blocks, and then the checks of R175, R177, R193, R359 and R375
  let confs ← confs.mapM (readConf r c fun v => r + segOf segs v)
  confs.forM linkConf
  let im : Image :=
    { hdr := h, fabric := (t.look 1).isSome, confs := confs.filter (·.v < h.v), walks := [],
      starts := starts.map fun x => (Fin.ofNat 16 (bitsOf x.1 0 4), BitVec.ofNat 64 (bitsOf x.1 64 64)),
      islands := [], inits := inits.map fun x => (bitsOf x.1 0 16, BitVec.ofNat 64 (bitsOf x.1 64 64)),
      clauses := clauses, segs := if h.nseg = 0 then [0] else segs, sides := sides,
      errKnot := knot.map fun p => p.2.setWidth 6 }
  failFor (im.storeCause p) va
  let isles ← isles.mapM (readIsland r c)
  let im := { im with islands := isles.filter (·.v < h.v) }
  failIf (im.islandsBad (im.scrolls p) p) 0x17 va
  -- step 4: POOL_PART, the wrap buffers, the ports and the walker descriptors
  failFor (im.poolCause pp p) va
  let bufs ← walks.mapM (readBuf r c)
  failFor (im.portCause (bufs ++ sides) (scratchTop pp)) va
  let walks ← walks.mapM (readWalker r c op)
  let im := { im with walks := walks }
  failIf im.periodBad 0x1C va
  pure im

/-! ## Initial state (R190, R404) -/

/-- The words of a number that are not zero, by index. -/
def wordTab (n lo count : Nat) : Tab W32 :=
  (List.range count).filterMap fun k => if bitsOf n (lo + 32 * k) 32 = 0 then none else some (k, BitVec.ofNat 32 (bitsOf n (lo + 32 * k) 32))

/-- A cell's state from its 1,024 bytes of accumulators and its register record (R190, R404); a seed of zero loads 1 (R264). -/
def CellImage.parse (acc regs : Nat) : CellImage :=
  { acc := wordTab acc 0 256,
    c := (List.range 15).filterMap fun k =>
      if bitsOf regs (512 * k) 512 = 0 then none else some (k, { data := BitVec.ofNat 512 (bitsOf regs (512 * k) 512) }),
    g := wordTab regs 7680 8, lfsr := seedOf (BitVec.ofNat 32 (bitsOf regs 7936 32)) }

/-- The state of one virtual stripe from a slot, by column. -/
def readInit (r : Nat) (c : CtxId) (x : Nat × Word) : Load (Tab CellImage) :=
  (List.range 32).mapM fun j => do
    let a ← readNum r c (x.2 + BitVec.ofNat 64 (1024 * j)) 1024
    let b ← readNum r c (x.2 + BitVec.ofNat 64 (0x8000 + 1024 * j)) 1024
    pure (configKey x.1 j, CellImage.parse a b)

/-- Everything FORK reads: the image checked, its initial state, and the start list, whose entries act as aperture stores (R210, R383). -/
def loadFork (r : Nat) (c : CtxId) (op span : Nat) (pp : BitVec 16) (p : Nat) (va : Word) : Load (Image × Tab CellImage) := do
  let im ← readImage r c op span pp p va
  let init ← (im.inits.filter (·.1 < im.hdr.v)).mapM (readInit r c)
  failIf (im.starts.any fun x => !apertureOk 0 x.2) 0x11 va
  pure (im, init.flatten)

end Sys2Proof.Machine
end

