-- ==== Sys2Proof/Machine/Fork.lean ====
section
/-!
DEFINITION. The state of a fabric pattern: save and snapshot slots (R190, R194, R195), the activation of a configuration (R180,
R185, R190, R358), and FORK_ACCEPT (R383).
-/

namespace Sys2Proof.Machine

/-! ## Slots (R190, R194, R195) -/

/-- The bytes of a cell's part of a slot that may be other than zero. -/
def CellImage.cells (m : CellImage) (key j : Nat) : List Host.Cell :=
  let a := key + 1024 * j
  let b := key + 0x8000 + 1024 * j
  (m.acc.flatMap fun e => cellsAt (a + 4 * e.1) (bytesLE 4 e.2.toNat)) ++
    (m.c.flatMap fun e => if e.1 < 15 then cellsAt (b + 64 * e.1) (bytesLE 64 e.2.data.toNat) else []) ++
    (m.g.flatMap fun e => cellsAt (b + 960 + 4 * e.1) (bytesLE 4 e.2.toNat)) ++ cellsAt (b + 992) (bytesLE 4 m.lfsr.toNat)

/-- The state of a virtual stripe goes to a 64 KiB unit of a ring's pool. -/
def State.writeSlot (s : State) (r unit : Nat) (img : Nat → CellImage) : State :=
  let key := poolKey r (0x10000 * unit)
  { s with mem := (s.mem.clear key 0x10000).apply ((List.range 32).flatMap fun j => (img j).cells key j)
           poison := s.poison.filter fun p => !(sectorOf key ≤ p && p < sectorOf (key + 0x10000)) }

/-- What a fill loads from a slot, by column (R404). -/
def State.readSlot (s : State) (r unit : Nat) : Tab CellImage :=
  let key := poolKey r (0x10000 * unit)
  (List.range 32).map fun j => (j, .parse (s.load (key + 1024 * j) 1024) (s.load (key + 0x8000 + 1024 * j) 1024))

/-- POOL_PART of the task that a ring runs: its lead ring's. -/
def State.partOf (s : State) (r : Nat) : BitVec 16 :=
  match (s.ring r).cur with
  | some t => (s.ring t.lead).seqr.poolPart
  | none => (s.ring r).seqr.poolPart

/-- The save slot of the `k`-th stateful virtual stripe, as a pool unit. -/
def saveUnit (pp : BitVec 16) (k : Nat) : Nat := 256 - pp.toNat % 256 - pp.toNat / 256 + k

/-- Its snapshot slot for wave `w`. -/
def snapUnit (pp : BitVec 16) (k w : Nat) : Nat := 256 - pp.toNat / 256 + 2 * k + w % 2

/-- The place of a virtual stripe among the stateful ones of its segment. -/
def Fabric.rank (f : Fabric) (v : Nat) : Nat := f.stateful.findIdx (· == v)

def Fabric.isStateful (f : Fabric) (v : Nat) : Bool := f.stateful.contains v

/-- Initial state of a virtual stripe's cell (R384). -/
def Fabric.initial (f : Fabric) (v j : Nat) : CellImage := f.init.get {} (configKey v j)

/-! ## Activation -/

/-- What a fill or drain moves of a cell: c15 is never state (R190), and valid bits are not written (R404). -/
def Cell.image (c : Cell) : CellImage :=
  { acc := c.acc, c := (c.c.filter (·.1 < 15)).map fun e => (e.1, { data := e.2.data }), g := c.g, lfsr := c.lfsr }

/-- A cell takes up a configuration with its state; what it held in operand slots is gone (R180, R310, R358). -/
def Cell.activate (c : Cell) (ws : List W32) (m : CellImage) : Cell :=
  { up := c.up, left := c.left, right := c.right, edge := c.edge, out := c.out, headAt := c.headAt, fires := c.fires, lastF := c.lastF,
    nodes := initNodes ws, c := m.c, cAt := m.c, g := m.g, lfsr := m.lfsr, acc := m.acc }

/-- The stripe word of a virtual stripe (R182). -/
def Fabric.wordFor (f : Fabric) (v : Nat) : StripeWord :=
  let hs := (List.range 32).filterMap fun j => (f.configOf v j).map (·.header)
  let acc := hs.any (·.getLsbD 13)
  let regs := hs.any (·.getLsbD 12)
  { valid := true, stateful := acc || regs, acc := acc, regs := regs, vstripe := BitVec.ofNat 10 v, plane := f.planes.get 0 v,
    clause := BitVec.ofNat 6 (f.clauses.findIdx fun k => k.first ≤ v && v ≤ k.last) }

/-- The state with which a cell of a virtual stripe begins: a stateful one's is given (R190). -/
def Fabric.beginImage (f : Fabric) (v j : Nat) (img : Nat → CellImage) : CellImage :=
  if f.isStateful v then img j else let m := f.initial v j; { g := m.g, lfsr := m.lfsr }

/-- Configuration `a` takes physical stripe `p`. -/
def Fabric.activate (f : Fabric) (p a : Nat) (img : Nat → CellImage) : Fabric :=
  let v := f.vstripe a
  let word := f.wordFor v
  (List.range 32).foldl (fun f j =>
      let ws := match f.configOf v j with | some c => c.words | none => []
      f.setCell p j ((f.cell p j).activate ws (f.beginImage v j img)))
    (f.setStripe p { (f.stripe p) with word := word, a := a, ended := false, closed := none })

/-- A boundary from the scroll controller into every column of the stripe of configuration `a` (R187). -/
def State.bound (s : State) (r a : Nat) : State :=
  match s.fabric r with
  | none => s
  | some f => (List.range 32).foldl (fun s j => s.send .boundary (.inlet r (a % f.p) j .up)) s

/-! ## The fabrics of a pattern -/

/-- A table by key from a list. -/
def tabOf {α : Type} (l : List (Nat × α)) : Tab α := l.foldl (fun t e => t.put e.1 e.2) []

/-- The fabric of one segment, before its stripes are active. A pattern in resident mode has the whole allotment, whose stripes from V on are
bypass stripes (R184). -/
def Image.fabricOf (im : Image) (op : Nat) (image : Word) (lead : RingId) (g : Seg) (p now cyc : Nat) (init : Tab CellImage) : Fabric :=
  let scroll := im.scrolls p
  let mine (v : Nat) : Bool := g.first ≤ v && v < g.first + g.count
  let ring (k : Nat) : RingId := Fin.ofNat 32 (lead.val + k)
  let empty : Fabric :=
  { op := op, image := image, hdr := im.hdr, lead := lead, p := if scroll then g.stripes im p else p, scroll := scroll,
    segFirst := g.first, segCount := g.count,
    prevRing := ring (if g.ring = 0 then im.segs.length - 1 else g.ring - 1),
    nextRing := ring (if g.ring + 1 = im.segs.length then 0 else g.ring + 1),
    islands := tabOf ((im.islands.filter (mine ·.v)).map fun k => (islandKey k.v k.island, k.tables)),
    planes := tabOf ((im.islands.filter (mine ·.v)).map fun k => (k.v, BitVec.ofNat 2 k.plane)),
    init := init.filter fun e => mine (e.1 / 32), stateful := im.stateful g, clauses := im.clauses, moved := now, stirred := cyc }
  let confs := (List.range g.count).flatMap fun v => im.confs.filter fun k => k.v == g.first + v
  confs.foldl (fun f k => (List.range (k.last + 1 - k.first)).foldl (fun f j => f.place k.v (k.first + j) k.addr k.conf) f) empty

/-- The configurations of a segment, which its ring's block stores hold from now on (R96; log 82). -/
def Image.copies (im : Image) (c : CtxId) (g : Seg) : List BlockCopy :=
  ((im.confs.filter fun k => g.first ≤ k.v && k.v < g.first + g.count).map fun k => { ctx := c, addr := k.addr, words := k.words }).dedup

/-- A segment's save slots are filled in scroll mode, and its first stripes become active (R185, R190). -/
def State.loadSegment (s : State) (r : Nat) (pp : BitVec 16) (f : Fabric) : State :=
  let s1 := if f.scroll then f.stateful.foldl (fun s v => s.writeSlot r (saveUnit pp (f.rank v)) (f.initial v)) s else s
  let f1 := (List.range f.p).foldl (fun f a => f.activate a a (f.initial (f.vstripe a))) f
  s1.modEng r fun e => { e with fabric := some f1 }

/-! ## FORK_ACCEPT (R383) -/

/-- The fabric part, ports and buffers that a fork names, for its acceptance. -/
def readNames (r : Nat) (c : CtxId) (va : Word) : Load (Bool × List PortBuf) := do
  let h ← readHeader r c va
  let t ← readSections r c 16 h.sect []
  let walks ← readItems r c t 2 8 fun _ => false
  let bufs ← walks.mapM (readBuf r c)
  let sides ← readItems r c t 8 8 fun _ => false
  pure ((t.look 1).isSome, bufs ++ sides.map fun x => sideOf x.1)

/-- Ports that a fork holds. -/
def Fork.holdsPort (f : Fork) (b : PortBuf) : Bool :=
  (match b.dir with
    | .inbound => f.inWalkers.contains b.port
    | .outbound => f.outWalkers.contains b.port) || f.sides.any fun x => x.1 == b.dir && x.2 == b.port

/-- Step 1: whether a fork outstanding holds something that a new one names. -/
def Ring.clashes (x : Ring) (names : Bool × List PortBuf) : Bool :=
  x.eng.forks.any fun f =>
    (names.1 && f.fabric && !f.fabricDone) || names.2.any fun b => f.holdsPort b || f.buffers.any (overlaps b.range)

/-- Step 1: whether a fork committed before, which has not been accepted yet, names what a new one names, or has a fabric part as it
has (R383, log 72). -/
def State.forkAhead (s : State) (r : RingId) (c : CtxId) (op : Nat) (names : Bool × List PortBuf) : Bool :=
  (s.ring r).seqr.ops.any fun e => e.id < op && e.waits && !e.old &&
    match e.work with
    | .fork _ image =>
      match (readNames r c image).go s with
      | (.error _, _) => false
      | (.ok first, _) => (names.1 && first.1) || names.2.any fun b => first.2.any fun a => (a.dir == b.dir && a.port == b.port) || overlaps b.range a.range
    | _ => false

/-- The stream ports of a fork, with their columns (R201, R209). -/
def Image.inPort (im : Image) (op : Nat) (lead : RingId) (b : PortBuf) (shuttle : Bool) : InPortSt :=
  let cols := (im.confs.filter fun k => k.conf.ein && k.conf.iport == b.port.val).flatMap fun k =>
    (List.range (k.last + 1 - k.first)).map fun j => (k.v, k.first + j)
  let ring (v : Nat) : RingId := Fin.ofNat 32 (lead.val + ((im.segments.find? fun g => g.first ≤ v && v < g.first + g.count).map (·.ring)).getD 0)
  { op := op, cap := b.bytes / 64, first := b.first, shuttle := shuttle, vs := match cols with | (v, _) :: _ => v | [] => 0,
    branches := cols.map fun x => { ring := ring x.1, col := x.2 } }

def Image.outPort (im : Image) (op : Nat) (b : PortBuf) (shuttle : Bool) : OutPortSt :=
  { op := op, cap := b.bytes / 64, first := b.first, shuttle := shuttle, binders := max 1 (im.binders .outbound b.port.val).length }

/-- A start list's entry reaches its channel, or waits for a place there (R210, R383). -/
def State.pushStart (s : State) (r : Nat) (op : Nat) (x : ChanId × Word) : State :=
  if ((s.ring r).eng.chans.get {} x.1).queue.length < 8 then
    s.modChan r x.1.val fun c => { c with queue := c.queue ++ [{ op := none, fork := some op, word := x.2 }] }
  else
    s.modEng r fun e => { e with forks := e.forks.map fun f => if f.op == op then { f with waiting := f.waiting ++ [x] } else f }

/-- Whether a fork locks its ring's slices (R24). -/
def Image.locks (im : Image) : Bool :=
  (im.confs.any fun k => k.conf.uses fun i => match i with | .mma .. => true | _ => false) ||
    im.walks.any fun w => w.buf.dir == .inbound && w.walker.space == .w

/-- Steps 5 and 6: state is filled, and everything starts. A chained fork locks the slices of every ring of its task's span, since each runs a
segment of the pattern (R24 names the fork's ring alone; log 78). -/
def State.startFork (s : State) (r : RingId) (t : Task) (o : Op) (h : BitVec 2) (image : Word) (im : Image) (init : Tab CellImage) : State :=
  let now := s.counted r
  let pp := (s.ring r).seqr.poolPart
  let p := (s.ring r).stripes.toNat
  let ins := im.walks.filter (·.buf.dir == .inbound)
  let outs := im.walks.filter (·.buf.dir == .outbound)
  let sideIn := im.sides.filter (·.dir == .inbound)
  let sideOut := im.sides.filter (·.dir == .outbound)
  let fork : Fork :=
    { op := o.id, h := h, strand := o.strand, mask := o.mask, image := image, hdr := im.hdr, fabric := im.fabric,
      inWalkers := ins.map (·.buf.port), outWalkers := outs.map (·.buf.port), starts := im.starts.length,
      sides := im.sides.map fun b => (b.dir, b.port), buffers := im.bufs.map (·.range),
      wrapBuf := if im.fabric then some im.wrapRange else none, errKnot := im.errKnot, start := s.cycle r, fabricDone := !im.fabric,
      locks := im.locks, moved := s.cycle r }
  let s1 := s.modEng r fun e =>
    { e with
      forks := e.forks ++ [fork]
      inWalkers := ins.foldl (fun t w => t.put w.buf.port.val w.walker) e.inWalkers
      outWalkers := outs.foldl (fun t w => t.put w.buf.port.val w.walker) e.outWalkers
      inPorts := sideIn.foldl (fun t b => t.put b.port.val (im.inPort o.id r b true))
        (ins.foldl (fun t w => t.put w.buf.port.val (im.inPort o.id r w.buf false)) e.inPorts)
      outPorts := sideOut.foldl (fun t b => t.put b.port.val (im.outPort o.id b true))
        (outs.foldl (fun t w => t.put w.buf.port.val (im.outPort o.id w.buf false)) e.outPorts) }
  let s2 := if im.fabric then
      im.segments.foldl (fun s g => (s.loadSegment (r.val + g.ring) pp (im.fabricOf o.id image r g p now (s.cycle r) init)).modRing (r.val + g.ring) fun x =>
        { x with blocks := im.copies t.ctx g }) s1
    else s1
  let s3 := if im.fabric && im.scrolls p then s2.bound r 0 else s2
  let s4 := if im.locks then t.rings.foldl (fun s k => s.modRing k fun x => { x with locks := o.id :: x.locks }) s3 else s3
  (im.starts.foldl (fun s x => s.pushStart r o.id x) s4).modOp r o.id fun o => { o with stage := .started }

/-- A cause that a fork takes as it loads: BLOCK of the record, and FAULT_BLOCK with it, hold the image's address, as R294 and R383 say of the
stop record, where R94 says of FAULT_BLOCK that it holds the block's (log 100). -/
def State.forkTrap (s : State) (r : RingId) (o : Op) (image : Word) (e : Cause × Word) : State :=
  s.raise o.ctx r .fabric e.1 image e.2

/-- FORK_ACCEPT (R383): a fork with an empty snapshot is accepted once nothing that it names is held, loaded and started. -/
def execForkAccept (r : RingId) (op : Nat) (s : State) : Out :=
  match s.op? r op, s.running r with
  | some o, some t =>
    match o.work with
    | .fork h image =>
      if !o.free || o.old || t.lead != r then .next s
      else
        let held := match (readNames r t.ctx image).go s with
          | (.error _, _) => false
          | (.ok names, _) => (s.ring r).clashes names || s.forkAhead r t.ctx op names
        if held then .next s
        else
          match (loadFork r t.ctx op t.span (s.ring r).seqr.poolPart (s.ring r).stripes.toNat image).go s with
          | (.error e, s1) => .next (s1.forkTrap r o image e)
          | (.ok (im, init), s1) => .next (s1.startFork r t o h image im init)
    | _ => .next s
  | _, _ => .next s

end Sys2Proof.Machine
end

