-- ==== Sys2Proof/Machine/Scroll.lean ====
section
/-!
DEFINITION. The fabric as it runs: tokens into cells (R177, R197, R209), run ends and reconfiguration (R186 to R192), markers and
snapshots (R194), waves, rate checks and rollback (R166 to R170), the end of a fabric (R199) and its stall (R198).
-/

namespace Sys2Proof.Machine

/-! ## What runs -/

/-- The fabric of a ring where it may move (R157, R168); one that has stopped at a wave stands (R146). -/
def State.liveFabric (s : State) (r : Nat) : Option Fabric :=
  match s.running r, s.fabric r with
  | some _, some f => if f.rollback.isSome || s.atWave r then none else some f
  | _, _ => none

/-- The longest start of a wrap buffer that fits in `room` token places; boundaries and markers take none (R191). -/
def fitting : Nat → List Entry → Nat
  | _, [] => 0
  | room, .tok _ :: t => match room with | 0 => 0 | n + 1 => fitting n t + 1
  | room, _ :: t => fitting room t + 1

/-- A resident configuration takes what its wrap buffer holds for a column, as far as its UP link has room (R191). -/
def State.refillCol (s : State) (r a j : Nat) : State :=
  match s.fabric r with
  | none => s
  | some f =>
    let w := f.wrapOf a j
    if w.isEmpty then s
    else
      let p := a % f.p
      let n := fitting (8 - tokens (f.cell p j).up) w
      let now := s.cycle r
      s.modFabric r fun f =>
        let g := (w.take n).foldl (fun f e => f.setCell p j ((f.cell p j).push .up e now)) f
        { g with wraps := if n = w.length then g.wraps.del (wrapKey a j) else g.wraps.put (wrapKey a j) (w.drop n) }

/-- Every wrap buffer of a ring delivers what it can. -/
def State.refill (s : State) (r : Nat) : State :=
  match s.fabric r with
  | none => s
  | some f =>
    if f.scroll && !f.wraps.isEmpty then
      (List.range f.p).foldl (fun s k => (List.range 32).foldl (fun s j => s.refillCol r (f.oldest + k) j) s) s
    else s

/-! ## TOKEN_INLET (R177, R197) -/

/-- The format tag that a channel-table entry gives (R177, R261). -/
def tagOf (e : W32) : Tag :=
  { fmt := e.extractLsb' 28 4, bscale := e.getLsbD 27, spare := e.getLsbD 26, flush := e.getLsbD 25, tscale := e.extractLsb' 22 3 }

def slotOf (n : Nat) : Slot :=
  match n with
  | 0 => .l | 1 => .r | 2 => .p | _ => .t

/-- The inlet of an enabled channel. -/
def Config.inlet (c : Config) (t : Tok) : Option (Slot × Nat) :=
  match c.chans[t.chan.toNat]? with
  | some e => if e.getLsbD 21 then some (slotOf (inletField e / 128), inletField e % 128) else none
  | none => none

/-- Whether a channel is masked (R177). -/
def Config.masked (c : Config) (t : Tok) : Bool :=
  match c.chans[t.chan.toNat]? with
  | some e => !e.getLsbD 21 && inletField e != 0x1FF
  | none => false

/-- The in-port whose head token enters an inlet next: one that has waited 64 cycles first, then the order of R177. -/
def Cell.winner (c : Cell) (cfg : Config) (x : Slot × Nat) (now : Nat) : Option InPort :=
  let l : List InPort := [.up, .left, .right, .edge].filter fun q =>
    match c.fifo q with | .tok t :: _ => cfg.inlet t == some x | _ => false
  match l.find? fun q => c.headAt.get 0 (inPortNo q) + 64 ≤ now with
  | some q => some q
  | none => l.head?

/-- A token at the head of an in-port reaches its cell. -/
def State.inletToken (s : State) (r p j : Nat) (q : InPort) (f : Fabric) (cfg : Config) (t : Tok) : State :=
  let c := f.cell p j
  if f.hdr.d < t.punct.toNat then s.trapFabric r 0x18
  else
    match cfg.inlet t with
    | none => if cfg.masked t then s else s.trapFabric r 0x13
    | some (sl, k) =>
      let n := c.nodes.get {} k
      if (n.slot sl).isSome || c.winner cfg (sl, k) (s.cycle r) != some q then s
      else
        let e := cfg.chans.getD t.chan.toNat 0
        let v : SlotVal := { v := .tok { t with tag := some (tagOf e) } }
        let s1 := s.modCell r p j fun c => { (c.pop q (s.cycle r)) with nodes := c.nodes.put k (n.setSlot sl (some v)) }
        let s2 := match q with | .up => s1.countToken r p false | .edge => s1.countToken r p false | _ => s1
        s2.moved r

/-- TOKEN_INLET: the head of an in-port enters its inlet, waits, or traps. -/
def execTokenInlet (r : RingId) (p : StripeId) (j : ColId) (port : InPort) (s : State) : Out :=
  let s1 := s.refill r
  match s1.liveFabric r with
  | none => .next s
  | some f =>
    let st := f.stripe p
    if st.ended || st.snapping.isSome then .next s
    else
      match f.config p j, (f.cell p j).fifo port with
      | some cfg, .tok t :: _ => .next ((s1.inletToken r p j port f cfg t).refill r)
      | some _, .marker _ :: _ => if f.hdr.period then .next s else .next (s1.trapFabric r 0x18)
      | _, _ => .next s

/-- BYPASS_FORWARD (R183): a bypass cell of a configured stripe passes an UP token on to DOWN. -/
def execBypassForward (r : RingId) (p : StripeId) (j : ColId) (s : State) : Out :=
  let s1 := s.refill r
  match s1.liveFabric r with
  | none => .next s
  | some f =>
    let st := f.stripe p
    if st.ended || st.snapping.isSome || !st.word.valid || (f.config p j).isSome then .next s
    else
      match (f.cell p j).up with
      | .marker _ :: _ => if f.hdr.period then .next s else .next (s1.trapFabric r 0x18)
      | .tok t :: _ =>
        let d := s1.downDest r f p j
        if f.hdr.d < t.punct.toNat then .next (s1.trapFabric r 0x18)
        else if s1.hasRoom d && (f.cell p j).portOpen .down (s.cycle r) then
          .next ((((((s1.modCell r p j fun c => (c.pop .up (s.cycle r)).portUsed .down (s.cycle r)).send (.tok t) d).countToken r p false).countToken r p true).moved r).refill r)
        else .next s
      | _ => .next s

/-! ## MULTICAST_TAKE (R201, R209) -/

/-- The stripe of a branch where its virtual stripe is resident, and in scroll mode for the run that the branch takes (R186). -/
def State.branchStripe (s : State) (vs : Nat) (b : Branch) : Option (Nat × Fabric) :=
  match s.liveFabric b.ring.val with
  | none => none
  | some f =>
    ((List.range f.p).find? fun p =>
      let st := f.stripe p
      st.word.valid && st.word.vstripe.toNat == vs && !st.ended && st.snapping.isNone && (!f.scroll || b.run == st.a / f.segCount)).map (·, f)

/-- What a branch takes in a cycle: its next entry, or a boundary of a port that has ended (R186). -/
def InPortSt.next? (o : InPortSt) (b : Branch) (scroll : Bool) : Option (Entry × Bool) :=
  match o.fifo[b.pos]? with
  | some e => if b.pos < 8 then some (e, true) else none
  | none => if o.ended && scroll then some (.boundary, false) else none

/-- Whether an EDGE link takes an entry for a configuration. -/
def edgeTakes (c : Cell) (cfg : Config) (e : Entry) : Bool :=
  match e with
  | .tok t => tokens c.edge < fifoDepth .edge && !cfg.masked t
  | _ => true

/-- Whether a branch has taken everything up to the marker at which its fork is to stop: what a shuttle has sent beyond it waits in the port
(R146, R218). -/
def State.pastStop (s : State) (o : InPortSt) (b : Branch) (f : Fabric) : Bool :=
  let e := (s.ring f.lead).eng
  let stopped := e.inWalkers.filter fun x => x.2.op == o.op && x.2.stopped
  !stopped.isEmpty &&
    if f.scroll then stopped.all fun x => match e.inPorts.look x.1 with | some k => k.runs ≤ b.run | none => true
    else (o.fifo.drop b.pos).all fun x => match x with | .marker _ => false | _ => true

/-- One branch's take. -/
def State.takeBranch (s : State) (o : InPortSt) (b : Branch) : State × Branch :=
  match s.branchStripe o.vs b with
  | none => (s, b)
  | some (p, f) =>
    if s.pastStop o b f then (s, b)
    else
      match o.next? b f.scroll, f.config p b.col with
      | some (e, real), some cfg =>
        let c := f.cell p b.col
        if edgeTakes c cfg e then
          let run := match e with | .boundary => b.run + 1 | _ => b.run
          ((s.send e (.inlet b.ring.val p b.col .edge)).moved b.ring.val, { b with pos := if real then b.pos + 1 else b.pos, run := run })
        else (s, b)
      | _, _ => (s, b)

/-- Whether the shuttles that feed a port have sent its last data: it has been fed, and no copy of the ring is left. -/
def State.portDry (s : State) (r : Nat) (o : InPortSt) : Bool :=
  o.shuttle && o.fed && ((s.ring r).eng.forks.all fun k => k.op != o.op || (k.starts == 0 && k.waiting.isEmpty)) &&
    (s.ring r).eng.chans.all fun e => e.2.queue.isEmpty && e.2.run.isNone

/-- A port has sent its last data: in scroll mode a boundary closes the run that is open (R186). -/
def InPortSt.finish (o : InPortSt) (scroll : Bool) : InPortSt :=
  let o := { o with ended := true }
  if scroll && o.inRun != 0 then { o with fifo := o.fifo ++ [.boundary], inRun := 0, runs := o.runs + 1 } else o

/-- MULTICAST_TAKE: one cycle of an inbound port. -/
def execMulticastTake (r : RingId) (port : PortId) (s : State) : Out :=
  match s.liveFabric r, (s.ring r).eng.inPorts.look port.val with
  | some f, some o0 =>
    let o := if s.portDry r o0 && !o0.ended then o0.finish f.scroll else o0
    if f.lead != r || f.op != o.op || s.cycle r < o.next then .next s
    else
      let (s1, bs) := o.branches.foldl (fun (acc : State × List Branch) b =>
        let (s1, b1) := acc.1.takeBranch o b
        (s1, acc.2 ++ [b1])) (s, [])
      let drop := !bs.isEmpty && bs.all (1 ≤ ·.pos)
      let o1 := { o with next := s.cycle r + 1, fifo := if drop then o.fifo.drop 1 else o.fifo
                         branches := if drop then bs.map fun b => { b with pos := b.pos - 1 } else bs }
      if bs == o.branches && o == o0 then .next s
      else .next (s1.modEng r fun e => { e with inPorts := e.inPorts.put port.val o1 })
  | _, _ => .next s

/-! ## Idle stripes, markers and rate checks -/

/-- Whether an OUT of a unit holds its operands; it may wait for room on its link (R178, log 68). -/
def State.outHeld (s : State) (u : UnitId) : Bool :=
  match s.view u with
  | none => false
  | some v => (List.range v.words.length).any fun k =>
    match wordAt v.words k with
    | some (.out pd port ch) => (needs (.out pd port ch) (s.node u k)).all (s.node u k).has
    | _ => false

/-- No instruction of a stripe is ready or goes on, no OUT waits for room, and its leftward and rightward links are empty (R187,
log 68). -/
def State.stripeIdle (s : State) (r p : Nat) (f : Fabric) : Bool :=
  (List.range 32).all fun j =>
    let c := f.cell p j
    let u : UnitId := .cell (Fin.ofNat 32 r) (Fin.ofNat 16 p) (Fin.ofNat 32 j)
    c.left.isEmpty && c.right.isEmpty && c.drain.isNone && !s.anyReady u && !s.outHeld u &&
      c.nodes.all fun e => [Slot.l, .r, .p, .t].all fun q => (e.2.slot q).all (·.at' ≤ s.cycle r)

/-- Columns of a stripe whose EDGE in-port is bound. -/
def Fabric.boundEdges (f : Fabric) (p : Nat) : List Nat :=
  (List.range 32).filter fun j => match f.config p j with | some c => c.ein | none => false

/-- Outbound ports that a stripe's cells bind. -/
def Fabric.boundOuts (f : Fabric) (p : Nat) : List Nat :=
  ((List.range 32).filterMap fun j => match f.config p j with | some c => if c.eout then some c.oport else none | none => none).dedup

/-- Links of a stripe that bring boundaries and markers: by column, UP unless it is left out, and the bound EDGE in-ports. -/
def Fabric.gates (f : Fabric) (p : Nat) (up : Bool) : List (Nat × InPort) :=
  (if up then (List.range 32).map (·, InPort.up) else []) ++ (f.boundEdges p).map (·, InPort.edge)

/-- Whether a marker stands at the head of one of some in-ports, where the pattern's PERIOD is clear (R197). -/
def Fabric.strayMarker (f : Fabric) (p : Nat) (gs : List (Nat × InPort)) : Bool :=
  !f.hdr.period && gs.any fun g => match (f.cell p g.1).fifo g.2 with | .marker _ :: _ => true | _ => false

/-- The heads of some in-ports go: a marker where one stands there, and with `both` the boundary behind it. -/
def State.popGates (s : State) (r p : Nat) (gs : List (Nat × InPort)) (both : Bool) : State :=
  gs.foldl (fun s g => s.modCell r p g.1 fun c =>
    match c.fifo g.2 with
    | .marker _ :: .boundary :: _ => if both then (c.pop g.2 (s.cycle r)).pop g.2 (s.cycle r) else c.pop g.2 (s.cycle r)
    | _ => c.pop g.2 (s.cycle r)) s

/-- A marker reaches the ends of a clause: the first virtual stripe's count waits for the last one's, and the two are
compared there (R170). -/
def State.rateCheck (s : State) (r p : Nat) (f : Fabric) : State :=
  let w := (f.stripe p).word
  let k := w.clause.toNat
  match (s.fabric f.lead).bind fun g => g.clauses[k]? with
  | none => s
  | some c =>
    let c1 := if c.first = w.vstripe.toNat then { c with counted := c.counted ++ [c.tokIn], tokIn := 0 } else c
    let set (c : Clause) : State := s.modFabric f.lead fun g => { g with clauses := g.clauses.modify k fun _ => c }
    if c.last ≠ w.vstripe.toNat then set c1
    else
      let s1 := set { c1 with counted := c1.counted.drop 1, tokOut := 0 }
      if c1.counted.headD 0 * c.outRate = c1.tokOut * c.inRate then s1
      else (s1.trapFabric r 0x14).clauseError r k 0x14

/-- The columns of a stripe that bind an outbound port. -/
def Fabric.outCols (f : Fabric) (p n : Nat) : List Nat :=
  (List.range 32).filter fun j => match f.config p j with | some c => c.eout && c.oport == n | none => false

/-- A marker, and in scroll mode a boundary, leave a stripe: down every column, but no marker from virtual stripe V - 1, and the
marker into each bound out-port, behind what its EDGE links hold (R187, R194). -/
def State.sendDown (s : State) (r p : Nat) (f : Fabric) (w : Option Nat) (boundary : Bool) : State :=
  let last := (f.stripe p).word.vstripe.toNat + 1 == f.hdr.v
  let down (s : State) (e : Entry) (j : Nat) : State :=
    match s.fabric r with
    | some f => s.send e (s.downDest r f p j)
    | none => s
  let s1 := match w with
    | some w =>
      let s := if last then s else (List.range 32).foldl (fun s j => down s (.marker w) j) s
      ((f.boundOuts p).foldl (fun s n => (f.outCols p n).foldl (fun s j => s.send (.marker w) (.edge r p j n)) s) s).flowOut r
    | none => s
  if boundary then (List.range 32).foldl (fun s j => down s .boundary j) s1 else s1

/-! ## Waves (R166, R146) -/

/-- Inbound walkers of a fork. -/
def Engines.inOf (e : Engines) (op : Nat) : List Walker := (e.inWalkers.filter fun x => x.2.op == op).map (·.2)

/-- Whether every inbound walker of a fork stands, after a marker under REQ or at the end of its nest (R146). -/
def Engines.stands (e : Engines) (op : Nat) : Bool :=
  (e.inOf op).any (·.stopped) && (e.inOf op).all fun x => x.stopped || x.n == x.counts.foldl (· * ·) 1

/-- Whether every outbound walker of a fork has written what precedes marker `w` (R166). -/
def Engines.absorbed (e : Engines) (k : Fork) (w : Nat) : Bool :=
  k.outWalkers.all fun p =>
    match e.outWalkers.look p.val, e.outPorts.look p.val with
    | some x, some o => w * o.binders ≤ x.markers && x.inFlight == 0
    | _, _ => true

/-- Markers that a fork's inbound walkers have sent. -/
def Engines.sentMarkers (e : Engines) (op : Nat) : Nat := ((e.inOf op).map (·.markers)).foldl max 0

/-- Whether marker `w` is past everything: every stateful stripe has its snapshot, and every outbound walker has written what
precedes it. -/
def State.waveOver (s : State) (r w : Nat) : Bool :=
  match s.fabric r, ((s.ring r).eng.forks.find? fun k => some k.op == (s.fabric r).map (·.op)) with
  | some f, some k =>
    w ≤ f.markers &&
      ((s.fabricRings r).all fun n => match s.fabric n with | some g => g.stateful.all ((f.snapped.get [] w).contains ·) | none => true) &&
      (s.ring r).eng.absorbed k w
  | _, _ => false

def noTokens (l : List Entry) : Bool := tokens l == 0

/-- No link or wrap buffer of a fabric holds a token, and nothing drains (R199). -/
def Fabric.empty (f : Fabric) : Bool :=
  (f.cells.all fun e => noTokens e.2.up && noTokens e.2.left && noTokens e.2.right && noTokens e.2.edge && noTokens (e.2.out.map (·.2))) && (f.wraps.all fun e => noTokens e.2) &&
    f.stripes.all fun e => match e.2.shadow with | .draining .. => false | _ => true

/-- Whether a fork's last marker has passed it, and nothing of what came before is left in its fabric, or in a port that no shuttle feeds (R146, step
3, log 105). -/
def State.wavePassed (s : State) (r : Nat) (k : Fork) : Bool :=
  let e := (s.ring r).eng
  (e.inPorts.all fun x => x.2.op != k.op || x.2.shuttle || noTokens x.2.fifo) &&
    if k.fabric then
      match s.fabric r with
      | some f =>
        f.op == k.op && f.rollback.isNone && f.markers == f.waveDone &&
          (s.fabricRings r).all fun n => match s.fabric n with | some g => g.empty && g.passReg.isEmpty && g.passEntry.isEmpty | none => true
      | none => false
    else k.waves == e.sentMarkers k.op

/-- The last wave that a fork has completed (R166). -/
def State.lastWave (s : State) (r : Nat) (k : Fork) : Nat :=
  if k.fabric then match s.fabric r with | some f => f.waveDone | none => 0 else k.waves

/-- A fork whose walkers stand stops at its wave, and its ring's counts with it (R146, R198, R244). -/
def State.stopAtWave (s : State) (r : Nat) : State :=
  let e := (s.ring r).eng
  match e.forks.find? fun k => k.waved.isNone && k.hdr.period && e.stands k.op && s.wavePassed r k with
  | some k =>
    let w := s.lastWave r k
    (s.pause r).modEng r fun e => { e with forks := e.forks.map fun j => if j.op == k.op then { j with waved := some w } else j }
  | none => s

/-- A wave of a pattern that is complete becomes the one to roll back to (R166, R169). -/
def State.fabricWave (s : State) (r : Nat) : State :=
  match s.fabric r with
  | none => s
  | some f =>
    match s.fabric f.lead with
    | none => s
    | some g =>
      let w := g.waveDone + 1
      if !s.waveOver f.lead w then s
      else s.modFabrics f.lead fun g =>
        { g with waveDone := w, snapped := g.snapped.del w, clauses := g.clauses.map fun k => { k with errors := 0 } }

/-- A wave of a fork without a fabric part is complete once its outbound walkers have absorbed its marker (R166, R383). -/
def Engines.portWaves (e : Engines) : Engines :=
  { e with forks := e.forks.map fun k =>
      if !k.fabric && k.hdr.period && k.waves < e.sentMarkers k.op && e.absorbed k (k.waves + 1) then { k with waves := k.waves + 1 } else k }

/-- Waves that have become complete, and the forks that stop there (R146, R166). -/
def State.waveCheck (s : State) (r : Nat) : State :=
  let lead := match s.fabric r with | some f => f.lead.val | none => r
  ((s.fabricWave r).modEng lead Engines.portWaves).stopAtWave lead

/-- A stateful virtual stripe has written the snapshot of a wave. -/
def State.snapDone (s : State) (r v w : Nat) : State :=
  match s.fabric r with
  | some f => (s.modFabric f.lead fun g => { g with snapped := g.snapped.put w (v :: g.snapped.get [] w) }).waveCheck r
  | none => s

/-! ## RUN_END (R186, R187, R192) -/

/-- What closes a run at an in-port: a boundary, behind a marker where one travels with the run. -/
def runCloser : List Entry → Option (Option Nat)
  | .boundary :: _ => some none
  | .marker w :: .boundary :: _ => some (some w)
  | _ => none

/-- RUN_END: the run of a resident configuration ends; a pass register left full above it traps. -/
def execRunEnd (r : RingId) (p : StripeId) (s : State) : Out :=
  let s1 := s.refill r
  match s1.liveFabric r with
  | none => .next s
  | some f =>
    let st := f.stripe p
    let gs := f.gates p true
    let closers := gs.map fun g => runCloser ((f.cell p g.1).fifo g.2)
    if !f.scroll || !st.word.valid || st.ended then .next s
    else if f.strayMarker p gs then .next (s1.trapFabric r 0x18)
    else if closers.any (·.isNone) || !s1.stripeIdle r p f then .next s
    else if (List.range 32).any fun j => (List.range 4).any fun k => (f.passReg.look (passKey (f.above p) j k)).isSome then
      .next (s1.trapFabric r 0x1A)
    else
      let w := closers.findSome? fun c => c.join
      let s2 := s1.popGates r p gs true
      let s3 := s2.modFabric r fun f =>
        { f.setStripe p { st with ended := true, closed := w } with
          waveAt := match w with | some w => if st.word.vstripe = 0 then f.waveAt.put w st.a else f.waveAt | none => f.waveAt }
      let s4 := (s3.sendDown r p f w true).moved r
      .next ((if w.isSome then s4.rateCheck r p f else s4).refill r)

/-! ## Reconfiguration and the shadow bank (R188, R189, R404, R405) -/

/-- The next configuration of a stripe. -/
def Fabric.nextFor (f : Fabric) (p : Nat) : Nat := (f.stripe p).a + f.p

/-- Whether a stripe's shadow bank lets it be reconfigured (R189). -/
def Fabric.shadowOk (f : Fabric) (p : Nat) : Bool :=
  match (f.stripe p).shadow with
  | .loaded a => a == f.nextFor p
  | .free => !f.isStateful (f.vstripe (f.nextFor p))
  | _ => false

/-- A pass entry moves into the boundary above its configuration (R192). -/
def Fabric.enterPass (f : Fabric) (p a : Nat) : Fabric :=
  let mine := f.passEntry.filter fun e => e.1 / 4 / 32 == a
  { f with passReg := mine.foldl (fun t e => t.put (passKey (f.above p) (e.1 / 4 % 32) (e.1 % 4)) e.2) f.passReg
           passEntry := f.passEntry.filter fun e => e.1 / 4 / 32 != a }

/-- RECONFIGURE: the oldest stripe takes its next configuration, and its banks swap. -/
def execReconfigure (r : RingId) (s : State) : Out :=
  match s.liveFabric r with
  | none => .next s
  | some f =>
    let p := f.oldest % f.p
    let st := f.stripe p
    if !f.scroll || !st.ended || !f.shadowOk p then .next s
    else
      let out : Tab CellImage := if st.word.stateful then (List.range 32).map fun j => (j, (f.cell p j).image) else []
      let shadow : Shadow := if st.word.stateful then .draining st.a (s.cycle r) st.closed else .free
      let f1 := f.activate p (f.nextFor p) (st.bank.get {})
      let f2 := f1.setStripe p { f1.stripe p with shadow := shadow, bank := out }
      let f3 := f2.enterPass p (f.nextFor p)
      .next ((((s.modEng r fun e => { e with fabric := some { f3 with oldest := f.oldest + 1 } }).event r 0x0A).moved r).refill r)

/-- SHADOW_FILL_START: a free bank begins to fill for the next configuration, once its state has left the ring (R405). -/
def execShadowFillStart (r : RingId) (p : StripeId) (s : State) : Out :=
  match s.liveFabric r with
  | none => .next s
  | some f =>
    let st := f.stripe p
    let a := f.nextFor p
    let before := a - f.segCount
    let leaving := (List.range f.p).any fun k =>
      match (f.stripe k).shadow with | .draining b _ _ => b == before | _ => false
    if !f.scroll || p.val ≥ f.p || st.shadow != .free || !f.isStateful (f.vstripe a) || (f.segCount ≤ a && (f.inWindow before || leaving)) then .next s
    else .next ((s.modFabric r fun f => f.setStripe p { st with shadow := .filling a (s.cycle r) }).moved r)

/-- SHADOW_FILL_DONE: the bank is loaded from the save slot after 16 cycles. -/
def execShadowFillDone (r : RingId) (p : StripeId) (s : State) : Out :=
  match s.liveFabric r with
  | none => .next s
  | some f =>
    let st := f.stripe p
    match st.shadow with
    | .filling a c =>
      if s.cycle r < c + 16 then .next s
      else
        let bank := s.readSlot r (saveUnit (s.partOf r) (f.rank (f.vstripe a)))
        .next ((s.modFabric r fun f => f.setStripe p { st with shadow := .loaded a, bank := bank }).moved r)
    | _ => .next s

/-- SHADOW_DRAIN_DONE: the outgoing state is in its save slot, and in its snapshot slot where a marker closed its run. -/
def execShadowDrainDone (r : RingId) (p : StripeId) (s : State) : Out :=
  match s.liveFabric r with
  | none => .next s
  | some f =>
    let st := f.stripe p
    match st.shadow with
    | .draining a c snap =>
      if s.cycle r < c + (if snap.isSome then 33 else 17) then .next s
      else
        let v := f.vstripe a
        let pp := s.partOf r
        let s1 := s.writeSlot r (saveUnit pp (f.rank v)) (st.bank.get {})
        let s2 := match snap with | some w => s1.writeSlot r (snapUnit pp (f.rank v) w) (st.bank.get {}) | none => s1
        let s3 := (s2.modFabric r fun f => f.setStripe p { st with shadow := .free, bank := [] }).moved r
        .next (match snap with | some w => s3.snapDone r v w | none => s3)
    | _ => .next s

/-! ## Markers in resident mode (R194) -/

/-- The marker inputs of a stripe: its UP links, but for virtual stripe 0, and its bound EDGE in-ports (log 69). -/
def Fabric.markerGates (f : Fabric) (p : Nat) : List (Nat × InPort) := f.gates p ((f.stripe p).word.vstripe != 0)

/-- The marker at the head of every marker input of a stripe, or the next one sent where it has none. -/
def Fabric.markerAt (f : Fabric) (p : Nat) : Option Nat :=
  let st := f.stripe p
  match f.markerGates p with
  | [] => if st.handled < f.markers then some (st.handled + 1) else none
  | gs =>
    let ws := gs.map fun g => match (f.cell p g.1).fifo g.2 with | .marker w :: _ => some w | _ => none
    if ws.all (·.isSome) then ws.head?.join else none

/-- A marker that a stripe has handled goes on. -/
def State.passMarker (s : State) (r p : Nat) (f : Fabric) (w : Nat) : State :=
  ((s.sendDown r p f (some w) false).modFabric r fun f => f.setStripe p { f.stripe p with snapping := none, handled := w }).moved r

/-- MARKER_HANDLE: a stripe takes a marker from all its inputs, makes the rate check, and begins its snapshot or forwards it. -/
def execMarkerHandle (r : RingId) (p : StripeId) (s : State) : Out :=
  match s.liveFabric r with
  | none => .next s
  | some f =>
    let st := f.stripe p
    if f.scroll || !st.word.valid || st.snapping.isSome then .next s
    else if f.strayMarker p (f.markerGates p) then .next (s.trapFabric r 0x18)
    else if !s.stripeIdle r p f then .next s
    else
      match f.markerAt p with
      | none => .next s
      | some w =>
        let s1 := (s.popGates r p (f.markerGates p) false).rateCheck r p f
        match s1.liveFabric r with
        | none => .next s1
        | some _ =>
          if st.word.stateful then
            .next ((s1.modFabric r fun f => f.setStripe p { f.stripe p with snapping := some (w, s.cycle r) }).moved r)
          else .next ((s1.passMarker r p f w).waveCheck r)

/-- SNAPSHOT_WRITTEN: 16 cycles on, the snapshot is in its slot and the marker goes on. -/
def execSnapshotWritten (r : RingId) (p : StripeId) (s : State) : Out :=
  match s.liveFabric r with
  | none => .next s
  | some f =>
    match (f.stripe p).snapping with
    | none => .next s
    | some (w, c) =>
      if s.cycle r < c + 16 then .next s
      else
        let v := (f.stripe p).word.vstripe.toNat
        let s1 := s.writeSlot r (snapUnit (s.partOf r) (f.rank v) w) fun j => (f.cell p j).image
        .next ((s1.passMarker r p f w).snapDone r v w)

/-! ## ROLLBACK_RESTART (R168, R187, R194) -/

/-- The state with which a rollback to wave `w` loads a virtual stripe: its snapshot, or for wave 0 the image's. -/
def State.waveImage (s : State) (r w : Nat) (f : Fabric) (v : Nat) : Tab CellImage :=
  if w = 0 then (List.range 32).map fun j => (j, f.initial v j) else s.readSlot r (snapUnit (s.partOf r) (f.rank v) w)

/-- A cell with empty links. -/
def Cell.emptied (c : Cell) : Cell := { c with up := [], left := [], right := [], edge := [], out := [], headAt := [] }

/-- One ring's part of a restart at run `run`: links emptied, slots and stripes as they were at wave `w`. -/
def State.restartRing (s : State) (r w run : Nat) : State :=
  match s.fabric r with
  | none => s
  | some f =>
    let pp := s.partOf r
    let img (v : Nat) : Tab CellImage := if f.isStateful v then s.waveImage r w f v else []
    let s1 := if f.scroll then f.stateful.foldl (fun s v => s.writeSlot r (saveUnit pp (f.rank v)) ((img v).get {})) s else s
    let oldest := if f.scroll then run * f.segCount else 0
    let f1 : Fabric :=
      { f with cells := f.cells.map fun e => (e.1, e.2.emptied), wraps := [], passEntry := [], passReg := [], oldest := oldest, rollback := none,
               markers := w, snapped := f.snapped.filter (·.1 ≤ w), waveAt := f.waveAt.filter (·.1 ≤ w), stripes := [],
               clauses := f.clauses.map fun k => { k with tokIn := 0, tokOut := 0, counted := [] }, moved := s.counted f.lead, stirred := s.cycle f.lead }
    let f2 := (List.range f.p).foldl (fun g k =>
      let a := oldest + k
      (g.activate (a % f.p) a ((img (g.vstripe a)).get {})).setStripe (a % f.p)
        { (g.activate (a % f.p) a ((img (g.vstripe a)).get {})).stripe (a % f.p) with handled := w }) f1
    s1.modEng r fun e => { e with fabric := some f2 }

/-- Points of a walker's nest. -/
def Walker.total (x : Walker) : Nat := x.counts.foldl (· * ·) 1

/-- A walker as it stood at marker `w` (R166). -/
def Walker.rewind (x : Walker) (w sends : Nat) : Walker :=
  let n := x.marks.get 0 w
  { x with n := n, markers := w * sends, stopped := false, done := x.done && n == x.total, marks := x.marks.filter (·.1 ≤ w) }

/-- Ports and walkers of a pattern as a restart finds them. A port that shuttles feed, which are not rewound, goes on after what it has sent;
`keep` says that what waits there, or for shuttles to drain, stays (R218), where a rollback empties every FIFO (R168). -/
def Engines.rewind (e : Engines) (op w run : Nat) (keep : Bool) : Engines :=
  let inW := e.inWalkers.map fun x => if x.2.op = op then (x.1, x.2.rewind w 1) else x
  { e with
    inWalkers := inW
    outWalkers := e.outWalkers.map fun x =>
      if x.2.op = op then (x.1, x.2.rewind w (match e.outPorts.look x.1 with | some o => o.binders | none => 1)) else x
    inPorts := e.inPorts.map fun x =>
      if x.2.op = op && keep && x.2.shuttle then (x.1, { x.2 with branches := x.2.branches.map fun b => { b with pos := 0, run := run } })
      else if x.2.op = op then
        (x.1, { x.2 with fifo := [], inRun := 0, closing := false, runs := run,
                         ended := match Tab.look inW x.1 with | some k => k.n == k.total | none => x.2.ended,
                         branches := x.2.branches.map fun b => { b with pos := 0, run := run } })
      else x
    outPorts := e.outPorts.map fun x => if x.2.op = op && !(keep && x.2.shuttle) then (x.1, { x.2 with fifo := [] }) else x
    forks := e.forks.map fun k => if k.op = op then { k with waved := none, waves := w } else k }

/-- The run in which a pattern restarts at wave `w` (R194). -/
def State.waveRun (s : State) (lead w : Nat) : Nat :=
  match s.fabric lead with
  | some f => if w = 0 ∨ !f.scroll then 0 else f.waveAt.get 0 w / f.segCount
  | none => 0

/-- The pattern of a lead ring begins again at wave `w`. -/
def State.restartAt (s : State) (lead w : Nat) (keep : Bool) : State :=
  match s.fabric lead with
  | none => s
  | some f =>
    let run := s.waveRun lead w
    let s1 := (s.fabricRings lead).foldl (fun s k => s.restartRing k w run) s
    let s2 := s1.modEng lead fun e => e.rewind f.op w run keep
    if f.scroll then s2.bound lead (run * f.segCount) else s2

/-- ROLLBACK_RESTART: a pattern that has rolled back starts again from its last complete wave. -/
def execRollbackRestart (r : RingId) (s : State) : Out :=
  match s.running r, s.fabric r with
  | some _, some f => if f.rollback.isNone || f.lead != r then .next s else .next (s.restartAt r f.waveDone false)
  | _, _ => .next s

/-! ## The end of a fabric (R199) and its stall (R198) -/

/-- The last run with data, counted from 0. -/
def Engines.lastRun (e : Engines) (op : Nat) : Nat := ((e.inPorts.filter (·.2.op == op)).map (·.2.runs)).foldl max 1 - 1

/-- Whether configuration `a` of a segment has ended its run. -/
def Fabric.hasEnded (f : Fabric) (a : Nat) : Bool := a < f.oldest || ((f.stripe (a % f.p)).ended && (f.stripe (a % f.p)).a == a)

/-- The conditions of R199. -/
def State.fabricOver (s : State) (r : Nat) (f : Fabric) : Bool :=
  let e := (s.ring r).eng
  (e.inPorts.all fun x => x.2.op != f.op || (x.2.ended && noTokens x.2.fifo)) && (e.outPorts.all fun x => x.2.op != f.op || noTokens x.2.fifo) &&
    (e.outWalkers.all fun x => x.2.op != f.op || (x.2.n == x.2.total && x.2.inFlight == 0)) &&
    (s.fabricRings r).all fun k =>
      match s.fabric k with
      | none => true
      | some g =>
        g.empty &&
          (if g.scroll then g.segFirst + g.segCount != g.hdr.v || g.hasEnded ((e.lastRun f.op + 1) * g.segCount - 1)
           else (List.range g.p).all fun p => (g.stripe p).snapping.isNone && s.stripeIdle k p g)

/-- Stateful configurations that are still resident drain to their slots (R190). -/
def State.lastDrain (s : State) (r : Nat) : State :=
  match s.fabric r with
  | none => s
  | some f =>
    if f.scroll then
      (List.range f.p).foldl (fun s p =>
        let st := f.stripe p
        if st.word.stateful then s.writeSlot r (saveUnit (s.partOf r) (f.rank st.word.vstripe.toNat)) fun j => (f.cell p j).image else s) s
    else s

/-- The last cycle in which a fork or its fabric moved. -/
def State.forkMoved (s : State) (r : Nat) (k : Fork) : Nat :=
  (s.fabricRings r).foldl (fun m n => match s.fabric n with | some g => if g.op = k.op then max m g.stirred else m | none => m) k.moved

/-- FABRIC_FINISH: the fabric of a fork finishes; locked slices take the writes held for them (R24). Its last movement is progress of the fork
(R244). -/
def execFabricFinish (r : RingId) (s : State) : Out :=
  match s.liveFabric r with
  | none => .next s
  | some f =>
    match (s.ring r).eng.forks.find? fun k => k.op == f.op with
    | none => .next s
    | some fork =>
      if f.lead != r || fork.waved.isSome || !s.fabricOver r f then .next s
      else
        let rings := s.fabricRings r
        let s1 := rings.foldl State.lastDrain s
        let last := rings.foldl (fun m k => match s.fabric k with | some g => max m g.moved | none => m) 0
        let s2 := (rings.foldl (fun s k => (s.modEng k fun e => { e with fabric := none }).unlock k f.op) s1).modSeqr r fun q =>
          { q with ops := q.ops.map fun o => if o.snap.contains f.op then { o with since := max o.since last } else o }
        .next (s2.modEng r fun e => { e with forks := e.forks.map fun k => if k.op == f.op then { k with fabricDone := true, moved := s.forkMoved r k } else k })

/-- Whether a fork's fabric, walkers and start-list copies are done (R248). -/
def Engines.forkOver (e : Engines) (k : Fork) : Bool :=
  k.fabricDone && (e.inWalkers.all fun w => w.2.op != k.op || w.2.done) && (e.outWalkers.all fun w => w.2.op != k.op || w.2.done) && k.starts == 0

/-- FABRIC_STALL (R198): nothing of a fork has moved for 2^22 cycles before it finishes; those at a wave do not count, and those of a halt do. -/
def execFabricStall (r : RingId) (s : State) : Out :=
  let e := (s.ring r).eng
  match s.running r, e.forks.find? fun k => k.waved.isNone && !e.forkOver k && s.forkMoved r k + 2 ^ 22 ≤ s.cycle r with
  | some _, some k => .next (s.trapOn r .fabric 0x19 k.image 0)
  | _, _ => .next s

/-- A completed fork's walkers and their ports leave the ring; a shuttle may still drain one of its own (R214). -/
def Engines.dropFork (e : Engines) (op : Nat) : Engines :=
  { e with forks := e.forks.filter (·.op != op), inWalkers := e.inWalkers.filter (·.2.op != op), outWalkers := e.outWalkers.filter (·.2.op != op),
           inPorts := e.inPorts.filter (fun x => x.2.op != op || x.2.shuttle), outPorts := e.outPorts.filter (fun x => x.2.op != op || x.2.shuttle) }

/-- FORK_COMPLETE (R248): fabric, walkers and start-list copies are done, so the fork performs. -/
def execForkComplete (r : RingId) (h : Fin 4) (s : State) : Out :=
  let x := s.ring r
  match x.seqr.handles.get .free h.val with
  | .outstanding op =>
    match x.eng.forks.find? fun k => k.op == op with
    | some fork =>
      if (s.running r).isNone || !x.eng.forkOver fork then .next s
      else
        let n := min (s.cycle r - fork.start) (2 ^ 32 - 1)
        let s1 := (s.modEng r fun e => e.dropFork op).modSeqr r fun q => { q with handles := q.handles.put h.val (.complete op n) }
        let rings := match x.cur with | some t => t.rings | none => [r.val]
        .next (((rings.foldl (fun s k => s.unlock k op) s1).finishOp r op).endWaiting r)
    | none => .next s
  | _ => .next s

end Sys2Proof.Machine
end

