-- ==== Sys2Proof/Machine/Clock.lean ====
section
/-!
DEFINITION. The passing of ground time between two turns of the schedule (R45, log 1, log 2), with the events that count
cycles (R398) and the ticks of gangs (R138).
-/

namespace Sys2Proof.Machine

/-- Whether the oldest stripe of a ring is held under R189 (R398, event 0x0B). -/
def State.stripeHeld (s : State) (r : Nat) : Bool :=
  match s.liveFabric r with
  | some f => f.scroll && (f.stripe (f.oldest % f.p)).ended && !f.shadowOk (f.oldest % f.p)
  | none => false

/-- The cycle events of a ring for `n` cycles that end in state `t`, as the ring stood in `s` (R398). -/
def State.countCycles (s t : State) (r : Nat) : State :=
  let n := t.cycle r - s.cycle r
  if (s.running r).isSome && (s.ring r).seqr.perf.enable && n != 0 then
    let t1 := t.event r 0x01 n
    let t2 := if s.kwaitHolds r then t1.event r 0x07 n else t1
    if s.stripeHeld r then t2.event r 0x0B n else t2
  else t

/-- Whether a word that was ready keeps its age: only a slot that it targets, which another firing has reserved, stops it now (R298). -/
def State.keepsAge (s : State) (u : UnitId) (k : Nat) (i : Instr) : Bool :=
  let n := s.node u k
  !n.fired && (needs i n).all n.has && !s.targetsFree u k i && s.mayFire u k i

/-- Which words of a ring's cells have been ready since when, as the cycles of a tick that ends in state `t` go by (R179, log 91). -/
def State.ageCells (s t : State) (r : Nat) : State :=
  let now := s.cycle r
  match s.liveFabric r with
  | none => t
  | some _ =>
    if t.cycle r = now then t
    else
      let aged (n : Nat) (c : Cell) : Cell :=
        let u : UnitId := .cell (Fin.ofNat 32 r) (Fin.ofNat 16 (n / 32)) (Fin.ofNat 32 (n % 32))
        match s.view u with
        | none => c
        | some v =>
          { c with since := (List.range v.words.length).filterMap fun k =>
              match wordAt v.words k with
              | some i =>
                if s.canFire u k i != .wait then some (k, c.since.get now k)
                else if s.keepsAge u k i then (c.since.look k).map (k, ·)
                else none
              | none => none }
      t.modFabric r fun f => { f with cells := f.cells.map fun e => (e.1, aged e.1 e.2) }

/-- `ns` nanoseconds pass. -/
def State.tick (s : State) (ns : Nat) : State :=
  if ns = 0 then s
  else
    State.timePassed s ((List.range 32).foldl s.ageCells ((List.range 32).foldl s.countCycles (s.advance ns)))

end Sys2Proof.Machine
end

