-- ==== Sys2Proof/Machine/Compare.lean ====
section
/-!
DEFINITION. Group 0x3: comparisons, selection and predicates (R304, R323 to R326).
-/

namespace Sys2Proof.Machine

/-- CMPEQ (R323). -/
def execCmpeq (pd : Pred) (w : IWidth) (t1 t0 : Target) (s : State) : Out :=
  intWord (.cmpeq pd w t1 t0) w (fun _ a b _ => bit (a == b)) s

/-- CMPNE (R323). -/
def execCmpne (pd : Pred) (w : IWidth) (t1 t0 : Target) (s : State) : Out :=
  intWord (.cmpne pd w t1 t0) w (fun _ a b _ => bit (a != b)) s

/-- CMPLT (R323). -/
def execCmplt (pd : Pred) (w : IWidth) (t1 t0 : Target) (s : State) : Out :=
  intWord (.cmplt pd w t1 t0) w (fun w a b _ => bit (sgn w a < sgn w b)) s

/-- CMPLE (R323). -/
def execCmple (pd : Pred) (w : IWidth) (t1 t0 : Target) (s : State) : Out :=
  intWord (.cmple pd w t1 t0) w (fun w a b _ => bit (sgn w a ≤ sgn w b)) s

/-- CMPLTU (R323). -/
def execCmpltu (pd : Pred) (w : IWidth) (t1 t0 : Target) (s : State) : Out :=
  intWord (.cmpltu pd w t1 t0) w (fun _ a b _ => bit (a < b)) s

/-- CMPLEU (R323). -/
def execCmpleu (pd : Pred) (w : IWidth) (t1 t0 : Target) (s : State) : Out :=
  intWord (.cmpleu pd w t1 t0) w (fun _ a b _ => bit (a ≤ b)) s

/-- CMPEQI (R323). -/
def execCmpeqi (pd : Pred) (imm : BitVec 13) (t0 : Target) (s : State) : Out :=
  immWord (.cmpeqi pd imm t0) (fun w a => bit (sgn w a == imm.toInt)) s

/-- CMPLTI (R323). -/
def execCmplti (pd : Pred) (imm : BitVec 13) (t0 : Target) (s : State) : Out :=
  immWord (.cmplti pd imm t0) (fun w a => bit (sgn w a < imm.toInt)) s

/-- Neither operand is NaN (R324). -/
def ordered (f : RawFmt) (a b : Nat) : Bool := !f.isNaN a && !f.isNaN b

/-- FCMPEQ (R324). -/
def execFcmpeq (pd : Pred) (w : FWidth) (t1 t0 : Target) (s : State) : Out :=
  fcmpWord (.fcmpeq pd w t1 t0) w (fun f a b => ordered f a b && f.order a == f.order b) s

/-- FCMPLT (R324). -/
def execFcmplt (pd : Pred) (w : FWidth) (t1 t0 : Target) (s : State) : Out :=
  fcmpWord (.fcmplt pd w t1 t0) w (fun f a b => ordered f a b && f.order a < f.order b) s

/-- FCMPLE (R324). -/
def execFcmple (pd : Pred) (w : FWidth) (t1 t0 : Target) (s : State) : Out :=
  fcmpWord (.fcmple pd w t1 t0) w (fun f a b => ordered f a b && f.order a ≤ f.order b) s

/-- FCMPUN (R324). -/
def execFcmpun (pd : Pred) (w : FWidth) (t1 t0 : Target) (s : State) : Out :=
  fcmpWord (.fcmpun pd w t1 t0) w (fun f a b => !ordered f a b) s

/-- SEL (R325). -/
def execSel (pd : Pred) (w : IWidth) (t1 t0 : Target) (s : State) : Out :=
  intWord (.sel pd w t1 t0) w (fun _ a b c => if c % 2 = 1 then a else b) s

/-- PAND (R326). -/
def execPand (pd : Pred) (w : IWidth) (t1 t0 : Target) (s : State) : Out :=
  intWord (.pand pd w t1 t0) w (fun _ a b _ => bit (a % 2 == 1 && b % 2 == 1)) s

/-- POR (R326). -/
def execPor (pd : Pred) (w : IWidth) (t1 t0 : Target) (s : State) : Out :=
  intWord (.por pd w t1 t0) w (fun _ a b _ => bit (a % 2 == 1 || b % 2 == 1)) s

/-- PNOT (R326). -/
def execPnot (pd : Pred) (w : IWidth) (t1 t0 : Target) (s : State) : Out :=
  intWord (.pnot pd w t1 t0) w (fun _ a _ _ => 1 - a % 2) s

end Sys2Proof.Machine
end

