-- ==== Sys2Proof/Machine/Walkers.lean ====
section
/-!
DEFINITION. Edge walkers (R203 to R208) and the ports of a fork without a fabric part (R383): WALKER_TOKEN, PERIOD_MARKER,
WALKER_WRITE, WALKER_COMPLETE and PORT_DIRECT_FEED.
-/

namespace Sys2Proof.Machine

/-! ## An engine's access (R110, R113, R114) -/

/-- Where an engine's access goes: a cause, a miss that waits for its walk, or a place. -/
inductive Reach where
  | cause (c : Cause) (va : Word)
  | miss (va : Word)
  | place (s : State) (key : Nat) (home : Home)

/-- An address of a space, for an engine of a ring. -/
def State.engineAt (s : State) (r : Nat) (c : CtxId) (sp : Space) (va : Word) (u : Use) : Reach :=
  if spaceLimit sp ≤ va.toNat then .cause 0x0D va
  else
    match sp with
    | .p => .place s (poolKey r va.toNat) .pool
    | .w => .place s (sliceKey r va.toNat) .slice
    | .g | .io =>
      match s.lookup r c va u with
      | .cause e => .cause e va
      | .miss => .miss va
      | .place k h => .place (s.reached r c va h) k h

/-- A fork's engines have moved a byte (R198, R244). -/
def State.forkMoves (s : State) (r op : Nat) : State :=
  (s.modEng r fun e => { e with forks := e.forks.map fun k => if k.op = op then { k with moved := s.cycle r } else k }).modSeqr r fun q =>
    q.progress op (s.counted r)

/-- Whether the walkers of a fork may move: its ring runs, and its pattern neither rolls back nor stands at a wave (R146, R157, R168). -/
def State.walkersRun (s : State) (r op : Nat) : Bool :=
  (s.running r).isSome && (match s.fabric r with | some f => f.op != op || (f.rollback.isNone && !s.atWave r) | none => true) &&
    !((s.ring r).eng.forks.any fun k => k.op == op && k.waved.isSome)

/-! ## Nests (R205) -/

/-- The indices of point `n`, innermost first. -/
def nestIndex : List Nat → Nat → List Nat
  | [], _ => []
  | c :: t, n => n % c :: nestIndex t (n / c)

/-- The punctuation of a point: how many innermost indices stand at their last value. -/
def nestPunct : List Nat → Nat → Nat
  | [], _ => 0
  | c :: t, n => if n % c + 1 = c then nestPunct t (n / c) + 1 else 0

/-- The address of a walker's point. -/
def Walker.point (x : Walker) (n : Nat) : Word :=
  x.base + BitVec.ofInt 64 (((nestIndex x.counts n).zip x.strides).foldl (fun a p => a + (p.1 : Int) * p.2) 0)

def Walker.scaleAt (x : Walker) (n : Nat) : Word := x.scale + BitVec.ofNat 64 (8 * n)

/-- Whether a marker is owed after the tokens sent (R206). -/
def Walker.due (x : Walker) : Bool := x.period != 0 && x.n != 0 && x.n % x.period == 0 && x.markers < x.n / x.period

def State.modWalker (s : State) (r : Nat) (d : Dir) (p : Nat) (f : Walker → Walker) : State :=
  s.modEng r fun e =>
    match d with
    | .inbound => { e with inWalkers := modTab e.inWalkers p f }
    | .outbound => { e with outWalkers := modTab e.outWalkers p f }

def State.modIn (s : State) (r p : Nat) (f : InPortSt → InPortSt) : State := s.modEng r fun e => { e with inPorts := modTab e.inPorts p f }

def State.modOut (s : State) (r p : Nat) (f : OutPortSt → OutPortSt) : State := s.modEng r fun e => { e with outPorts := modTab e.outPorts p f }

/-! ## WALKER_TOKEN (R186, R205, R208) -/

/-- The fabric of a fork where it scrolls. -/
def State.scrolling (s : State) (r op : Nat) : Option Fabric :=
  match s.fabric r with
  | some f => if f.op == op && f.scroll then some f else none
  | none => none

/-- A data token joins a port: in scroll mode the run may close (R186, R200); a marker that is due closes it instead. `last`
says that it is the source's last one. -/
def InPortSt.addToken (o : InPortSt) (t : Tok) (hdr : Option PatHdr) (due last : Bool) : InPortSt :=
  let o1 := { o with fifo := o.fifo ++ [.tok t], count := o.count + 1, ended := last && !due, inRun := o.inRun + 1 }
  match hdr with
  | none => o1
  | some h =>
    let full := o1.inRun == h.q || (h.runlvl != 0 && h.runlvl ≤ t.punct.toNat) || last
    if due then { o1 with closing := true }
    else if full then { o1 with fifo := o1.fifo ++ [.boundary], inRun := 0, runs := o.runs + 1 }
    else o1

/-- A data token reaches a port and its place in the port's buffer (R201). -/
def State.portToken (s : State) (r p : Nat) (o : InPortSt) (t : Tok) (due last : Bool) : State :=
  let o1 := o.addToken t ((s.scrolling r o.op).map (·.hdr)) due last
  (s.modIn r p fun _ => o1).bufferToken r o.first o.cap o.count (.tok t)

/-- An inbound walker's engine and block, for its causes. -/
def State.walkerTrap (s : State) (r : Nat) (d : Dir) (x : Walker) (c : Cause) (va : Word) : State :=
  s.trapOn r (.walker d x.port) c x.desc va

/-- A walker meets uncorrectable data outside a clause: its knot will record it, or the context halts (R164, R208). -/
def State.walkerError (s : State) (r : Nat) (x : Walker) : State :=
  let s1 := s.modWalker r .inbound x.port.val fun x => { x with error := true }
  if x.knot.isNone then s1.walkerTrap r .inbound x 0x27 0 else s1

/-- The clause of the virtual stripe that a port feeds. -/
def Fabric.clauseOf (f : Fabric) (v : Nat) : Nat := f.clauses.findIdx fun k => k.first ≤ v && v ≤ k.last

/-- The token of a walker's next point has been read. -/
def State.walkerSend (s : State) (r : Nat) (x : Walker) (o : InPortSt) (key : Nat) (side : Word) : State :=
  let p := x.port.val
  let n := x.n + 1
  let t : Tok := { data := BitVec.ofNat 512 (s.load key 64), valid := 0xFFFF, punct := BitVec.ofNat 3 (nestPunct x.counts x.n), chan := x.chan, side := side }
  let due := x.period != 0 && n % x.period == 0
  (((s.modWalker r .inbound p fun x => { x with n := n }).portToken r p o t due (n == x.total)).event r 0x0D).forkMoves r x.op

/-- A walker reads its point, and its scale word where it has one. -/
def State.walkerRead (s : State) (r : Nat) (c : CtxId) (x : Walker) (o : InPortSt) : State :=
  let miss (va : Word) : State := s.miss r c va .read (.walker .inbound x.port) x.desc
  match s.engineAt r c x.space (x.point x.n) .read with
  | .cause e va => s.walkerTrap r .inbound x e va
  | .miss va => miss va
  | .place s1 key home =>
    let go (s : State) (bad : Bool) (side : Word) : State :=
      let (hit, s) := s.inject r 1 x.port.val
      if bad || hit then
        match s.fabric r with
        | some f => if f.op == x.op && !f.clauses.isEmpty then s.clauseError r (f.clauseOf o.vs) 0x0E else (s.walkerError r x).walkerSend r x o key side
        | none => (s.walkerError r x).walkerSend r x o key side
      else s.walkerSend r x o key side
    if !s1.reaches home true then s
    else if !x.scalearr then
      let s1 := s1.poolRead r key
      go s1 (s1.poisoned key 64) 0
    else
      match s1.engineAt r c x.space (x.scaleAt x.n) .read with
      | .cause e va => s.walkerTrap r .inbound x e va
      | .miss va => miss va
      | .place s2 k2 h2 =>
        if s2.reaches h2 true then
          let s2 := (s2.poolRead r key).poolRead r k2
          go s2 (s2.poisoned key 64 || s2.poisoned k2 8) (BitVec.ofNat 64 (s2.load k2 8))
        else s

/-- WALKER_TOKEN: an inbound walker delivers the token of its next point into its port. -/
def execWalkerToken (r : RingId) (port : PortId) (s : State) : Out :=
  match s.running r, (s.ring r).eng.inWalkers.look port.val, (s.ring r).eng.inPorts.look port.val with
  | some t, some x, some o =>
    if !s.walkersRun r x.op || x.done || x.stopped || x.total ≤ x.n || x.due || o.cap ≤ tokens o.fifo then .next s
    else .next (s.walkerRead r t.ctx x o)
  | _, _, _ => .next s

/-! ## PERIOD_MARKER (R206, R146) -/

/-- A marker joins a port; in scroll mode it closes the run that is open, and the boundary follows it (R186). -/
def InPortSt.addMarker (o : InPortSt) (w : Nat) (scroll last : Bool) : InPortSt :=
  if scroll then { o with fifo := o.fifo ++ [.marker w, .boundary], inRun := 0, closing := false, runs := o.runs + 1, ended := last }
  else { o with fifo := o.fifo ++ [.marker w], inRun := 0, ended := last }

/-- A walker that stands at a marker sends it. -/
def State.sendMarker (s : State) (r : Nat) (x : Walker) (stop : Bool) : State :=
  let w := x.markers + 1
  let old := x.marks.filter fun e => w ≤ e.1 + 1
  let s1 := s.modWalker r .inbound x.port.val fun x => { x with markers := w, marks := Tab.put old w x.n, stopped := stop }
  let s2 := s1.modIn r x.port.val fun o => o.addMarker w (s.scrolling r x.op).isSome (x.n == x.total)
  match s2.fabric r with
  | some f => if f.op = x.op then s2.modFabric r fun f => { f with markers := max f.markers w } else s2
  | none => s2

/-- A walker that has sent its last token stands there at every later marker (R166, R206). -/
def State.keepMark (s : State) (r w : Nat) (x : Walker) : State :=
  s.modWalker r .inbound x.port.val fun x => { x with marks := Tab.put (x.marks.filter fun e => w ≤ e.1 + 1) w x.n }

/-- Whether the walkers of a fork may send their markers: one stands at its marker, and each that has data left does. -/
def markersReady (l : List Walker) : Bool := l.any (·.due) && l.all fun x => x.period == 0 || x.n == x.total || x.due

/-- In resident mode, and without a fabric part, a marker enters every inbound port of its fork, so that each marker input of a stripe and each
outbound walker has it (R166, R194, R383, log 69): here those whose walker has sent its last token, and those that shuttles feed. -/
def State.markOthers (s : State) (r : Nat) (k : Fork) (w : Nat) (senders : List Walker) : State :=
  if k.hdr.period && (s.scrolling r k.op).isNone then
    s.modEng r fun e =>
      { e with inPorts := e.inPorts.map fun x =>
          if x.2.op == k.op && !(senders.any fun y => y.port.val == x.1) then (x.1, { x.2 with fifo := x.2.fifo ++ [.marker w] }) else x }
  else s

/-- Whether a fork's next marker waits until the wave before it is complete: a pattern with clauses can roll back to that wave, and its snapshots
and counters are those of the last two markers (R166, R168, log 93). -/
def State.waveWaits (s : State) (r op : Nat) : Bool :=
  match s.fabric r with
  | some f => f.op == op && !f.clauses.isEmpty && f.waveDone != f.markers
  | none => false

/-- The markers of a fork's inbound walkers leave; under REQ the walkers stand after them (R146). -/
def State.sendMarks (s : State) (r : Nat) (k : Fork) : State :=
  let mine := (s.ring r).eng.inOf k.op
  let senders := mine.filter (·.due)
  let w := match senders with | x :: _ => x.markers + 1 | [] => 0
  let ended := mine.filter fun x => x.period != 0 && !x.due
  let s1 := senders.foldl (fun s x => s.sendMarker r x ((s.ring r).slice.req && k.hdr.period)) s
  ((ended.foldl (fun s x => s.keepMark r w x) s1).markOthers r k w senders).forkMoves r k.op

/-- PERIOD_MARKER: all the inbound walkers of a fork send their markers in one cycle; with none to send, a fork that has come to its wave stops. -/
def execPeriodMarker (r : RingId) (s : State) : Out :=
  let e := (s.ring r).eng
  match e.forks.find? fun k => s.walkersRun r k.op && markersReady (e.inOf k.op) && !s.waveWaits r k.op with
  | none => if (s.running r).isSome then .next (s.waveCheck r) else .next s
  | some k => .next ((s.sendMarks r k).waveCheck r)

/-! ## WALKER_WRITE (R207, R24, R248) -/

/-- An engine's write: at its home, or on its way to another die with one more write in flight. -/
def State.engineWrite (s : State) (r : RingId) (c : CtxId) (who : Engine) (op : Nat) (home : Home) (cells : List Host.Cell)
    (flight : State → State) : State :=
  match remoteDie r home with
  | some d => (flight s).sendTo (.die d) { window := 0, ring := r, ctx := c, who := who, op := op, msg := .write cells }
  | none => s.store cells

/-- An outbound walker writes a token to its next point, and the sideband where it has a scale array. -/
def State.walkerPut (s : State) (r : RingId) (c : CtxId) (x : Walker) (t : Tok) : State :=
  let who : Engine := .walker .outbound x.port
  let p := x.port.val
  let miss (va : Word) : State := s.miss r c va .write who x.desc
  let flight (s : State) : State := s.modWalker r .outbound p fun x => { x with inFlight := x.inFlight + 1 }
  let finish (s : State) : State :=
    (((s.modWalker r .outbound p fun x => { x with n := x.n + 1 }).modOut r p fun o => { o with fifo := o.fifo.drop 1 }).event r 0x0D).forkMoves
      r x.op
  if x.total ≤ x.n || t.punct.toNat != nestPunct x.counts x.n then s.walkerTrap r .outbound x 0x18 0
  else
    match s.engineAt r c x.space (x.point x.n) .write with
    | .cause e va => s.walkerTrap r .outbound x e va
    | .miss va => miss va
    | .place s1 key home =>
      if s.heldHome r home then s
      else
      let write (s : State) : State := s.engineWrite r c who x.op home (laneCells key t.data t.valid) flight
      if !x.scalearr then finish (write s1)
      else
        match s1.engineAt r c x.space (x.scaleAt x.n) .write with
        | .cause e va => s.walkerTrap r .outbound x e va
        | .miss va => miss va
        | .place s2 k2 h2 => if s.heldHome r h2 then s else finish ((write s2).engineWrite r c who x.op h2 (cellsAt k2 (bytesLE 8 t.side.toNat)) flight)

/-- An outbound walker absorbs a marker; when each binding stripe has sent it, its counter is kept (R166). -/
def Walker.absorb (x : Walker) (sends : Nat) : Walker :=
  let m := x.markers + 1
  let w := m / sends
  if m % sends = 0 then { x with markers := m, marks := Tab.put (x.marks.filter fun e => w ≤ e.1 + 1) w x.n } else { x with markers := m }

/-- WALKER_WRITE: an outbound walker takes the head of its port. -/
def execWalkerWrite (r : RingId) (port : PortId) (s : State) : Out :=
  match s.running r, (s.ring r).eng.outWalkers.look port.val, (s.ring r).eng.outPorts.look port.val with
  | some t, some x, some o =>
    let drop (s : State) : State := s.modOut r port.val fun o => { o with fifo := o.fifo.drop 1 }
    if !s.walkersRun r x.op then .next s
    else
      match o.fifo with
      | .tok k :: _ => .next (((s.walkerPut r t.ctx x k).flowOut r).waveCheck r)
      | .marker _ :: _ => .next (((drop s).modWalker r .outbound port.val (·.absorb o.binders)).waveCheck r)
      | .boundary :: _ => .next (drop s)
      | [] => .next (s.waveCheck r)
  | _, _, _ => .next s

/-! ## WALKER_COMPLETE (R208) -/

/-- Whether a walker has nothing left to do. -/
def Engines.walkerOver (e : Engines) (d : Dir) (x : Walker) : Bool :=
  x.n == x.total &&
    match d with
    | .inbound => !x.due && (match e.inPorts.look x.port.val with | some o => noTokens o.fifo | none => true)
    | .outbound => x.inFlight == 0

def Engines.walker (e : Engines) (d : Dir) (p : Nat) : Option Walker :=
  match d with
  | .inbound => e.inWalkers.look p
  | .outbound => e.outWalkers.look p

/-- WALKER_COMPLETE: the walker is done; its knot gains 1, with the error it met (R165). -/
def execWalkerComplete (r : RingId) (dir : Dir) (port : PortId) (s : State) : Out :=
  match (s.ring r).eng.walker dir port.val with
  | none => .next s
  | some x =>
    let turn := match x.knot with | some k => s.addTurn r k.toNat (Engine.rank (.walker dir port)) | none => true
    if x.done || !s.walkersRun r x.op || !(s.ring r).eng.walkerOver dir x || !turn then .next s
    else
      let s1 := s.modWalker r dir port.val fun x => { x with done := true }
      match x.knot with
      | some k => .next (s1.knotAdd r k.toNat 1 x.error (.walker dir port) x.desc)
      | none => .next s1

/-! ## PORT_DIRECT_FEED (R383) -/

/-- Whether what a shuttle has sent into a port lies beyond the marker at which its fork is to stop (R146, R218). -/
def Engines.beyondStop (e : Engines) (i : InPortSt) : Bool :=
  i.shuttle && (e.inOf i.op).any (·.stopped) && i.fifo.all fun x => match x with | .marker _ => false | _ => true

/-- PORT_DIRECT_FEED: in a fork without a fabric part, inbound port `n` feeds outbound port `n`. -/
def execPortDirectFeed (r : RingId) (port : PortId) (s : State) : Out :=
  let e := (s.ring r).eng
  match e.inPorts.look port.val, e.outPorts.look port.val with
  | some i, some o =>
    match i.fifo with
    | [] => .next s
    | x :: rest =>
      if !s.walkersRun r i.op || e.beyondStop i || i.op != o.op || !(e.forks.any fun k => k.op == i.op && !k.fabric) || (x.isTok && o.cap ≤ tokens o.fifo) then .next s
      else .next (((s.modIn r port.val fun i => { i with fifo := rest }).outPut r port.val x).forkMoves r i.op)
  | _, _ => .next s

end Sys2Proof.Machine
end

