-- ==== Sys2Proof/Machine/Shuttles.lean ====
section
/-!
DEFINITION. Shuttles (R210 to R217, R411): SHUTTLE_START, SHUTTLE_COMMAND_READ, SHUTTLE_BEAT, SHUTTLE_COMMAND_COMPLETE and
COPY_COMPLETE.
-/

namespace Sys2Proof.Machine

/-! ## SHUTTLE_START (R210, R211) -/

def Ring.chan (x : Ring) (ch : Nat) : Chan := x.eng.chans.get {} ch

/-- SHUTTLE_START: an aperture store with an empty snapshot is accepted where its channel has a place; for a FORK, the next entry
of its start list that waits for one. -/
def execShuttleStart (r : RingId) (op : Nat) (s : State) : Out :=
  match s.op? r op, s.served r with
  | some o, some _ =>
    match o.work with
    | .aperture ch word =>
      if !o.free || 8 ≤ ((s.ring r).chan ch.val).queue.length then .next s
      else
        .next ((s.modChan r ch.val fun c => { c with queue := c.queue ++ [{ op := some op, fork := none, word := word }] }).modOp r op fun o =>
          { o with stage := .started })
    | .fork .. =>
      match (s.ring r).eng.forks.find? fun k => k.op == op with
      | some k =>
        match k.waiting.find? fun x => ((s.ring r).chan x.1.val).queue.length < 8 with
        | some x =>
          .next ((s.modEng r fun e =>
            { e with forks := e.forks.map fun k => if k.op == op then { k with waiting := k.waiting.erase x } else k }).pushStart r op x)
        | none => .next s
      | none => .next s
    | _ => .next s
  | _, _ => .next s

/-! ## Templates (R212, R213) -/

def Endpoint.parse (n : Nat) : Endpoint :=
  { type := BitVec.ofNat 8 (bitsOf n 0 8), zone := BitVec.ofNat 8 (bitsOf n 8 8), chip := BitVec.ofNat 16 (bitsOf n 16 16),
    loc := BitVec.ofNat 8 (bitsOf n 32 8), slot := BitVec.ofNat 8 (bitsOf n 40 8), gen := BitVec.ofNat 16 (bitsOf n 48 16),
    addr := BitVec.ofNat 64 (bitsOf n 64 64), stride1 := BitVec.ofNat 32 (bitsOf n 128 32), stride2 := BitVec.ofNat 32 (bitsOf n 160 32) }

def Template.parse (n : Nat) : Template :=
  { kind := BitVec.ofNat 8 (bitsOf n 16 8), chain := bitsOf n 24 1 == 1, knotv := bitsOf n 25 1 == 1, bytecnt := bitsOf n 26 1 == 1,
    next := BitVec.ofNat 16 (bitsOf n 32 16), knot := BitVec.ofNat 6 (bitsOf n 48 6), rfmt := BitVec.ofNat 8 (bitsOf n 56 8),
    carry := BitVec.ofNat 32 (bitsOf n 64 32), expect := BitVec.ofNat 32 (bitsOf n 96 32), src := .parse (bitsOf n 128 192),
    dst := .parse (bitsOf n 320 192), count0 := bitsOf n 512 32, count1 := bitsOf n 544 32, count2 := bitsOf n 576 32 }

/-- A nonzero bit in a zero field of an endpoint. -/
def Endpoint.unknown (e : Endpoint) : Bool :=
  (if e.type == 4 then e.zone.extractLsb' 4 4 != 0 else e.zone != 0 || e.chip != 0) || e.loc.extractLsb' 5 3 != 0 || e.slot.extractLsb' 6 2 != 0 ||
    (e.type == 3 && e.addr &&& ~~~0x1F7 != 0)

/-- A nonzero bit in a zero field of a template, or a kind or reduce format that it does not name (R212, R214 to R216). -/
def templateUnknown (n : Nat) (first : Bool) : Bool :=
  let t := Template.parse n
  bitsOf n 27 5 != 0 || bitsOf n 54 2 != 0 || bitsOf n 608 32 != 0 || trailing n 5 || t.src.unknown || t.dst.unknown || (!t.chain && t.next != 0) ||
    (t.kind != 1 && t.rfmt != 0) || (t.kind != 3 && (t.carry != 0 || t.expect != 0)) || (t.kind == 3 && ((!first && t.carry != 0) || (t.chain && t.expect != 0))) ||
    (t.kind == 2 && (t.src.stride1 != 0 || t.src.stride2 != 0)) || 3 < t.kind.toNat ||
    (t.kind == 1 && !([0, 1, 2, 6].contains t.rfmt.toNat))

/-- Fields of a start word (R210). -/
def startOffset (w : Word) : Nat := (w.extractLsb' 16 48).toNat
def startOdst (w : Word) : Bool := w.getLsbD 13
def startOsrc (w : Word) : Bool := w.getLsbD 12

/-- Whether a fork whose handle is outstanding gives a port to shuttles (R214, R383, R384). -/
def State.sidePort (s : State) (r : Nat) (d : Dir) (p : Nat) : Bool :=
  let x := s.ring r
  let live (op : Nat) : Bool :=
    (x.eng.forks.any fun k => k.op == op) || x.seqr.handles.any fun e => match e.2 with | .complete n _ => n == op | _ => false
  match d with
  | .inbound => match x.eng.inPorts.look p with | some o => o.shuttle && live o.op | none => false
  | .outbound => match x.eng.outPorts.look p with | some o => o.shuttle && live o.op | none => false

/-- The place of an eyelet: the ring that LOC names (R213). -/
def Endpoint.ring (e : Endpoint) : Nat := 4 * (e.loc.extractLsb' 0 3).toNat + (e.loc.extractLsb' 3 2).toNat

def Endpoint.port (e : Endpoint) : Nat := (e.addr.extractLsb' 0 3).toNat

/-- An endpoint in memory whose address, strides or offset are no multiples of 64. -/
def Endpoint.skewed (e : Endpoint) : Bool := e.type.toNat < 3 && ((e.addr.toNat % 64 != 0) || (e.stride1.toNat % 64 != 0) || (e.stride2.toNat % 64 != 0))

/-- Check 3 of R214. -/
def State.endpointBad (s : State) (r : Nat) (t : Template) (w : Word) : Bool :=
  let a := t.src
  let b := t.dst
  4 < a.type.toNat || 4 < b.type.toNat || a.type == 4 || (a.type == 3 && !s.sidePort r .outbound a.port) ||
    (b.type == 3 && !s.sidePort r .inbound b.port) || (t.kind != 2 && a.skewed) || b.skewed ||
    (t.kind != 2 && startOsrc w && a.type == 3) || (startOdst w && b.type == 3) || (t.kind == 1 && (b.type == 2 || b.type == 3)) ||
    (t.kind == 2 && (a.type != 0 || b.type == 3 || b.type == 4)) || (b.type == 4 && !s.reachable b.chip (b.ring / 4)) ||
    t.count0 < 64 || t.count0 % 64 != 0 || t.count1 == 0 || t.count2 == 0

/-- The command at a template, read and checked (R214). -/
def readTemplate (r : Nat) (c : CtxId) (run : Copy) : Load Template := do
  let va := templateVa run.template.toNat
  let n ← readBlock r c va 5
  let t := Template.parse n
  failIf (templateUnknown n (run.length == 0)) 0x1E va
  failIf (16 < bitsOf n 8 8 || 4095 < t.next.toNat || 4096 ≤ run.length) 0x1D va
  let s ← get
  failIf (s.endpointBad r t run.start.word) 0x20 va
  pure t

/-! ## SHUTTLE_COMMAND_READ -/

/-- A cause of a shuttle channel: BLOCK names the template (R158). -/
def State.copyTrap (s : State) (r : Nat) (ch : ChanId) (run : Copy) (e : Cause × Word) : State :=
  match (s.ring r).cur, (s.ring r).resident with
  | none, some c => s.raise c r (.shuttle ch) e.1 (templateVa run.template.toNat) e.2
  | _, _ => s.trapOn r (.shuttle ch) e.1 (templateVa run.template.toNat) e.2

/-- SHUTTLE_COMMAND_READ: a channel takes its next start, or the next command of the chain that it runs. -/
def execShuttleCommandRead (r : RingId) (ch : ChanId) (s : State) : Out :=
  let k := (s.ring r).chan ch.val
  let next : Option (Copy × List Start) :=
    match k.run, k.queue with
    | some run, q => if run.cmd.isNone && !run.finished then some (run, q) else none
    | none, st :: q => some ({ start := st, template := st.word.setWidth 12 }, q)
    | none, [] => none
  match s.served r, next with
  | some c, some (run, q) =>
    match (readTemplate r c run).go s with
    | (.error e, s1) => .next ((s1.modChan r ch.val fun _ => { queue := q, run := some run }).copyTrap r ch run e)
    | (.ok cmd, s1) =>
      let crc := if run.length = 0 then cmd.carry else run.crc
      .next (s1.modChan r ch.val fun _ =>
        { queue := q, run := some { run with cmd := some cmd, length := run.length + 1, beat := 0, crc := crc, knot := if cmd.knotv then some cmd.knot else run.knot } })
  | _, _ => .next s

/-! ## SHUTTLE_BEAT (R213, R215, R216, R231, R232) -/

def Template.beats (t : Template) : Nat := t.count0 * t.count1 * t.count2 / 64

/-- Address of a beat at an endpoint. -/
def Endpoint.beatAt (e : Endpoint) (t : Template) (b offset : Nat) : Word :=
  let x := 64 * b
  e.addr + BitVec.ofNat 64 (offset + x % t.count0) + BitVec.ofInt 64 (e.stride1.toInt * (x / t.count0 % t.count1 : Nat)) +
    BitVec.ofInt 64 (e.stride2.toInt * (x / (t.count0 * t.count1) : Nat))

def endSpace (ty : BitVec 8) : Space :=
  match ty.toNat with
  | 0 => .g
  | 1 => .p
  | _ => .w

/-- What a channel has of its source beat. -/
inductive Source64 where
  | cause (e : Cause × Word)
  | wait (s : State)
  | data (s : State) (d : BitVec 512) (bad : Bool)

/-- The source of a beat. -/
def State.beatSource (s : State) (r : Nat) (c : CtxId) (ch : ChanId) (run : Copy) (t : Template) : Source64 :=
  let off := if startOsrc run.start.word then startOffset run.start.word else 0
  if t.kind = 2 then .data s ((List.range 8).foldl (fun d _ => d <<< 64 ||| t.src.addr.setWidth 512) 0) false
  else if t.src.type = 3 then
    match (s.ring r).eng.outPorts.look t.src.port with
    | some o =>
      let rest := o.fifo.dropWhile fun e => !e.isTok
      match rest with
      | .tok k :: l => .data ((s.modOut r t.src.port fun o => { o with fifo := l }).flowOut r) k.data false
      | _ => .wait (s.modOut r t.src.port fun o => { o with fifo := [] })
    | none => .wait s
  else
    match s.engineAt r c (endSpace t.src.type) (t.src.beatAt t run.beat off) .read with
    | .cause e va => .cause (e, va)
    | .miss va => .wait (s.miss r c va .read (.shuttle ch) (templateVa run.template.toNat))
    | .place s1 key home =>
      if s1.reaches home true then
        let s1 := s1.poolRead r key
        .data s1 (BitVec.ofNat 512 (s1.load key 64)) (s1.poisoned key 64)
      else .wait s

/-- One bit of a beat inverted (R172). -/
def flipBit (d : BitVec 512) (w : Word) : BitVec 512 := d ^^^ (1#512 <<< injBit w)

/-- A running copy has met an error: the first one counts (R217). -/
def Copy.meet (c : Copy) (e : Cause) : Copy := { c with error := some (c.error.getD e) }

/-- A copy whose command names an eyelet over a lost route stops: the knot of the command takes ERROR, or with none the context takes LINK_LOST
(R235). It never completes (R411, log 99). -/
def State.stopLost (s : State) (r : RingId) (ch : ChanId) (t : Template) : State :=
  let s1 := s.modCopy r ch.val Copy.stop
  if t.knotv then s1.knotError r t.knot.toNat
  else
    match s.served r with
    | some c => s1.lostOnce c r (.shuttle ch) 0
    | none => s1

/-- A message of a channel towards an eyelet, one more in flight. -/
def State.shuttleSend (s : State) (r : RingId) (c : CtxId) (ch : ChanId) (run : Copy) (e : Endpoint) (m : Msg) : State :=
  let op := (run.start.op.orElse fun _ => run.start.fork).getD 0
  (s.modCopy r ch.val fun c => { c with inFlight := c.inFlight + 1 }).sendTo (pathTo e.chip e.ring)
    { window := 0, ring := r, ctx := c, who := .shuttle ch, op := op, msg := m }

/-- A beat of a channel into memory of the ring's die or another. -/
def State.shuttlePut (s : State) (r : RingId) (c : CtxId) (ch : ChanId) (run : Copy) (t : Template) (key : Nat) (home : Home)
    (d : BitVec 512) (bad : Bool) : State :=
  let op := (run.start.op.orElse fun _ => run.start.fork).getD 0
  let s := if t.kind == 1 then s.poolRead r key else s
  let bad := bad || (t.kind == 1 && s.poisoned key 64)
  let v := if bad && t.kind == 1 then reduceBeat t.rfmt (BitVec.ofNat 512 (s.load key 64)) d else d
  let m : Msg := if bad then .spoil (beatCells key v) else if t.kind == 1 then .reduce t.rfmt key d else .write (beatCells key d)
  let s := if bad then s.modCopy r ch.val (·.meet 0x27) else s
  let w : PipeWrite := { window := 0, ring := r, ctx := c, who := .shuttle ch, op := op, msg := m }
  let s1 := s.modCopy r ch.val fun c => { c with inFlight := c.inFlight + 1 }
  match remoteDie r home with
  | some d => s1.sendTo (.die d) w
  | none => s1.applyMsg w false

/-- The chain's verdict follows the last beat of a checksum-copy into an eyelet (R232, R411). -/
def State.sendVerdict (s : State) (r : RingId) (c : CtxId) (ch : ChanId) (run : Copy) (t : Template) (crc : W32) : State :=
  if t.kind = 3 ∧ t.dst.type = 4 ∧ !t.chain ∧ run.beat + 1 = t.beats then
    let v : EyeVerdict :=
      { chip := ownChip, ring := r, chan := ch, zone := t.dst.zone.setWidth 4, slot := t.dst.slot.setWidth 6, gen := t.dst.gen,
        good := crc ^^^ BitVec.allOnes 32 == t.expect }
    s.shuttleSend r c ch run t.dst (.verdict (Fin.ofNat 32 t.dst.ring) v)
  else s

/-- A beat has left for its destination. -/
def State.beatSent (s : State) (r ch : Nat) (run : Copy) (crc : W32) : State :=
  let s1 := (s.modCopy r ch fun c => { c with beat := run.beat + 1, crc := crc }).event r 0x0C 64
  match run.start.op, run.start.fork with
  | some op, _ => s1.modSeqr r fun q => q.progress op (s.counted r)
  | none, some op => s1.forkMoves r op
  | none, none => s1

/-- A beat goes to its destination, which has been asked first whether it can take it. -/
def State.beatTo (s : State) (r : RingId) (c : CtxId) (ch : ChanId) (run : Copy) (t : Template) (dest : Option (Nat × Home)) : State :=
  match s.beatSource r c ch run t with
  | .cause e => s.copyTrap r ch run e
  | .wait s => s
  | .data s1 d0 bad =>
    let w := (s1.ring r).errInject
    let (hit, s2) := s1.inject r 0 ch.val
    let d := if hit then flipBit d0 w else d0
    let crc := if t.kind = 3 then crcRun run.crc (bytesLE 64 d.toNat) else run.crc
    let s3 :=
      match dest, t.dst.type.toNat with
      | some (key, home), _ => s2.shuttlePut r c ch run t key home d bad
      | none, 3 =>
        let k : Tok := { data := d, valid := 0xFFFF, chan := t.dst.addr.extractLsb' 4 5 }
        let s2 := if bad then s2.modCopy r ch.val (·.meet 0x27) else s2
        match (State.ring s2 r).eng.inPorts.look t.dst.port with
        | some o => State.portToken s2 r t.dst.port { o with fed := true } k false false
        | none => s2
      | none, _ =>
        let s2 := if bad then s2.modCopy r ch.val (·.meet 0x27) else s2
        let off := if startOdst run.start.word then startOffset run.start.word else 0
        let b : EyeBeat :=
          { chip := ownChip, ring := r, chan := ch, zone := t.dst.zone.setWidth 4, slot := t.dst.slot.setWidth 6, gen := t.dst.gen,
            offset := (t.dst.beatAt t run.beat off).toNat, data := d, check := t.kind == 3, reduce := if t.kind = 1 then some t.rfmt else none, bad := bad }
        (s2.shuttleSend r c ch run t.dst (.beat (Fin.ofNat 32 t.dst.ring) b)).sendVerdict r c ch run t crc
    s3.beatSent r ch.val run crc

/-- SHUTTLE_BEAT: a channel moves its next 64 bytes, waits for a translation or a place, or stops. -/
def execShuttleBeat (r : RingId) (ch : ChanId) (s : State) : Out :=
  match s.served r, ((s.ring r).chan ch.val).run with
  | some c, some run =>
    match run.cmd with
    | none => .next s
    | some cmd =>
      if cmd.beats ≤ run.beat then .next s
      else if cmd.dst.type = 3 then
        match (s.ring r).eng.inPorts.look cmd.dst.port with
        | some o => if tokens o.fifo < o.cap then .next (s.beatTo r c ch run cmd none) else .next s
        | none => .next s
      else if cmd.dst.type = 4 then
        if s.heldBack r (pathTo cmd.dst.chip cmd.dst.ring) then .next s
        else if s.wayTo r (pathTo cmd.dst.chip cmd.dst.ring) then .next (s.beatTo r c ch run cmd none)
        else .next (s.stopLost r ch cmd)
      else
        let off := if startOdst run.start.word then startOffset run.start.word else 0
        match s.engineAt r c (endSpace cmd.dst.type) (cmd.dst.beatAt cmd run.beat off) .write with
        | .cause e va => .next (s.copyTrap r ch run (e, va))
        | .miss va => .next (s.miss r c va .write (.shuttle ch) (templateVa run.template.toNat))
        | .place s1 key home =>
          if s.heldHome r home || (cmd.kind == 1 && s.heldKey key) then .next s else .next (s1.beatTo r c ch run cmd (some (key, home)))
  | _, _ => .next s

/-! ## Completion (R216, R217) -/

/-- An add of a copy to a completion knot, with the error that it carries there. -/
def State.copyAdd (s : State) (r : Nat) (ch : ChanId) (error : Option Cause) (block : Word) (k : BitVec 6) (n : Nat) : State :=
  s.knotAdd r k.toNat n error.isSome (.shuttle ch) block

/-- Whether a channel's add to a knot has its turn in this cycle (R221). -/
def State.copyTurn (s : State) (r : Nat) (ch : ChanId) (k : BitVec 6) : Bool := s.addTurn r k.toNat (Engine.rank (.shuttle ch))

/-- Bytes of a command, and whether its knot counts them (R217). -/
def Template.bytes (t : Template) : Nat := t.count0 * t.count1 * t.count2

def Template.counts (t : Template) : Bool := t.knotv && t.bytecnt

/-- SHUTTLE_COMMAND_COMPLETE: every write of the command has performed; the chain goes on, or its checksum is compared. A count of bytes reaches
its knot now, but the last command's once the copy has completed (R217, R248). -/
def execShuttleCommandComplete (r : RingId) (ch : ChanId) (s : State) : Out :=
  match s.served r, ((s.ring r).chan ch.val).run with
  | some _, some run =>
    match run.cmd with
    | none => .next s
    | some t =>
      if run.beat < t.beats || run.inFlight != 0 || run.finished || (t.counts && !s.copyTurn r ch t.knot) then .next s
      else
        let bad := t.kind = 3 ∧ !t.chain ∧ run.crc ^^^ BitVec.allOnes 32 ≠ t.expect
        let run1 := if bad then run.meet 0x27 else run
        let run2 := { run1 with cmd := none, template := if t.chain then t.next.setWidth 12 else run.template, finished := !t.chain,
                                lastAdd := if t.counts && !t.chain then some (t.knot, t.bytes) else none
                                chainKnot := if t.knotv && !t.bytecnt then run.chainKnot ++ [t.knot] else run.chainKnot }
        let now := t.counts && t.chain
        let s1 := s.modChan r ch.val fun c => { c with run := some (if now then { run2 with error := none } else run2) }
        .next (if now then s1.copyAdd r ch run2.error (templateVa run.template.toNat) t.knot t.bytes else s1)
  | _, _ => .next s

/-- The channel is free, and what started the copy performs or has one copy less to wait for (R211, R248). -/
def State.copyDone (s : State) (r ch : Nat) (st : Start) : State :=
  let s1 := s.modChan r ch fun c => { c with run := none }
  match st.op, st.fork with
  | some op, _ => s1.finishOp r op
  | none, some op => s1.modEng r fun e => { e with forks := e.forks.map fun k => if k.op == op then { k with starts := k.starts - 1 } else k }
  | none, none => s1

/-- Adds to knots, the first of them with the error that the copy carries. -/
def State.copyAdds (s : State) (r : Nat) (ch : ChanId) (error : Option Cause) (block : Word) (l : List (BitVec 6 × Nat)) : State :=
  (l.foldl (fun (a : State × Option Cause) k => (a.1.copyAdd r ch a.2 block k.1 k.2, none)) (s, error)).1

/-- What a copy adds to knots once it has completed: the bytes of its last command, and 1 for each command that counts its chain (R217). -/
def Copy.adds (c : Copy) : List (BitVec 6 × Nat) := c.lastAdd.toList ++ c.chainKnot.map fun k => (k, 1)

/-- A copy that stopped at a lost route leaves its channel; what started it never performs (R235, R254). -/
def State.copyGone (s : State) (r ch : Nat) (st : Start) : State :=
  let s1 := s.modChan r ch fun c => { c with run := none }
  match st.op with
  | some op => s1.modOp r op fun o => { o with stage := .failed }
  | none => s1

/-- COPY_COMPLETE: the chain completes, what started it performs, and then the adds of the chain take effect (R248), the first of them with the error
that the copy carries. An error that no add takes sets ERROR on the last knot that the chain names (log 77), or with none halts the context
(R217). -/
def execCopyComplete (r : RingId) (ch : ChanId) (s : State) : Out :=
  match s.served r, ((s.ring r).chan ch.val).run with
  | some _, some run =>
    if !run.finished || run.inFlight != 0 then .next s
    else if run.stopped then .next (s.copyGone r ch.val run.start)
    else if !run.adds.all fun k => s.copyTurn r ch k.1 then .next s
    else
      let block := templateVa run.template.toNat
      match run.error, run.adds, run.knot with
      | some e, [], none => .next (s.copyTrap r ch run (e, 0))
      | some _, [], some k => .next ((s.copyDone r ch.val run.start).knotError r k.toNat)
      | e, l, _ => .next ((s.copyDone r ch.val run.start).copyAdds r ch e block l)
  | _, _ => .next s

end Sys2Proof.Machine
end

