-- ==== Sys2Proof/Machine/Eyelets.lean ====
section
/-!
DEFINITION. Arrivals at a ring's eyelets (R227 to R237, R152): RESERVATION_REQUEST, RESERVATION_RESULT, EYELET_BEAT, CHECKSUM_VERDICT,
RESERVATION_TIMEOUT and EYELET_RETRY.
-/

namespace Sys2Proof.Machine

/-! ## Zones and their owners (R227) -/

/-- How a zone stands towards arrivals. -/
inductive Standing where
  | none | live | saved | absent
  deriving DecidableEq, Repr

def Ring.standing (x : Ring) (n : Nat) : Standing :=
  match (x.zone n).owner with
  | .none => .none
  | some o => if x.holds o then .saved else if x.resident == some o && x.entered then .live else .absent

/-! ## Messages at a ring (R231) -/

/-- Whether a message is visible at its ring now, and the state without it: the oldest of those that wait there, or one of another chip as it comes
in (log 11). One that comes while others of its chip wait there waits behind them (R412). -/
def State.letIn (s : State) (chip : BitVec 16) (r : RingId) (stamp : Nat) (m : Msg) : State × Bool :=
  if (s.dev.arrived.find? fun x => x.ring? == some r) = some m then (s.modDev fun d => { d with arrived := d.arrived.erase m }, true)
  else if chip = ownChip ∨ s.dev.arrived.contains m then (s, false)
  else
    match s.comesIn chip r stamp m with
    | (s1, true) =>
      if s1.dev.arrived.any fun x => x.ring? == some r && x.chip? == some chip then (s1.modDev fun d => { d with arrived := d.arrived ++ [m] }, false)
      else (s1, true)
    | x => x

/-- The answer to a beat or verdict goes back to its sender (R229, R231). -/
def State.answerCopy (s : State) (at' : Nat) (chip : BitVec 16) (ring : RingId) (ch : ChanId) (refused : Option Cause) : State :=
  if chip = ownChip then
    let s1 := s.modCopy ring ch.val fun c => { c with error := if c.error.isSome then c.error else refused }
    let op := match (s.ring ring).eng.chans.look ch.val with
      | some { run := some c, .. } => (c.start.op.orElse fun _ => c.start.fork).getD 0
      | _ => 0
    if s.dev.flush && ringDie at' != ringDie ring then s1.awaitAck ring (.shuttle ch) op else s1.enginePerforms ring (.shuttle ch)
  else s.notify (.chip chip) (.answer ring ch refused)

/-! ## RESERVATION_REQUEST and RESERVATION_RESULT (R229, R230) -/

/-- The result word of a grant. -/
def grantWord (slot : Nat) (gen : BitVec 16) : Word := BitVec.ofNat 64 (slot + 2 ^ 6 * gen.toNat + 2 ^ 22)

/-- The lowest-numbered FREE slot. -/
def Zone.freeSlot (z : Zone) : Option Nat := (List.range z.count).find? fun k => (z.slot k).state == .free

/-- What a live zone answers to a request. -/
def State.reserve (s : State) (r : Nat) (q : ResvReq) : State × Word :=
  let z := (s.ring r).zone q.zone.toNat
  if z.key != q.key then (s, resvError)
  else
    match z.freeSlot with
    | none => (s, 0)
    | some k =>
      let e := z.slot k
      (s.modZone r q.zone.toNat fun z =>
        z.setSlot k { gen := e.gen, state := .reserved, holder := q.chip, timer := s.cycle r }, grantWord k e.gen)

/-- A reservation result on its way back from a ring, on VC 1 (R229); for a ring of a die that is not live the device answers its own chip at
once. -/
def State.sendGrant (s : State) (r : RingId) (q : ResvReq) (v : Word) : State :=
  if q.chip = ownChip ∧ s.dev.live.getLsbD (ringDie r) = false then s.modDev fun d => { d with answers := d.answers ++ [(q.ring, q.op, v)] }
  else if q.chip = ownChip then
    let c := match s.op? q.ring q.op with | some o => o.ctx | none => 0
    s.sendTo (.die (ringDieId q.ring)) { window := 0, ring := r, ctx := c, who := .eyelet, op := q.op, msg := .grant q.ring q.op v }
  else s.notify (.chip q.chip) (.grant q.ring q.op v)

/-- A request as its zone stands: answered, or kept for the sender to repeat; a die that is not live grants nothing. -/
def State.request (s : State) (r : RingId) (q : ResvReq) : State :=
  if !s.dev.live.getLsbD (ringDie r) then s.sendGrant r q resvError
  else
    match (s.ring r).standing q.zone.toNat with
    | .saved => s.modRing r fun x => { x with retries := x.retries ++ [.request r q] }
    | .live =>
      let (s1, v) := s.reserve r q
      (s1.modRing r fun x => { x with asked := x.asked.put q.zone.toNat (s.cycle r) }).sendGrant r q v
    | _ => s.sendGrant r q resvError

/-- Whether the answer to a request would have to enter a pipe that drains. -/
def State.grantHeld (s : State) (r : RingId) (q : ResvReq) : Bool := q.chip == ownChip && s.heldBack r (.die (ringDieId q.ring))

/-- RESERVATION_REQUEST. -/
def execReservationRequest (r : RingId) (req : Stamped ResvReq) (s : State) : Out :=
  if s.grantHeld r req.body then .next s
  else
    match s.letIn req.body.chip r req.stamp (.request r req.body) with
    | (s1, true) => .next (s1.request r req.body)
    | (s1, false) => .next s1

/-- A request to another chip is no longer on its way: its result has come (R163). -/
def State.unsend (s : State) (r : RingId) (op : Nat) : State :=
  s.modDev fun d =>
    { d with pipes := d.pipes.map fun x =>
        { x with writes := x.writes.filter fun w => !(w.ring == r && w.op == op && match w.msg with | .request .. => true | _ => false) } }

/-- The result that waits for an LZRESV, taken. -/
def State.takeAnswer (s : State) (r : RingId) (o : Op) : State :=
  match s.dev.answers.find? fun a => a.1 == r && a.2.1 == o.id with
  | some a => ((s.modDev fun d => { d with answers := d.answers.erase a }).unsend r o.id).resvResult r o a.2.2
  | none => s

/-- RESERVATION_RESULT: the result of an LZRESV returns, and it performs. One from another chip, stamped there, is visible under R48. -/
def execReservationResult (r : RingId) (op : Nat) (res : Stamped Word) (s : State) : Out :=
  match s.op? r op with
  | none => .next s
  | some o =>
    match o.work, o.stage with
    | .resv target _, .sent =>
      if resvChip target = ownChip ∨ s.dev.answers.any fun a => a.1 == r && a.2.1 == op then .next (s.takeAnswer r o)
      else
        match s.comesIn (resvChip target) r res.stamp (.grant r op (res.body &&& 0xFFFFFF)) with
        | (s1, true) => .next ((s1.unsend r op).resvResult r o (res.body &&& 0xFFFFFF))
        | (s1, false) => .next s1
    | _, _ => .next s

/-! ## EYELET_BEAT (R231, R215) -/

/-- First byte of a slot in the pool. -/
def Zone.slotAt (z : Zone) (k : Nat) : Nat := 4096 * z.base.toNat + k * z.slotBytes

/-- Why a slot refuses a sender. -/
def Zone.refuses (z : Zone) (k : Nat) (chip gen : BitVec 16) : Bool :=
  let e := z.slot k
  z.count ≤ k || e.state != .reserved || e.gen != gen || e.holder != chip

/-- A slot that has all its bytes, and the verdict where it waits for one, is full: its zone knot gains 1. -/
def State.fillSlot (s : State) (r n k : Nat) : State :=
  let z := (s.ring r).zone n
  let e := z.slot k
  if e.state == .reserved && e.arrived == z.slotBytes && (!e.awaits || e.good) then
    (s.modZone r n fun z => z.setSlot k { e with state := .full }).zoneAdd r n
  else s

/-- An accepted beat lands in its slot; uncorrectable data marks the sector (R164). -/
def State.landBeat (s : State) (r : Nat) (b : EyeBeat) : State :=
  let n := b.zone.toNat
  let z := (s.ring r).zone n
  let k := b.slot.toNat
  let key := poolKey r (z.slotAt k + b.offset)
  let s := if b.reduce.isSome then s.poolRead r key else s
  let d := match b.reduce with | some f => reduceBeat f (BitVec.ofNat 512 (s.load key 64)) b.data | none => b.data
  let e := z.slot k
  let bad := b.bad || (b.reduce.isSome && s.poisoned key 64)
  ((s.storeAs (beatCells key d) bad).modZone r n fun z =>
    z.setSlot k { e with arrived := e.arrived + 64, timer := s.cycle r, awaits := e.awaits || b.check }).fillSlot r n k

/-- A beat at a zone that its owner's residence makes live: the state, and the cause of a refusal, or of an error that a reduce-add has met as it
read the slot (R164). -/
def State.takeBeat (s : State) (r : Nat) (b : EyeBeat) : State × Option Cause :=
  let z := (s.ring r).zone b.zone.toNat
  if z.refuses b.slot.toNat b.chip b.gen then (s, some 0x23)
  else if z.slotBytes < b.offset + 64 then (s, some 0x24)
  else (s.landBeat r b, if b.reduce.isSome && s.poisoned (poolKey r (z.slotAt b.slot.toNat + b.offset)) 64 then some 0x27 else none)

/-- A beat as its zone stands; a die that is not live refuses it (R230). -/
def State.beat (s : State) (r : RingId) (b : EyeBeat) : State :=
  if !s.dev.live.getLsbD (ringDie r) then s.answerCopy r b.chip b.ring b.chan (some 0x23)
  else
    match (s.ring r).standing b.zone.toNat with
    | .saved => s.modRing r fun x => { x with retries := x.retries ++ [.beat r b] }
    | .live =>
      let (s1, e) := s.takeBeat r b
      s1.answerCopy r b.chip b.ring b.chan e
    | _ => s.answerCopy r b.chip b.ring b.chan (some 0x23)

/-- Whether what a message at a zone may add to the zone knot has its turn in this cycle (R221). -/
def State.zoneTurn (s : State) (r n : Nat) : Bool := s.addTurn r ((s.ring r).zone n).knot.toNat (Engine.rank .eyelet + n)

/-- EYELET_BEAT: a beat that has become visible is written and counted, refused, or answered with retry. -/
def execEyeletBeat (r : RingId) (beat : Stamped EyeBeat) (s : State) : Out :=
  if !s.zoneTurn r beat.body.zone.toNat then .next s
  else
    match s.letIn beat.body.chip r beat.stamp (.beat r beat.body) with
    | (s1, true) => .next (s1.beat r beat.body)
    | (s1, false) => .next s1

/-! ## CHECKSUM_VERDICT (R232, R237) -/

/-- A verdict at a live zone: a good one makes the slot full now or with its last beat; a bad one tears it. -/
def State.takeVerdict (s : State) (r : Nat) (v : EyeVerdict) : State :=
  let n := v.zone.toNat
  let z := (s.ring r).zone n
  let k := v.slot.toNat
  let e := z.slot k
  if z.refuses k v.chip v.gen then s
  else if v.good then (s.modZone r n fun z => z.setSlot k { e with good := true, awaits := true }).fillSlot r n k
  else (s.modZone r n fun z => z.setSlot k e.tear).zoneError r n

/-- A verdict as its zone stands. -/
def State.verdict (s : State) (r : RingId) (v : EyeVerdict) : State :=
  if !s.dev.live.getLsbD (ringDie r) then s.answerCopy r v.chip v.ring v.chan none
  else
    match (s.ring r).standing v.zone.toNat with
    | .saved => s.modRing r fun x => { x with retries := x.retries ++ [.verdict r v] }
    | .live => (s.takeVerdict r v).answerCopy r v.chip v.ring v.chan none
    | _ => s.answerCopy r v.chip v.ring v.chan none

/-- CHECKSUM_VERDICT: the verdict of a checksum-copy has become visible. -/
def execChecksumVerdict (r : RingId) (verdict : Stamped EyeVerdict) (s : State) : Out :=
  if !s.zoneTurn r verdict.body.zone.toNat then .next s
  else
    match s.letIn verdict.body.chip r verdict.stamp (.verdict r verdict.body) with
    | (s1, true) => .next (s1.verdict r verdict.body)
    | (s1, false) => .next s1

/-! ## RESERVATION_TIMEOUT and EYELET_RETRY (R234, R152) -/

/-- RESERVATION_TIMEOUT: once 2^TOUT cycles have passed without an accepted beat the reservation ends; a beat of the last cycle is accepted
(R234, R237). -/
def execReservationTimeout (r : RingId) (zone : Fin 16) (slot : Fin 64) (s : State) : Out :=
  let z := (s.ring r).zone zone.val
  let e := z.slot slot.val
  if (s.ring r).standing zone.val != .live || z.count ≤ slot.val || e.state != .reserved || s.beatWaits r zone.val ||
      s.cycle r ≤ e.timer + 2 ^ z.tout.toNat then .next s
  else if e.arrived = 0 then .next (s.modZone r zone.val fun z => z.setSlot slot.val e.freed)
  else .next ((s.modZone r zone.val fun z => z.setSlot slot.val e.tear).zoneError r zone.val)

/-- The kind of a message that can be answered with retry. -/
def Msg.retryKind? : Msg → Option RetryKind
  | .request .. => some .request
  | .beat .. => some .beat
  | .verdict .. => some .verdict
  | _ => none

/-- The zone that a message is for. -/
def Msg.zone : Msg → Nat
  | .request _ q => q.zone.toNat
  | .beat _ b => b.zone.toNat
  | .verdict _ v => v.zone.toNat
  | _ => 0

/-- Whether a message that is repeated may be acted on now. -/
def State.retryTurn (s : State) (r : RingId) : Msg → Bool
  | .request _ q => !s.grantHeld r q
  | m => s.zoneTurn r m.zone

/-- A message of an eyelet as its zone stands. -/
def State.actOn (s : State) : Msg → State
  | .request r q => s.request r q
  | .beat r b => s.beat r b
  | .verdict r v => s.verdict r v
  | _ => s

/-- The first message of a kind that is to be repeated: its zone is not saved any more, and nothing older of its sender waits for the same zone
(R412). -/
def State.retryNext (s : State) (r : RingId) (kind : RetryKind) : Option Msg :=
  let l := (s.ring r).retries
  l.find? fun m => m.retryKind? == some kind && (s.ring r).standing m.zone != .saved &&
    (l.find? fun x => x.chip? == m.chip? && x.zone == m.zone) == some m

/-- EYELET_RETRY: a sender repeats what was answered with retry, oldest first. -/
def execEyeletRetry (r : RingId) (kind : RetryKind) (s : State) : Out :=
  match s.retryNext r kind with
  | some m => if s.retryTurn r m then .next ((s.modRing r fun x => { x with retries := x.retries.erase m }).actOn m) else .next s
  | none => .next s

end Sys2Proof.Machine
end

