-- ==== Sys2Proof/Machine/Preempt.lean ====
section
/-!
DEFINITION. Pre-emption: the end of a slice (R141), yield saves and forced saves (R143 to R148), the save record (R149) and the
restore of a saved task (R151 to R153).
-/

namespace Sys2Proof.Machine

/-! ## SLICE_END (R141, R142) -/

/-- Whether another context waits for a ring (R141): it has a saved task there, or, where CTX_RINGS holds the ring, a staged task or a
ready index that may run there. -/
def State.waitsFor (s : State) (r : Nat) (c : CtxId) : Bool :=
  s.dispatches c &&
    ((s.ring r).holds c || s.allowed c r && ((match (s.ring r).staged with | some g => g.task.ctx == c | none => false) ||
      (s.ctx c).table.any fun p =>
        p.ready &&
          (if p.fields.placed then p.fields.rings.contains r && !(p.shares.get [] (ringDie p.fields.ring.val)).isEmpty
           else !(p.shares.get [] (ringDie r)).isEmpty)))

/-- SLICE_END: where another context waits, pre-emption of the running task is requested; else a new slice begins. -/
def execSliceEnd (r : RingId) (s : State) : Out :=
  match s.running r with
  | none => .next s
  | some t =>
    let l := (s.ring r).slice
    if t.lead != r || l.req || s.cycle r < l.start + l.len then .next s
    else if (List.finRange 64).any fun c => c != t.ctx && t.rings.any fun k => s.waitsFor k c then
      .next (s.modRing r fun x => { x with slice := { l with req := true, remain := 2 ^ (t.yclass + 8), remainAt := some (s.cycle r) } })
    else .next (s.startSlice r t)

/-! ## The record written (R149) -/

/-- The whole record. -/
def State.saveRecord (s : State) (r : Nat) (t : Task) (forced : Bool) (l : Live) : List Byte :=
  let x := s.ring r
  let q := x.seqr
  let body := s.saveSections r t.ctx forced l
  let addr := match (s.ctx t.ctx).table.find? fun p => p.key == t.record with | some p => p.addr | none => 0
  let strands := (List.range 8).flatMap fun i => bytesLE 2 (q.issued.get 0 i).toNat
  let dones := (List.range 8).flatMap fun i => bytesLE 2 (q.done.get 0 i).toNat
  [1, if forced then 2 else 1, BitVec.ofNat 8 r, x.stripes.setWidth 8] ++ bytesLE 4 (96 + body.length) ++ bytesLE 8 q.pc.toNat ++
    bytesLE 8 addr ++ bytesLE 4 t.tile.toNat ++ bytesLE 4 (crc32c body).toNat ++ bytesLE 8 s.gt.toNat ++ bytesLE 8 q.poolPart.toNat ++
    strands ++ dones ++ [if q.priv then 1 else 0] ++ List.replicate 15 0 ++ body

/-- Bytes written at an address of a context, piece by piece. -/
def writeVirt (r : Nat) (c : CtxId) : Nat → Word → List Byte → Load Unit
  | 0, _, _ => pure ()
  | _, _, [] => pure ()
  | fuel + 1, va, bs => do
    let k := 64 - va.toNat % 64
    writePiece va (bs.take k)
    writeVirt r c fuel (va + BitVec.ofNat 64 k) (bs.drop k)
where
  /-- Bytes that lie in one sector. -/
  writePiece (va : Word) (bs : List Byte) : Load Unit := fun s =>
    match s.translate r c va .write with
    | (s1, .error e) => (.error (e, va), s1)
    | (s1, .ok (key, _)) => (.ok (), s1.store (cellsAt key bs))

/-! ## The start of a save (R143, R145, R147) -/

/-- A save begins with what its table held: the engines of the task stand, and the counts of R198 and R244 with them. -/
def State.beginSave (s : State) (r : Nat) (t : Task) (forced : Bool) (l : Live) : State :=
  let v : Saving := { forced := forced, live := l, start := s.cycle r }
  t.rings.foldl (fun s k => (s.pause k).modRing k fun x => { x with saving := some v }) s

/-- The save begins where SAVE_BYTES covers it (log 92). -/
def State.saveWith (s : State) (r : Nat) (t : Task) (forced : Bool) (l : Live) : State :=
  if s.saveFits r t.ctx forced l then s.beginSave r t forced l else s.trapSeq r 0x2F t.live

/-- The table is read and judged, and the save begins; none where a stack holds the reads back (R416). -/
def State.trySave (s : State) (r : Nat) (t : Task) (forced : Bool) (entry : Nat) : Option State :=
  match (readLive r t entry).go s with
  | (.error (c, va), s1) => if c = heldRead then none else some (s1.trapSeq r c va)
  | (.ok l, s1) => some (s1.saveWith r t forced l)

/-- FORCED_SAVE (R147): REMAIN is zero with the task not saved, so its block is discarded and everything is to be saved. A
rollback ends first (R173). -/
def execForcedSave (r : RingId) (s : State) : Out :=
  match s.running r with
  | none => .next s
  | some t =>
    let back := match s.fabric r with | some f => f.rollback.isSome | none => false
    if t.lead != r || !(s.ring r).slice.req || s.remain r != 0 || back then .next s
    else
      let s1 := (s.trapSeq r 0x2E 0).modSeqr r fun q => { q.discard with yielded := none, live := none }
      .next ((s1.trySave r t true 0).getD s)

/-- A FORK whose pattern is stopped at its wave, or which has been accepted and has finished (R143). -/
def Ring.forkRests (x : Ring) (o : Op) : Bool :=
  match o.work with
  | .fork .. => x.eng.forks.any fun f => f.op == o.id && f.waved.isSome
  | _ => false

/-- The conditions of R143, under which a yield save begins. -/
def Ring.quiet (x : Ring) : Bool :=
  x.seqr.blk.isNone && x.seqr.landing.isEmpty && (x.seqr.ops.all fun o => o.old || x.forkRests o) && (x.eng.forks.all (·.waved.isSome)) &&
    x.eng.chans.all fun e => e.2.queue.isEmpty && e.2.run.isNone

/-- YIELD_SAVE (R143): a task at its checkpoint is to be saved, by the table that was read there (R145). -/
def execYieldSave (r : RingId) (s : State) : Out :=
  match s.running r, (s.ring r).seqr.yielded with
  | some t, some n =>
    if t.lead != r || !(s.ring r).slice.req || !(s.ring r).quiet then .next s
    else
      match (s.ring r).seqr.live with
      | some l => .next (s.saveWith r t false l)
      | none => .next ((s.trySave r t false n.toNat).getD s)
  | _, _ => .next s

/-! ## SAVE_COMPLETE (R147, R149) -/

/-- The task that a ring saves, where nothing stops the save (R148). -/
def State.saves (s : State) (r : Nat) : Option (Task × Saving) :=
  let x := s.ring r
  let d := s.die (ringDie r)
  match x.cur, x.saving with
  | some t, some v =>
    let c := s.ctx t.ctx
    if c.halted || c.closing || d.tstop || d.pwr != .running || d.rst != .idle || t.lead.val != r then none else some (t, v)
  | _, _ => none

/-- Whether a request of a ring's operation waits for a retry at some ring (R152). -/
def State.resvRetries (s : State) (r op : Nat) : Bool :=
  (List.range 32).any fun k => (s.ring k).retries.any fun m => m.sentBy r && match m with | .request _ q => q.op == op | _ => false

/-- Beats and verdicts of a ring's channel that wait for a retry (R152). -/
def State.copyRetries (s : State) (r ch : Nat) : Nat :=
  ((List.range 32).map fun k =>
    ((s.ring k).retries.filter fun m => m.sentBy r && match m with | .beat _ b => b.chan == ch | .verdict _ v => v.chan == ch | _ => false).length).sum

/-- Whether an EGR waits for room in its queue (R82). -/
def State.egrWaits (s : State) (r : Nat) (o : Op) : Bool := (s.ctx o.ctx).egq.waiting.any fun w => w.2.1 == r && w.2.2 == o.id

/-- An operation that a forced save does not wait for: one that has started an engine, that waits for a token, for room or for a retry, or that
waits for another operation (R147, R152, R401, log 95). -/
def State.opSettled (s : State) (r : Nat) (o : Op) : Bool :=
  o.old || o.stage == .failed ||
    match o.work with
    | .fork .. | .ingr _ => true
    | .aperture .. => o.stage == .started || o.stage == .queued
    | .resv .. => (!o.snap.isEmpty && o.stage == .queued) || s.resvRetries r o.id
    | .egr .. => (!o.snap.isEmpty && o.stage == .queued) || s.egrWaits r o
    | _ => !o.snap.isEmpty && o.stage == .queued

/-- The settle step is over: operations have performed, values have landed, and nothing is on its way but what waits for a retry. -/
def State.settled (s : State) (r : Nat) : Bool :=
  let x := s.ring r
  x.seqr.landing.isEmpty && x.seqr.ops.all (s.opSettled r) && (x.eng.outWalkers.all (·.2.inFlight == 0)) &&
    x.eng.chans.all fun e => match e.2.run with | some c => c.inFlight == s.copyRetries r e.1 | none => true

/-- What engines keep in a yield save: forks stopped at a wave, with their fabrics, walkers and ports. -/
def Engines.waves (e : Engines) (ops : List Nat) : Engines :=
  { forks := e.forks.filter fun f => ops.contains f.op, fabric := e.fabric.filter fun f => ops.contains f.op,
    inPorts := e.inPorts.filter fun x => ops.contains x.2.op, outPorts := e.outPorts.filter fun x => ops.contains x.2.op,
    inWalkers := e.inWalkers.filter fun x => ops.contains x.2.op, outWalkers := e.outWalkers.filter fun x => ops.contains x.2.op }

/-- Pool bytes that sections 6 and 7 hold: the snapshot area of a fork stopped at its wave, and the other pools of a span. -/
def State.savedPools (s : State) (r : Nat) (t : Task) (forced : Bool) : List Host.Cell :=
  let units := 256 - (s.ring r).seqr.poolPart.toNat / 256
  let part (k first : Nat) : List Host.Cell := s.mem.filter fun c => poolKey k first ≤ c.1 && c.1 < poolKey (k + 1) 0
  if forced then (t.rings.filter (· != r)).flatMap fun k => part k 0
  else if (s.ring r).eng.forks.any (·.waved.isSome) then t.rings.flatMap fun k => part k (0x10000 * units)
  else []

/-- The saved task, beside its record. -/
def State.savedTask (s : State) (r : Nat) (t : Task) (v : Saving) : Saved :=
  let forced := v.forced
  let l := v.live
  let x := s.ring r
  let q := x.seqr
  let waved := (s.wavedForks r).map (·.1.op)
  { task := t, buffer := l.saveVa, stripes := x.stripes,
    engines := t.rings.map fun k => (k, if forced then (s.ring k).eng else (s.ring k).eng.waves waved),
    ops := q.ops.filter (!·.old), pending := q.pending, owed := q.owed,
    handles := q.handles.filter fun e => forced || (match e.2 with | .outstanding op => waved.contains op | _ => false),
    zones := x.owned t.ctx, pools := s.savedPools r t forced, stepDue := q.stepDue, ending := q.ending, priv := q.priv, forced := forced,
    retries := (List.range 32).flatMap fun k => (s.ring k).retries.filter (·.sentBy r)
    since := s.cycle r, counted := s.counted r, took := s.cycle r - v.start }

/-- What a saved task's shuttles and requests would repeat leaves the rings that have answered with retry (R152, log 95). -/
def State.takeRetries (s : State) (r : Nat) : State :=
  (List.range 32).foldl (fun s k => s.modRing k fun x => { x with retries := x.retries.filter fun m => !m.sentBy r }) s

/-- It is repeated again once the task is restored. -/
def State.giveRetries (s : State) (v : Saved) : State :=
  v.retries.foldl (fun s m => match m.ring? with | some k => s.modRing k fun x => { x with retries := x.retries ++ [m] } | none => s) s

/-- EGRs of a ring that wait for room leave their queue, to be issued again (log 95). -/
def State.recallEgrs (s : State) (r : Nat) (t : Task) : State :=
  let back := (s.ring r).seqr.ops.filter fun o => !o.old && s.egrWaits r o
  let s1 := s.modCtx t.ctx fun x => { x with egq := { x.egq with waiting := x.egq.waiting.filter fun w => !(w.2.1 == r && back.any fun o => o.id == w.2.2) } }
  back.foldl (fun s o => s.modOp r o.id fun o => { o with stage := .queued }) s1

/-- The rings of a saved task are free, and its context has a task that is ready there (R131). -/
def State.leaveRings (s : State) (r : Nat) (t : Task) (v : Saved) : State :=
  let s1 := t.rings.foldl (fun s k => (s.unpause k).modRing k fun x =>
    { x with cur := none, saving := none, slice := {}, forcedLast := false, eng := {}, misses := x.misses.filter (·.ctx != t.ctx),
             seqr := { ops := x.seqr.ops.filter (·.old), nextOp := x.seqr.nextOp } }) s
  (s1.modRing r fun x => { x with saved := x.saved ++ [v] }).passes (ringDie r)

/-- SAVE_COMPLETE: the record is written, and the ring is free for another task. -/
def execSaveComplete (r : RingId) (s : State) : Out :=
  match s.saves r with
  | none => .next s
  | some (t, v) =>
    if v.forced && !s.settled r then .next s
    else
      let rec' := s.saveRecord r t v.forced v.live
      match (writeVirt r t.ctx (rec'.length / 64 + 2) v.live.saveVa rec').go s with
      | (.error (c, va), s1) => .next (s1.trapSeq r c va)
      | (.ok _, s1) =>
        let s2 := s1.recallEgrs r t
        .next ((({ s2 with freeCtr := s2.freeCtr + rec'.length }).takeRetries r).leaveRings r t (s2.savedTask r t v))

/-! ## The record read back (R151) -/

/-- What the sections of a record place. -/
structure Placed where
  x : Tab Word := []
  v : Tab VReg := []
  knots : Tab Knot := []
  pool : List Host.Cell := []
  stack : List Word := []
  deriving DecidableEq, Repr

/-- A knot from its value word and target. -/
def Knot.ofSaved (n : Nat) : Knot :=
  { count := BitVec.ofNat 32 (bitsOf n 0 32), phase := n.testBit 32, error := n.testBit 33, mode := n.testBit 34,
    target := BitVec.ofNat 32 (bitsOf n 64 32) }

def VReg.ofSaved (n : Nat) : VReg := { data := BitVec.ofNat 512 n, valid := BitVec.ofNat 16 (bitsOf n 512 16) }

/-- Item `k` of a masked section's data, as a number. -/
def itemOf (d : List Byte) (k size : Nat) : Nat := natLE ((d.drop (8 + size * k)).take size)

/-- Items of a masked section by number. -/
def itemsOf {α : Type} (d : List Byte) (n size : Nat) (f : Nat → α) : Tab α :=
  let m := maskList (natLE (d.take 8)) n
  (List.range m.length).map fun k => (m.getD k 0, f (itemOf d k size))

/-- Zero fields of a section's data (R149). -/
def sectionUnknown (ty : Nat) (d : List Byte) : Bool :=
  let m := natLE (d.take 8)
  match ty with
  | 2 => m / 256 != 0 || (List.range (maskList m 8).length).any fun k => bitsOf (itemOf d k 80) 528 112 != 0
  | 3 => (List.range (maskList m 64).length).any fun k => bitsOf (itemOf d k 16) 96 32 != 0 || bitsOf (itemOf d k 16) 35 29 != 0
  | 4 => ((d.drop 8).take 8).any (· != 0)
  | _ => false

/-- One section's items are placed; sections 6 to 8 are the device's own. -/
def Placed.add (p : Placed) (r ty : Nat) (d : List Byte) : Placed :=
  match ty with
  | 1 => { p with x := itemsOf d 64 8 (BitVec.ofNat 64) }
  | 2 => { p with v := itemsOf d 8 80 VReg.ofSaved }
  | 3 => { p with knots := itemsOf d 64 16 Knot.ofSaved }
  | 4 => { p with pool := p.pool ++ cellsAt (poolKey r (4096 * natLE (d.take 4))) (d.drop 16) }
  | 5 => { p with stack := (List.range (natLE (d.take 8))).map fun k => BitVec.ofNat 64 (itemOf d k 8) }
  | _ => p

/-- Every section in order; none where a zero field is not zero. -/
def Placed.run (r : Nat) : Nat → List Byte → Placed → Option Placed
  | 0, _, p => some p
  | _, [], p => some p
  | fuel + 1, bs, p =>
    let n := natLE ((bs.drop 8).take 8)
    let pad := (64 - n % 64) % 64
    let d := (bs.drop 16).take n
    let ty := natLE (bs.take 1)
    if ((bs.drop 1).take 3).any (· != 0) || ((bs.drop (16 + n)).take pad).any (· != 0) || sectionUnknown ty d then none
    else Placed.run r fuel (bs.drop (16 + n + pad)) (p.add r ty d)

/-- The check of a header (R151). -/
def headerOk (r : Nat) (v : Saved) (h body : List Byte) : Bool :=
  let n := natLE h
  bitsOf n 0 8 == 1 && bitsOf n 16 8 == r && bitsOf n 24 8 == v.stripes.toNat && bitsOf n 224 32 == (crc32c body).toNat &&
    bitsOf n 336 48 == 0 && bitsOf n 641 127 == 0

/-- The record of a saved task, read and checked: its header as a number, and what it places. -/
def readRecord (r : Nat) (v : Saved) : Load (Nat × Placed) := do
  let h ← readBytes r v.task.ctx v.buffer 96
  let body ← readBytes r v.task.ctx (v.buffer + 96) (bitsOf (natLE h) 32 32 - 96)
  failIf (!headerOk r v h body) 0x30 v.buffer
  match Placed.run r body.length body {} with
  | some p => pure (natLE h, p)
  | none => throw (0x30, v.buffer)

/-! ## RESTORE (R151 to R153) -/

/-- The counts of R198, by `cycles`, and of R244, by `counted`, go on where the save left them, and walkers that a request had stopped go on. -/
def Engines.later (e : Engines) (cycles counted : Nat) : Engines :=
  { e with inWalkers := e.inWalkers.map fun x => (x.1, { x.2 with stopped := false })
           forks := e.forks.map fun f => { f with moved := f.moved + cycles }
           fabric := e.fabric.map fun f => { f with moved := f.moved + counted, stirred := f.stirred + cycles } }

/-- A task takes its rings again, with registers, knots, zones and pools as the record and the device hold them. -/
def State.placeTask (s : State) (r : Nat) (v : Saved) (h : Nat) (p : Placed) : State :=
  let t := v.task
  let now := s.cycle r
  let d := s.counted r - v.counted
  let s := (s.giveRetries v).acted t.ctx
  let s1 := t.rings.foldl (fun s k =>
    (s.touch t.ctx (.die (Fin.ofNat 8 (ringDie k)))).modRing k fun x =>
      { x with cur := some t, entered := true, stripes := v.stripes, forcedLast := v.forced, residency := [],
               eng := (v.engines.get {} k).later (now - v.since) d }) s
  let mem := t.rings.foldl (fun m k => m.clear (poolKey k 0) (2 ^ 24)) s1.mem
  let s2 := { s1 with mem := (mem.apply p.pool).apply v.pools }
  let q := (s2.ring r).seqr
  let counters (at' : Nat) : Tab (BitVec 16) := (List.range 8).map fun i => (i, BitVec.ofNat 16 (bitsOf h (at' + 16 * i) 16))
  s2.modRing r fun x =>
    { x with
      staged := none
      saved := x.saved.filter (· != v)
      knots := v.errors.foldl (fun t k => t.put k { t.get {} k with error := true }) p.knots
      zones := v.zones.foldl (fun z e => z.put e.1 { e.2 with slots := e.2.slots.map fun k => (k.1, { k.2 with timer := k.2.timer + (now - v.since) }) }) x.zones
      restored := some (now, v.took)
      seqr :=
        { x := p.x, v := p.v, pc := BitVec.ofNat 64 (bitsOf h 64 64), stack := p.stack, pending := v.pending, priv := h.testBit 640,
          handles := v.handles, issued := counters 384, done := counters 512,
          ops := q.ops ++ v.ops.map fun o => { o with since := o.since + d }, nextOp := q.nextOp, owed := v.owed,
          poolPart := BitVec.ofNat 16 (bitsOf h 320 16), stepDue := v.stepDue, ending := v.ending } }

/-- A walker re-forked at a wave takes up the counters of its last markers. -/
def Walker.resume (x : Walker) (old : Option Walker) : Walker :=
  match old with
  | some y => { x with n := y.n, marks := y.marks, markers := y.markers, error := y.error, done := y.done }
  | none => x

/-- An inbound port that shuttles feed is as it was when its fork stopped: what it holds was saved with the fork (R218). -/
def InPortSt.resume (o : InPortSt) (old : Option InPortSt) : InPortSt :=
  match old with
  | some y => if o.shuttle then { y with branches := o.branches } else o
  | none => o

/-- An outbound port that shuttles drain, the same. -/
def OutPortSt.resume (o : OutPortSt) (old : Option OutPortSt) : OutPortSt :=
  match old with
  | some y => if o.shuttle then y else o
  | none => o

/-- What stands in a port's FIFO stands in its buffer (R201). -/
def State.refillBuffer (s : State) (r first cap count : Nat) (l : List Entry) : State :=
  let toks := l.filter (·.isTok)
  (toks.zipIdx.foldl (fun s e => s.bufferToken r first cap (count - toks.length + e.2) e.1) s)

/-- A fork in wave form is re-forked from its image: stripes from the snapshots, walkers after the marker (R151). Ports on the shuttle side keep
what was saved with the fork. The cause where it cannot be loaded. -/
def State.refork (s : State) (r : RingId) (t : Task) (f : Fork) (old : Engines) : State × Option (Cause × Word) :=
  match s.op? r f.op with
  | none => (s, none)
  | some o =>
    let stripped := s.modEng r fun e => e.dropFork f.op
    match (loadFork r t.ctx f.op t.span (s.ring r).seqr.poolPart (s.ring r).stripes.toNat f.image).go stripped with
    | (.error e, s1) => (s1, some e)
    | (.ok (im, init), s1) =>
      let w := f.waved.getD 0
      let s2 := s1.startFork r t o f.h f.image { im with starts := [] } init
      let mine (e : Engines) : Engines :=
        { e with inWalkers := e.inWalkers.map fun x => if x.2.op = f.op then (x.1, x.2.resume (old.inWalkers.look x.1)) else x
                 outWalkers := e.outWalkers.map fun x => if x.2.op = f.op then (x.1, x.2.resume (old.outWalkers.look x.1)) else x
                 inPorts := e.inPorts.map fun x => if x.2.op = f.op then (x.1, x.2.resume (old.inPorts.look x.1)) else x
                 outPorts := e.outPorts.map fun x => if x.2.op = f.op then (x.1, x.2.resume (old.outPorts.look x.1)) else x
                 forks := e.forks.map fun k => if k.op = f.op then { k with start := f.start, starts := f.starts, waiting := f.waiting, waves := f.waves } else k }
      let s3 := s2.modEng r mine
      let s5 :=
        if f.fabric then
          (s3.modFabric r fun g => { g with waveDone := w, waveAt := match old.fabric with | some k => k.waveAt | none => [] }).restartAt r w true
        else s3.modEng r fun e => e.rewind f.op w 0 true
      let e := (s5.ring r).eng
      let s6 := (e.inPorts.filter fun x => x.2.op == f.op && x.2.shuttle).foldl (fun s x => s.refillBuffer r x.2.first x.2.cap x.2.count x.2.fifo) s5
      ((e.outPorts.filter fun x => x.2.op == f.op && x.2.shuttle).foldl (fun s x => s.refillBuffer r x.2.first x.2.cap x.2.count x.2.fifo) s6, none)

/-- Every fork that stood at a wave is re-forked; the first cause, with the image it concerns, ends that. -/
def State.reforkAll (s : State) (r : RingId) (t : Task) (old : Engines) : List Fork → State × Option (Word × Cause × Word)
  | [] => (s, none)
  | f :: l =>
    match s.refork r t f old with
    | (s1, none) => State.reforkAll s1 r t old l
    | (s1, some e) => (s1, some (f.image, e))

/-- RESTORE (R151): the record of a saved task is checked, everything is written back, and its forks go on. Where a fork's image cannot be read the
task stays saved, with the dies that the reads touched, and the restore is tried again when its context resumes (R118); one whose reads a stack
holds back waits (R416). -/
def execRestore (r : RingId) (c : CtxId) (s : State) : Out :=
  match (s.ring r).staged with
  | none => .next s
  | some g =>
    match (s.ring r).saved.find? fun v => v.task == g.task with
    | none => .next s
    | some v =>
      let free := g.task.rings.all fun k =>
        let x := s.ring k
        x.cur.isNone && x.saving.isNone && (k == r || x.staged.isNone) && s.mayRun k && (s.die (ringDie k)).rst == .idle && x.clearable c
      if g.task.ctx != c || !g.resumes || !s.dispatches c || !free then .next s
      else
        let s1 := (g.task.rings.foldl (fun s k => s.clearRing k c) s).modSeqr r fun q => { q with priv := v.priv }
        match (readRecord r v).go s1 with
        | (.error (e, va), s2) => .next (if e = heldRead then s else s2.raise c r .sequencer e v.buffer va)
        | (.ok (h, p), s2) =>
          let s3 := (s2.placeTask r v h p).startSlice r v.task
          let old := v.engines.get {} r.val
          match s3.reforkAll r v.task old (old.forks.filter (·.waved.isSome)) with
          | (s4, none) => .next s4
          | (s4, some (image, e, va)) =>
            .next (if e = heldRead then s else (s2.modCtx c fun x => { x with touched := (s4.ctx c).touched }).raise c r .fabric e image va)

end Sys2Proof.Machine
end

