-- ==== Sys2Proof/Machine/Recovery.lean ====
section
/-!
DEFINITION. Faults that come from outside an instruction, and what follows a halt: lost dies (R32, R109, R130, R162), resets (R33 to
R35), machine checks, gang halts (R160), contained recovery (R161), resumption (R118) and the scrubber (R37).
-/

namespace Sys2Proof.Machine

/-! ## Lost dies (R109, R130, R162) -/

/-- Whether the SVN of a die's firmware image is not below the fuses (R69). -/
def State.svnOk (s : State) (d : Nat) : Bool := s.dev.svnFuse.toNat ≤ (Config.imageSvn d).toNat

/-- Contexts whose TOUCHED_DIES names a die. -/
def State.touchers (s : State) (d : DieId) : List CtxId := (List.finRange 64).filter fun c => (s.ctx c).touched.getLsbD d.val

/-- Operations leave a ring without performing, and with them every operation that waits for one of them (R157, R254). -/
def Seqr.drop (q : Seqr) (gone : Op → Bool) : Seqr :=
  let ids := q.ops.foldl (fun (l : List Nat) o => if gone o || o.snap.any l.contains then l ++ [o.id] else l) []
  { q with ops := q.ops.filter fun o => !ids.contains o.id }

/-- An operation bound for a die. -/
def Op.boundFor (o : Op) (d : DieId) : Bool := match o.work.acc? with | some a => a.home == .die d | none => false

/-- Indices of a lost die's shares wait for a new split (R130). -/
def PendRec.reissue (p : PendRec) (idx : List Nat) : PendRec :=
  { p with unsplit := p.unsplit ++ idx, started := p.started.filter (!idx.contains ·)
           reissues := idx.foldl (fun t n => t.put n (t.get 0 n + 1)) p.reissues }

/-- A record as it loses a die: the indices of the die's share, and those staged on its rings. -/
def PendRec.loseShare (p : PendRec) (d : DieId) (staged : List Nat) : PendRec :=
  { p with shares := p.shares.del d.val }.reissue (p.shares.get [] d.val ++ staged)

/-- Indices of a record that are staged, and have not started, on a die's rings. -/
def State.stagedOn (s : State) (c : CtxId) (d : DieId) (rec : Nat) : List Nat :=
  (dieRings d.val).filterMap fun r => (s.ring r).staged.bind fun g =>
    if g.task.ctx == c && g.task.record == rec && !g.resumes then some g.task.tile.toNat else none

/-- Whether a message writes memory. -/
def Msg.toMemory : Msg → Bool
  | .write _ | .spoil _ | .atomic .. | .reduce .. => true
  | _ => false

/-- What a lost die takes of a pipe: all that it has sent, and what is bound for its memory. What its eyelets are asked is answered as by a die
that is not live (R230). -/
def Pipe.goneWith (x : Pipe) (d : DieId) (w : PipeWrite) : Bool := x.path.src == .die d || (x.path.dst == .die d && w.msg.toMemory)

/-- Requests of this device to a ring of a die. -/
def Msg.asks (m : Msg) (d : DieId) : Bool := match m with | .request dst q => q.chip == ownChip && ringDie dst == d.val | _ => false

/-- A reservation that a ring of this device has asked a lost die for ends without a grant (R229, R230). -/
def State.failResv (s : State) (d : DieId) : State :=
  let s1 := s.modDev fun v =>
    { v with arrived := v.arrived.filter (!·.asks d), pipes := v.pipes.map fun x => { x with writes := x.writes.filter (!·.msg.asks d) } }
  let s2 := (dieRings d.val).foldl (fun s r => s.modRing r fun x => { x with retries := x.retries.filter (!·.asks d) }) s1
  (List.finRange 32).foldl (fun s (r : RingId) =>
    (s.ring r).seqr.ops.foldl (fun s o =>
      match o.work, o.stage with
      | .resv target _, .sent =>
        if resvChip target == ownChip && ringDie (resvRing target) == d.val && !(s.dev.answers.any fun a => a.1 == r && a.2.1 == o.id) then
          s.resvResult r o resvError
        else s
      | _, _ => s) s) s2

/-- A die is lost: its LIVE bit clears, a replay diverges (R86), what it takes with it is discarded, and every context that has touched it takes
DIE_LOST. The master is the lowest live die from now on (R127). -/
def State.loseDie (s : State) (d : DieId) : State :=
  if !s.dev.live.getLsbD d.val then s
  else
    let s0 := (s.dev.pipes.flatMap fun x => x.writes.filter (x.goneWith d)).foldl State.loseMsg s
    let s1 := s0.modDev fun v =>
      let v := if v.repActive then v.diverged else v
      { v with live := v.live &&& ~~~(1#8 <<< d.val)
               pipes := v.pipes.map fun x => { x with writes := x.writes.filter (!x.goneWith d ·), lost := x.lost || x.path.src == .die d } }
    let s2 := (List.range 32).foldl (fun s r => s.modSeqr r fun q =>
      { q with ops := q.ops.map fun o => if o.boundFor d then { o with stage := .failed } else o }) s1
    let s3 := (List.finRange 64).foldl (fun t c => t.modCtx c.val fun x => { x with table := x.table.map fun p => p.loseShare d (s.stagedOn c d p.key) }) s2
    let s4 := (dieRings d.val).foldl (fun s r => s.modRing r fun x => { x with staged := x.staged.filter (·.resumes) }) s3
    ((s.touchers d).foldl (fun s c => s.raise c (4 * d.val) .dispatcher 0x32 0 0) s4).failResv d

/-- HEARTBEAT_TIMEOUT (R162). -/
def execHeartbeatTimeout (d : DieId) (s : State) : Out := .next (s.loseDie d)

/-- An engine of a ring records MACHINE_CHECK with the address that its record gives. -/
def State.engineCheck (s : State) (r : Nat) (e : Engine) : State :=
  match (s.ring r).engines.find? fun p => p.1 == e with
  | some (_, a) => if (s.running r).isSome then s.trapOn r e 0x3F a 0 else s
  | none => s

/-- MACHINE_CHECK (R155, R162): in an engine of a task it traps; in an uncore the die is lost. -/
def execMachineCheck (site : CheckSite) (s : State) : Out :=
  match site with
  | .uncore d => .next (s.loseDie d)
  | .sequencer r => .next (s.engineCheck r .sequencer)
  | .fabric r => .next (s.engineCheck r .fabric)
  | .walker r dir p => .next (s.engineCheck r (.walker dir p))
  | .shuttle r ch => .next (s.engineCheck r (.shuttle ch))

/-! ## Tasks that leave their rings (R140, R157, R161) -/

/-- What goes on once its task is gone: memory operations that had issued, and records that wait for room (R157, R401). -/
def Op.outlives (o : Op) : Bool :=
  o.stage != .failed &&
    (o.old ||
      match o.work with
      | .fork .. | .ingr _ | .aperture .. => false
      | w => !w.inRing)

/-- What a ring has staged of a context, or waits to translate for it, goes. -/
def Ring.unstage (x : Ring) (c : CtxId) : Ring :=
  { x with staged := x.staged.filter (·.task.ctx != c), misses := x.misses.filter (·.ctx != c) }

/-- Locks of a ring's slices end, but those of saved tasks, whose patterns have not ended (R24, log 38). -/
def State.unlockRun (s : State) (r : Nat) : State := ((s.ring r).locks.filter (!(s.savedLocks r).contains ·)).foldl (fun s op => s.unlock r op) s

/-- A saved task is gone, and the locks of its patterns end. -/
def State.dropSaved (s : State) (r : Nat) (v : Saved) : State :=
  let s1 := s.modRing r fun x => { x with saved := x.saved.filter (· != v) }
  v.task.rings.foldl (fun s k => v.locks.foldl (fun s op => s.unlock k op) s) s1

/-- The operations of a ring's task are waited for before its record retires, as far as they still perform (R125). -/
def State.leaveOps (s : State) (r : Nat) : State :=
  let x := s.ring r
  match x.cur with
  | some t => s.modRec t.ctx t.record fun p => { p with left := p.left ++ (x.seqr.ops.filter (!·.old)).map fun o => (r, o.id) }
  | none => s

/-- A ring's task is abandoned: its engines are gone, and a lock that a pattern of it held ends (R24). -/
def State.abandonTask (s : State) (r : Nat) : State :=
  let q := (s.ring r).seqr.drop fun o => !o.outlives
  let s := s.leaveOps r
  let s1 := (s.unpause r).modRing r fun x =>
    { x with cur := none, saving := none, slice := {}, restored := none, forcedLast := false, eng := {}
             seqr := { ops := q.ops.map (fun o => { o with old := true }), nextOp := q.nextOp } }
  s1.unlockRun r

/-- What a ring runs and has staged of a context is abandoned; a task of another context there goes on. -/
def State.abandon (s : State) (c : CtxId) (r : Nat) : State :=
  let s1 := if (s.runRings c).contains r then s.abandonTask r else s
  s1.modRing r (·.unstage c)

/-- Rings where a context has a current or staged task. -/
def State.taskRings (s : State) (c : CtxId) : List Nat := s.ctxRings c.val

/-- Tasks of a context, current and staged. -/
def State.tasksOf (s : State) (c : CtxId) : List Task :=
  (s.taskRings c).flatMap fun r => ((s.ring r).cur.toList ++ (s.ring r).staged.toList.map (·.task)).filter fun t => t.ctx == c

/-- Saved tasks of a context whose ring lies on a lost or thermally stopped die. -/
def State.savedLost (s : State) (c : CtxId) : List (Nat × Saved) :=
  (List.range 32).flatMap fun r =>
    if s.dev.live.getLsbD (ringDie r) && !(s.die (ringDie r)).tstop then [] else ((s.ring r).saved.filter fun v => v.task.ctx == c).map fun v => (r, v)

/-- Saved tasks of a context that are staged to be restored, which are abandoned with what is staged. -/
def State.stagedSaves (s : State) (c : CtxId) : List (Nat × Saved) :=
  (s.taskRings c).flatMap fun r =>
    match (s.ring r).staged with
    | some g => if g.task.ctx == c && g.resumes then ((s.ring r).saved.filter fun v => v.task == g.task).map fun v => (r, v) else []
    | none => []

/-! ## CONTAINED_RECOVERY (R161) -/

/-- The indices of abandoned tasks that have no DONE bit go back to their records. -/
def State.reissueTasks (s : State) (c : CtxId) (ts : List Task) : State :=
  s.modCtx c fun x =>
    { x with table := x.table.map fun p =>
        p.reissue (((ts.filter fun t => t.record == p.key).map fun t => t.tile.toNat).dedup.filter fun n => !p.done.contains n && !p.unsplit.contains n) }

/-- An index marked for reissue for the third time. -/
def Ctx.exhausted (x : Ctx) : Bool := x.table.any fun p => p.reissues.any fun e => 3 ≤ e.2 && !p.done.contains e.1

/-- HALTED clears. -/
def Ctx.resume (x : Ctx) : Ctx := { x with halted := false, haltClass := .none, stops := [] }

/-- CONTAINED_RECOVERY: abandon, mark, clear and resume; a third reissue makes the halt class H. -/
def execContainedRecovery (c : CtxId) (s : State) : Out :=
  let x := s.ctx c
  if !x.halted || x.haltClass != .contained || x.closing then .next s
  else
    let rings := s.taskRings c
    let lost := s.savedLost c
    let s1 := s.reissueTasks c (s.tasksOf c ++ lost.map (·.2.task))
    if (s1.ctx c).exhausted then .next (s.modCtx c fun x => { x with haltClass := .halting })
    else
      let s2 := rings.foldl (fun s r => s.abandon c r) s1
      let gone := lost ++ s.stagedSaves c
      let s3 := gone.foldl (fun s e => s.dropSaved e.1 e.2) s2
      let s4 := (rings.filter fun r => (s.ring r).resident == some c).foldl (fun s r => s.wipeRing r none) s3
      .next (((s4.freeOps c).modCtx c Ctx.resume).settle c)

/-! ## RESUME_GO (R118) -/

/-- Causes with which GO resumes. -/
def resumable (e : Cause) : Bool := e == 0x00 || e == 0x09 || causeClass e == .info

/-- A transfer that a halt has stopped begins again (R200). -/
def Stripe.again (x : Stripe) (now : Nat) : Stripe :=
  { x with shadow := match x.shadow with | .filling a _ => .filling a now | .draining a _ w => .draining a now w | y => y
           snapping := x.snapping.map fun p => (p.1, now) }

/-- A ring goes on after a halt; the counts of one whose fork stands at a wave go on standing (R146, R244). -/
def State.goRing (s : State) (r : Nat) : State :=
  let s1 := if (s.ring r).eng.forks.any (·.waved.isSome) then s else s.unpause r
  s1.modRing r fun y =>
    { y with slice := if y.slice.req then { y.slice with remainAt := some (s.cycle r) } else y.slice
             eng := { y.eng with fabric := y.eng.fabric.map fun f => { f with stripes := f.stripes.map fun e => (e.1, e.2.again (s.cycle r)) } } }

/-- RESUME_GO: the context's engines go on from where they stopped, or REFUSED is set. -/
def execResumeGo (c : CtxId) (s : State) : Out :=
  let x := s.ctx c
  if !s.dev.ready then .next s
  else if x.halted && x.stops.all fun k => resumable k.cause then
    .next ((((s.runRings c).foldl State.goRing s).freeOps c).modCtx c Ctx.resume)
  else .next (s.modCtx c fun x => { x with refused := true })

/-! ## HALT_NOTICE (R160) -/

/-- HALT_NOTICE: each context that holds a task of the gang takes PEER_HALT, once for a halt. -/
def execHaltNotice (gang : Word) (s : State) : Out :=
  let hit := (List.range 64).filter fun c => (s.gangIds c).contains gang && !((s.ctx c).stops.any fun k => k.cause == 0x31)
  .next (hit.foldl (fun s c => s.raise c 0 .dispatcher 0x31 0 0) s)

/-! ## Resets (R33 to R35) -/

/-- Contexts with a current or staged task on a die's rings. -/
def State.onDie (s : State) (d : DieId) : List CtxId :=
  (List.finRange 64).filter fun c => (dieRings d.val).any fun r => (s.ctxRings c.val).contains r

/-- Contexts that are resident on some ring (R227). -/
def State.resides (s : State) (c : CtxId) : Bool := (List.range 32).any fun r => (s.ring r).resident == some c

/-- Contexts that are resident on a ring of a die (R227). -/
def State.heldBy (s : State) (d : DieId) : List CtxId :=
  (List.finRange 64).filter fun c => (dieRings d.val).any fun r => (s.ring r).resident == some c

/-- The state that a core reset zeroes: pools and everything of a ring but its clock, its saved tasks with the locks of their patterns (log 38),
and what the dispatcher in the uncore knows and measures, its current and staged tasks among it (R33, R35). Held writes of slices that no pattern
locks any more are applied. -/
def State.resetRing (s : State) (r : Nat) : State :=
  let s2 := ((s.leaveOps r).unlockRun r).wipeRing r none
  s2.modRing r fun x =>
    { locks := x.locks, heldSlice := x.heldSlice, wasOpen := x.wasOpen, cur := x.cur, staged := x.staged, cmd := x.cmd, eff := x.eff, busy := x.busy, nextCmd := x.nextCmd, duty := x.duty, ticks := x.ticks, tickAt := x.tickAt
      saved := x.saved, srCycles := x.srCycles, retries := x.retries
      seqr := { ops := (x.seqr.ops.filter Op.outlives).map fun o => { o with old := true }, nextOp := x.seqr.nextOp } }

/-- A core reset begins. -/
def State.coreReset (s : State) (d : DieId) (st : RstState) : State :=
  ((dieRings d.val).foldl State.resetRing s).modDie d.val fun x => { x with rst := st }

/-- DIE_CORE_RESET (R35): under a task the die is lost, and its contexts take DIE_LOST. -/
def execDieCoreReset (d : DieId) (s : State) : Out :=
  if (s.die d).rst != .idle || !s.dev.ready then .next s
  else
    match s.onDie d with
    | [] => .next (s.coreReset d .core)
    | cs =>
      let s1 := cs.foldl (fun s c => s.touch c (.die d)) s
      .next ((s1.loseDie d).coreReset d .core)

/-- What an uncore reset sets back beside the core (R7, R33): the die's translation caches, its dispatcher with the measures of its rings, and the
registers of its rings, its power and its sensors that stand in the uncore (log 30). A die that was parked has its power again, and the writes held
for its slices are applied. -/
def State.uncoreReset (s : State) (d : DieId) : State :=
  let held := (s.die d.val).heldHost
  let s1 := (dieRings d.val).foldl (fun s r => (s.rebase r).modRing r fun x =>
    { x with cmd := 0, eff := 0, busy := false, nextCmd := none, duty := 16, srCycles := [] }) (s.coreReset d .uncore)
  let s2 := s1.modDie d.val fun x =>
    { x with tcache := [], wcache := [], tstop := false, refresh2x := false, hold := false, hbmC := 0, tjC := 0, allow := [], ringTj := []
             pass := [], hadReady := [], placedAt := none
             pwr := .running, park := false, parkNext := none, parkRefused := false, heldHost := [] }
  held.foldl State.store (s2.modDev fun v => { v with parked := v.parked &&& ~~~(1#8 <<< d.val) })

/-- DIE_UNCORE_RESET (R34, R35): with a resident context that has touched the die, or a task on it, the die is lost. -/
def execDieUncoreReset (d : DieId) (s : State) : Out :=
  if (s.die d).rst != .idle || !s.dev.ready then .next s
  else
    match s.onDie d ++ (s.touchers d).filter (s.resides ·) with
    | [] => .next (s.uncoreReset d)
    | cs =>
      let s1 := cs.foldl (fun s c => s.touch c (.die d)) s
      .next ((s1.loseDie d).uncoreReset d)

/-- CORE_RESET_DONE. -/
def execCoreResetDone (d : DieId) (s : State) : Out :=
  if (s.die d).rst == .core then .next (s.modDie d.val fun x => { x with rst := .idle }) else .next s

/-- UNCORE_RESET_DONE: a die whose firmware fails its check, by its signature or by its SVN, is lost (R35, R69). -/
def execUncoreResetDone (d : DieId) (verified : Bool) (s : State) : Out :=
  if (s.die d).rst != .uncore then .next s
  else
    let ok := verified && s.svnOk d
    let s1 := s.modDie d.val fun x => { x with rst := .idle, firmwareOk := ok }
    .next (if ok then s1 else s1.loseDie d)

/-! ## SCRUB (R36, R37) -/

/-- The die that holds a sector. -/
def sectorDie (sector : Nat) : Option Nat :=
  let key := 64 * sector
  match sliceRing? key, poolRing? key with
  | some r, _ => some (ringDie r)
  | _, some r => if r < 32 then some (ringDie r) else none
  | none, none => if key < 8 * homeSize then some (key / homeSize) else none

/-- A sector that a read has found wrong is logged (R36, R37). -/
def State.logSector (s : State) (sector : Nat) (health : SectorHealth) : State :=
  s.modDev fun d => { d with eccLog := d.eccLog ++ [(sector, health)] }

/-- SCRUB: `health` is what the scrubber's read found, and `since` what has been written to the sector since. A correctable sector reads as
it did before, written back or not; an uncorrectable one is marked, unless the whole of it has been written since. Both are logged. -/
def execScrub (sector : Nat) (health : SectorHealth) (since : SinceRead) (s : State) : Out :=
  match sectorDie sector, health with
  | none, _ | _, .good => .next s
  | some d, .correctable => if s.dev.live.getLsbD d then .next (s.logSector sector .correctable) else .next s
  | some d, .uncorrectable =>
    if !s.dev.live.getLsbD d then .next s
    else
      let s1 := s.logSector sector .uncorrectable
      .next (if since = .whole then s1 else s1.mark sector)

end Sys2Proof.Machine
end

