-- ==== Sys2Proof/Machine/Contexts.lean ====
section
/-!
DEFINITION. Contexts (R105, R106, R109): their configuration, enabling and teardown (R140), and their task queues' registers (R119).
-/

namespace Sys2Proof.Machine

/-! ## Registers (R105, R106, R109) -/

/-- A write of CTX_CFG as far as its plain fields go: a STRIPES outside 2 to 16 leaves STRIPES as it was. -/
def Ctx.config (x : Ctx) (v : Word) : Ctx :=
  let p := v.extractLsb' 16 5
  { x with weight := v.extractLsb' 32 8, stripes := if 2 ≤ p.toNat ∧ p.toNat ≤ 16 then p else x.stripes,
           unsignedOk := v.getLsbD 9, priv := v.getLsbD 8 }

/-- CTX_CONFIG_WRITE (R106): the fields that take effect at the next task start. -/
def execCtxConfigWrite (c : CtxId) (f : CtxField) (v : Word) (s : State) : Out :=
  match f with
  | .cfg => s.atReady (·.modCtx c.val fun x => x.config v)
  | .rings => s.atReady (·.modCtx c.val fun x => { x with rings := v.setWidth 32 })

/-- Whether a task of a context is running or saved (R109). -/
def State.hasTask (s : State) (c : CtxId) : Bool :=
  (List.range 32).any fun r => (match (s.ring r).cur with | some t => t.ctx == c | none => false) || (s.ring r).holds c

/-- CTX_TOUCHED_WRITE (R109). -/
def execCtxTouchedWrite (c : CtxId) (v : Word) (s : State) : Out :=
  if s.hasTask c then .next s else s.atReady (·.modCtx c.val fun x => { x with touched := x.touched &&& ~~~(v.setWidth 8) })

/-! ## Task queues (R119) -/

/-- Whether PROD = CONS and no record of the queue is pending. -/
def State.queueIdle (s : State) (c : CtxId) (q : Fin 4) : Bool :=
  let k := s.queue c q.val
  k.prod == k.cons && (s.ctx c).table.all fun p => p.queue != q

/-- TASK_QUEUE_CONFIG: a write to TQ_BASE or TQ_CTL. -/
def execTaskQueueConfig (c : CtxId) (q : Fin 4) (reg : TqReg) (v : Word) (s : State) : Out :=
  if !s.dev.ready || !s.queueIdle c q then .next s
  else
    match reg with
    | .base => .next (s.modQueue c q.val fun k => { k with base := (v.extractLsb' 7 45).setWidth 64 <<< 7, prod := 0, cons := 0 })
    | .ctl => .next (s.modQueue c q.val fun k => { k with owner := v.getLsbD 8, log2n := v.setWidth 5, prod := 0, cons := 0 })

/-! ## Enabling and teardown (R106, R140) -/

/-- CONTEXT_ENABLE: ignored while CLOSING reads 1. -/
def execContextEnable (c : CtxId) (s : State) : Out :=
  if (s.ctx c).closing || (s.ctx c).tearing then .next s else s.atReady (·.modCtx c.val fun x => { x with enable := true })

/-- CONTEXT_TEARDOWN: the teardown begins. In a cycle in which a task of the context has been placed or started already, its clearing of ENABLE
falls in the next one (R140, log 102). -/
def execContextTeardown (c : CtxId) (s : State) : Out :=
  if !s.dev.ready || !(s.ctx c).enable then .next s
  else if (s.ctx c).actedAt = some (p0Cycles s.gt.toNat) then .next (s.modCtx c.val fun x => { x with tearing := true })
  else .next (s.tearDown c)

/-- An INGR of a context, which its teardown cancels (R401). -/
def Op.ingrOf (o : Op) (c : CtxId) : Bool := o.ctx == c && match o.work with | .ingr _ => true | _ => false

/-- What a ring holds of a context goes: copies of tasks that have ended (R125), its saved tasks, its zones (R227), its queued misses and
its INGRs. -/
def State.forgetOn (s : State) (c : CtxId) (r : Nat) : State :=
  let s1 := if (s.ring r).cur.isNone && (s.ring r).resident == some c then s.abandonTask r else s
  let s2 := ((s1.ring r).saved.filter (·.task.ctx == c)).foldl (fun s v => s.dropSaved r v) s1
  s2.modRing r fun x =>
    { x with zones := x.zones.filter (·.2.owner != some c), misses := x.misses.filter (·.ctx != c)
             seqr := x.seqr.drop (·.ingrOf c) }

/-- A context as teardown leaves it. -/
def Ctx.closed (x : Ctx) : Ctx :=
  { x with closing := false, halted := false, haltClass := .none, stops := [], table := [], launches := [], unread := [], actedAt := none
           tq := x.tq.map fun e => (e.1, { e.2 with prod := 0, cons := 0 }) }

/-- An ENQ of a context that has issued and not performed: it still returns CLOSING (R140). -/
def State.enqOut (s : State) (c : CtxId) : Bool :=
  (List.range 32).any fun r => (s.ring r).seqr.ops.any fun o => o.ctx == c && o.stage != .failed && match o.work with | .enq .. => true | _ => false

/-- TEARDOWN_COMPLETE: every engine of the context has stopped; its tasks, zones, dispatch table and pass value go, and once no ENQ of it is
outstanding CLOSING reads 0. -/
def execTeardownComplete (c : CtxId) (s : State) : Out :=
  if !(s.ctx c).closing then .next s
  else
    let s1 := (s.taskRings c).foldl (fun s r => s.abandon c r) s
    let s2 := (List.range 32).foldl (fun s r => s.forgetOn c r) s1
    let s3 := (List.range 8).foldl (fun s d => s.modDie d fun x =>
      { x with pass := x.pass.del c.val, hadReady := x.hadReady.filter (· != c.val) }) s2
    .next (if s3.enqOut c then s3 else (s3.freeOps c).modCtx c.val Ctx.closed)

end Sys2Proof.Machine
end

