-- ==== Sys2Proof/Machine/Power.lean ====
section
/-!
DEFINITION. Power and heat: P-states (R53 to R56), the package ceiling (R57 to R59), parking (R60 to R62), THERM_ALLOW (R65), refresh
(R64, R416) and thermal stops (R66).
-/

namespace Sys2Proof.Machine

/-! ## P-states (R54, R56) -/

/-- A command to a ring (R56): recorded while its die is parked or unparks, and during a transition, where the value that EFF holds is
recorded as any other (log 73); else a transition begins, unless the ring runs in that state already. -/
def State.command (s : State) (r : RingId) (v : Word) : State :=
  let c := v.setWidth 3
  s.modRing r.val fun x =>
    if !s.clocked r.val then { x with cmd := c, nextCmd := none, busy := false }
    else if x.busy then { x with nextCmd := some c }
    else { x with cmd := c, busy := c != x.eff }

/-- PSTATE_COMMAND: a write to RING_PSTATE.CMD. -/
def execPstateCommand (r : RingId) (v : Word) (s : State) : Out := s.atReady (·.command r v)

/-- PSTATE_TRANSITION_DONE: the new clock is locked; a later command starts the next transition. -/
def execPstateTransitionDone (r : RingId) (s : State) : Out :=
  if !(s.ring r).busy || !s.clocked r.val then .next s
  else
    .next ((s.rebase r).modRing r fun x =>
      let c := x.nextCmd.getD x.cmd
      { x with eff := x.cmd, cmd := c, nextCmd := none, busy := c != x.cmd })

/-! ## The ceiling (R57 to R59) -/

/-- The form's greatest ceiling in watts (R57). -/
def formWatts : Nat := if Config.formA then 1150 else 1600

/-- CEIL_W as it reads (R57). -/
def Dev.ceil (d : Dev) : Nat := match d.ceilW with | some w => w.toNat | none => formWatts

/-- EFF_W (R57). -/
def Dev.effW (d : Dev) : Nat := max 400 (min d.ceil formWatts)

/-- CEIL_WRITE (R57). -/
def execCeilWrite (v : Word) (s : State) : Out := s.atReady fun s => s.modDev fun d => { d with ceilW := some (v.setWidth 11) }

/-- Rings of dies that are not parked. -/
def State.unparked (s : State) : List Nat := (List.range 32).filter fun r => (s.die (ringDie r)).pwr != .parked

/-- DUTY of every unparked ring changes; a parked die's rings keep theirs, in relief too, so that THROTTLE may stay set (log 103). -/
def State.setDuties (s : State) (f : Nat → Nat) : State :=
  s.unparked.foldl (fun s r => (s.rebase r).modRing r fun x => { x with duty := f x.duty }) s

/-- THROTTLE (R58, R59): some DUTY is below 16. -/
def State.throttle (s : State) : Bool := (List.range 32).any fun r => (s.ring r).duty < 16

/-- POWER_MEASURE (R58, R59): the throttle, CEIL_MISS at the floor, and the time since which power has been low. An excess is a first one
where the measurement before it was at or below EFF_W, whatever DUTY is (log 73). -/
def execPowerMeasure (watts : BitVec 16) (s : State) : Out :=
  let w := watts.toNat
  let e := s.dev.effW
  let low := if 100 * w ≤ 97 * e then some (s.dev.lowSince.getD s.gt.toNat) else none
  let s1 := s.modDev fun d => { d with powerW := watts, lowSince := low, throttling := e < w }
  if w ≤ e then .next s1
  else if s.unparked.all fun r => (s.ring r).duty == 2 then .next (s1.modDev fun d => { d with ceilMiss := true })
  else if s.dev.throttling then .next (s1.setDuties fun n => max 2 (n - 2))
  else .next (s1.setDuties fun n => max 2 (n * e / w))

/-- DUTY_RELIEF (R59): after 20 microseconds of low power, one sixteenth each 2 microseconds. -/
def execDutyRelief (s : State) : Out :=
  match s.dev.lowSince with
  | some t =>
    if s.gt.toNat < t + 20000 then .next s
    else .next ((s.setDuties fun n => min 16 (n + 1)).modDev fun d => { d with lowSince := some (t + 2000) })
  | none => .next s

/-! ## Parking (R60 to R62) -/

/-- A park request (R61): refused while a context is resident on a ring of the die, or has a task there (R227, log 31). -/
def State.park (s : State) (d : DieId) : State :=
  let x := s.die d.val
  match x.pwr with
  | .running => if (s.onDie d).isEmpty && (s.heldBy d).isEmpty then s.setDie d.val { x with pwr := .parking, park := true } else s.setDie d.val { x with parkRefused := true, park := false }
  | .parked => s
  | _ => s.setDie d.val { x with parkNext := some true }

/-- An unpark request. -/
def State.unpark (s : State) (d : DieId) : State :=
  let x := s.die d.val
  match x.pwr with
  | .running => s
  | .parked => s.setDie d.val { x with pwr := .unparking, park := false }
  | _ => s.setDie d.val { x with parkNext := some false }

/-- DIE_PARK: a write of PARK = 1. -/
def execDiePark (d : DieId) (s : State) : Out := s.atReady (·.park d)

/-- DIE_UNPARK: a write of PARK = 0. -/
def execDieUnpark (d : DieId) (s : State) : Out := s.atReady (·.unpark d)

/-- PARK_DONE: ring arrays are off, and a request recorded meanwhile is acted on. -/
def execParkDone (d : DieId) (s : State) : Out :=
  let x := s.die d.val
  if x.pwr != .parking then .next s
  else
    let s1 := (dieRings d.val).foldl (fun s r => (s.rebase r).modRing r fun y =>
      { y with cmd := y.nextCmd.getD y.cmd, nextCmd := none, busy := false }) s
    let s2 := (s1.setDie d.val { x with pwr := .parked, parkNext := none }).modDev fun v => { v with parked := v.parked ||| (1#8 <<< d.val) }
    .next (if x.parkNext = some false then s2.unpark d else s2)

/-- UNPARK_DONE: rings run in their commanded states, and writes held for the weight layer are applied in order. -/
def execUnparkDone (d : DieId) (s : State) : Out :=
  let x := s.die d.val
  if x.pwr != .unparking then .next s
  else
    let s1 := (dieRings d.val).foldl (fun s r => (s.rebase r).modRing r fun y => { y with eff := y.cmd }) s
    let s2 := (s1.setDie d.val { x with pwr := .running, parkNext := none, heldHost := [] }).modDev fun v =>
      { v with parked := v.parked &&& ~~~(1#8 <<< d.val) }
    let s3 := x.heldHost.foldl State.store s2
    .next (if x.parkNext = some true then s3.park d else s3)

/-! ## Heat (R63 to R66, R416) -/

/-- floor((top - t) × 255 / span), kept within 0 and 255. -/
def thermTerm (top t span : Nat) : Nat := min 255 ((top - t) * 255 / span)

/-- THERM_ALLOW_UPDATE (R65): from the hottest sensor of each ring and of the stack. -/
def execThermAllowUpdate (d : DieId) (ringTj : List Nat) (tj hbm : BitVec 8) (s : State) : Out :=
  let ah := thermTerm 95 hbm.toNat 30
  let allow (j : Nat) : BitVec 8 :=
    let aj := thermTerm 105 (ringTj.getD j 0) 60
    BitVec.ofNat 8 (if j = 0 then min aj ah else aj)
  .next (s.modDie d.val fun x =>
    { x with tjC := tj, hbmC := hbm, ringTj := (List.range 4).map fun j => (j, ringTj.getD j 0), allow := (List.range 4).map fun j => (j, allow j) })

/-- HBM_REFRESH_DOUBLE (R64, R416): above 85 degrees, with the hold on reads. -/
def execHbmRefreshDouble (d : DieId) (hbm : BitVec 8) (s : State) : Out :=
  if 85 < hbm.toNat && !(s.die d.val).refresh2x then .next (s.modDie d.val fun x => { x with hbmC := hbm, refresh2x := true, hold := true, holdFrom := s.gt.toNat })
  else .next s

/-- HBM_REFRESH_NORMAL (R64, R416): below 82 degrees. -/
def execHbmRefreshNormal (d : DieId) (hbm : BitVec 8) (s : State) : Out :=
  if hbm.toNat < 82 && (s.die d.val).refresh2x then .next (s.modDie d.val fun x => { x with hbmC := hbm, refresh2x := false, hold := true, holdFrom := s.gt.toNat })
  else .next s

/-- REFRESH_HOLD_END: 3 microseconds after it began (R416). -/
def execRefreshHoldEnd (d : DieId) (s : State) : Out :=
  let x := s.die d.val
  if !x.hold || s.gt.toNat < x.holdFrom + 3000 then .next s else .next (s.setDie d.val { x with hold := false })

/-- THERMAL_STOP (R66), of a die that is live (log 103): at 115 degrees of the junction or 100 of the stack the die's rings stop, every context that has touched it
takes the cause, and the device event queue takes the record. -/
def execThermalStop (d : DieId) (tj hbm : BitVec 8) (s : State) : Out :=
  if (s.die d.val).tstop || (tj.toNat < 115 && hbm.toNat < 100) || !s.dev.live.getLsbD d.val then .next s
  else
    let s1 := (s.modDie d.val fun x => { x with tstop := true, tjC := tj, hbmC := hbm }).postDev 0x06 (BitVec.ofNat 32 d.val) []
    .next ((s.touchers d).foldl (fun s c => s.raise c (4 * d.val) .dispatcher 0x3E 0 0) s1)

/-- A write of 1 to TSTOP. -/
def State.clearStop (s : State) (d : DieId) : State :=
  s.modDie d.val fun x => if x.tjC.toNat < 95 ∧ x.hbmC.toNat < 85 then { x with tstop := false } else x

/-- TSTOP_CLEAR (R66). -/
def execTstopClear (d : DieId) (s : State) : Out := s.atReady (·.clearStop d)

end Sys2Proof.Machine
end

