-- ==== Sys2Proof/Machine/Galsin.lean ====
section
/-!
DEFINITION. Circuits of the ground die (R25 to R29), Galsin ports (R38 to R44), lost ports (R163, R235), ground time (R45, R47) and the
switch of ORDER_MODE (R51).
-/

namespace Sys2Proof.Machine

/-! ## Wavelength circuits (R26 to R29) -/

def State.conn (s : State) (n : Nat) : Conn := s.dev.conns.get {} n

def State.setConn (s : State) (n : Nat) (x : Conn) : State := s.modDev fun d => { d with conns := d.conns.put n x }

/-- Endpoint codes (R26). -/
def endpointOk (e : BitVec 8) : Bool := e.toNat < 8 || (0x10 ≤ e.toNat && e.toNat < 0x20)

/-- Whether an entry claims its wavelengths. -/
def Conn.claims (x : Conn) : Bool := x.state == .tuning || x.state == .up || x.state == .draining

/-- Whether an entry is at rest: idle, rejected or fault. -/
def Conn.rests (x : Conn) : Bool := x.state == .idle || x.state == .rejected || x.state == .fault

/-- Why a request is rejected (R27). -/
def State.connBad (s : State) (n : Nat) (v : Word) : Bool :=
  let src := v.extractLsb' 16 8
  let dst := v.extractLsb' 8 8
  let lam := v.extractLsb' 32 16
  !endpointOk src || !endpointOk dst || src == dst || lam == 0 || v.extractLsb' 48 12 != 0 || v.extractLsb' 24 8 != 0 || v.extractLsb' 0 8 != 0 ||
    s.dev.conns.any fun e => e.1 != n && e.2.claims && e.2.lambda &&& lam != 0 && (e.2.src == src || e.2.dst == dst)

/-- A write of an entry with VALID = 1. -/
def State.requestConn (s : State) (n : Nat) (v : Word) : State :=
  if (s.conn n).rests then
    s.setConn n { valid := true, state := if s.connBad n v then .rejected else .tuning, lambda := v.extractLsb' 32 16,
                  src := v.extractLsb' 16 8, dst := v.extractLsb' 8 8 }
  else s

/-- A write of an entry with VALID = 0: at rest it writes the other fields too; a circuit that is up keeps them while it drains (log 74). -/
def State.releaseConn (s : State) (n : Nat) (v : Word) : State :=
  let x := s.conn n
  if x.rests then
    s.setConn n { valid := false, state := .idle, lambda := v.extractLsb' 32 16, src := v.extractLsb' 16 8, dst := v.extractLsb' 8 8 }
  else if x.state = .up then s.setConn n { x with valid := false, state := .draining }
  else s

/-- CIRCUIT_REQUEST. -/
def execCircuitRequest (n : Fin 64) (v : Word) (s : State) : Out := s.atReady (·.requestConn n.val v)

/-- CIRCUIT_TEARDOWN. -/
def execCircuitTeardown (w : ConnWrite) (s : State) : Out := s.atReady (·.releaseConn w.entry.val w.value)

/-- An entry in one of some states goes to another. -/
def State.moveConn (s : State) (n : Nat) (froms : List ConnState) (to' : ConnState) : State :=
  let x := s.conn n
  if froms.contains x.state then s.setConn n { x with state := to' } else s

/-- Whether an endpoint is a fenced die, whose ground-die ports are disabled (R70). -/
def State.endFenced (s : State) (e : BitVec 8) : Bool := e.toNat < 8 && s.dev.fenced.getLsbD e.toNat

/-- TUNING_COMPLETE; a circuit with a disabled port cannot come up (R70). -/
def execTuningComplete (n : Fin 64) (s : State) : Out :=
  let x := s.conn n.val
  if s.endFenced x.src || s.endFenced x.dst then .next s else .next (s.moveConn n.val [.tuning] .up)

/-- TUNING_FAIL: the entry claims nothing any more. -/
def execTuningFail (n : Fin 64) (s : State) : Out := .next (s.moveConn n.val [.tuning] .fault)

/-- Whether a circuit carries something that has not been delivered. -/
def State.carries (s : State) (n : Fin 64) : Bool := s.dev.pipes.any fun x => x.writes.any fun w => w.via == some n

/-- CIRCUIT_DRAINED: what the circuit had accepted has been delivered. -/
def execCircuitDrained (n : Fin 64) (s : State) : Out := if s.carries n then .next s else .next (s.moveConn n.val [.draining] .idle)

/-- CIRCUIT_FAULT (R29): what the circuit carries goes on over the ground mesh. A pipe holds a message from the time it leaves its die until it is
delivered, in its order, so the flits that the sender has kept are sent again in order; one that has been delivered is in no pipe,
so that a second copy of it has no effect. -/
def execCircuitFault (n : Fin 64) (s : State) : Out :=
  let x := s.conn n.val
  if x.state = .up ∨ x.state = .draining then
    .next ((s.setConn n.val { x with state := .fault }).modDev fun d =>
      { d with pipes := d.pipes.map fun y => { y with writes := y.writes.map fun w => if w.via == some n then { w with via := none } else w } })
  else .next s

/-! ## Lost ports (R42, R163, R235) -/

/-- Whether traffic to a chip goes over a port. -/
def State.uses (s : State) (port : BitVec 16 × LinkId) (chip : BitVec 16) : Bool :=
  chip != ownChip && match s.routeOf chip with | some l => l.contains port | none => false

/-- What a loss takes, as each ring of this device sees it: reservations of a chip's, and traffic to an end of a path with its answers. -/
structure Loss where
  holder : Nat → BitVec 16 → Bool
  route : Nat → PathEnd → Bool

/-- A lost port takes what its routes carry (R235). -/
def State.portLoss (s : State) (port : BitVec 16 × LinkId) : Loss :=
  { holder := fun _ c => s.uses port c
    route := fun _ e => match e with | .chip c => s.uses port c | .die _ => false }

/-- A lost path takes what its two ends send each other (R42, R49); a reservation of this chip names no die, and stays (log 99). -/
def pathLoss (p : Path) : Loss :=
  { holder := fun r c => (p.src == .chip c && p.dst == .die (Fin.ofNat 8 (ringDie r))) || (p.dst == .chip c && p.src == .die (Fin.ofNat 8 (ringDie r)))
    route := fun r e => (p.src == .die (Fin.ofNat 8 (ringDie r)) && p.dst == e) || (p.dst == .die (Fin.ofNat 8 (ringDie r)) && p.src == e) }

/-- Step 1: a zone's reservations whose holder's route is lost are revoked; the knot of a zone that is live takes ERROR. A saved zone's state is its
task's. -/
def State.revoke (s : State) (lost : BitVec 16 → Bool) (r n : Nat) : State :=
  let z := (s.ring r).zone n
  let hit := (List.range z.count).filter fun k => (z.slot k).state == .reserved && lost (z.slot k).holder
  let st := (s.ring r).standing n
  if hit.isEmpty || st == .saved || st == .none then s
  else
    let s1 := hit.foldl (fun s k => s.modZone r n fun z =>
      let e := z.slot k
      z.setSlot k (if e.arrived = 0 then e.freed else e.tear)) s
    if st == .live then s1.zoneError r n else s1

/-- A saved task's slots are revoked in its record too. -/
def Zone.revoke (z : Zone) (lost : BitVec 16 → Bool) : Zone :=
  { z with slots := z.slots.map fun e =>
      if e.2.state == .reserved && lost e.2.holder then (e.1, if e.2.arrived = 0 then e.2.freed else e.2.tear) else e }

/-- Its zone knots take ERROR with the task's restore. -/
def Saved.revoke (v : Saved) (lost : BitVec 16 → Bool) : Saved :=
  { v with zones := v.zones.map fun e => (e.1, e.2.revoke lost)
           errors := v.errors ++ (v.zones.filter fun e => e.2.revoke lost != e.2).map fun e => e.2.knot.toNat }

/-- Step 1 on a ring: its zones, and those of the tasks saved there. -/
def State.revokeRing (s : State) (l : Loss) (r : Nat) : State :=
  ((List.range 16).foldl (fun s n => s.revoke (l.holder r) r n) s).modRing r fun x => { x with saved := x.saved.map (·.revoke (l.holder r)) }

/-- Step 2: a copy to an eyelet over what is lost stops. -/
def State.stopCopy (s : State) (l : Loss) (r : RingId) (ch : ChanId) : State :=
  match (s.ring r).eng.chans.look ch.val with
  | some { run := some run, .. } =>
    match run.cmd with
    | some t => if t.dst.type == 4 && l.route r (pathTo t.dst.chip t.dst.ring) then s.stopLost r ch t else s
    | none => s
  | _ => s

/-- Steps 2 and 3: an LZRESV whose request or answer goes over what is lost has its result, and its context takes LINK_LOST. -/
def State.stopResv (s : State) (l : Loss) (r : RingId) : State :=
  (s.ring r.val).seqr.ops.foldl (fun s o =>
    match o.work, o.stage with
    | .resv target _, .sent =>
      if l.route r (pathTo (resvChip target) (resvRing target)) then
        ((s.unsend r o.id).finishOp r o.id (some resvError)).lostOnce o.ctx r .sequencer 0
      else s
    | _, _ => s) s

/-- What is due on every path becomes visible, and beats and verdicts of a lost holder that are visible are acted on in their order, before the
revocation (R237, R412). -/
def State.serveArrived (s : State) (l : Loss) : State :=
  let s1 := s.dev.pipes.foldl (fun s x => s.show x.path) s
  s1.dev.arrived.foldl (fun s m =>
    match m with
    | .beat r b => if l.holder r b.chip then (s.modDev fun d => { d with arrived := d.arrived.erase m }).beat r b else s
    | .verdict r v => if l.holder r v.chip then (s.modDev fun d => { d with arrived := d.arrived.erase m }).verdict r v else s
    | _ => s) s1

/-- Steps 1 to 3 of R235 for a loss, with what `drop` does to the pipes in between (R163). -/
def State.cleanUp (s : State) (l : Loss) (drop : State → State) : State :=
  let s1 := (List.range 32).foldl (fun s r => s.revokeRing l r) (s.serveArrived l)
  let s2 := (List.finRange 32).foldl (fun s r => (List.finRange 16).foldl (fun s ch => s.stopCopy l r ch) s) (drop s1)
  (List.finRange 32).foldl (fun s r => s.stopResv l r) s2

/-- What is on the way over a port is lost, and what came over it under windows that have not been sealed (R49, R163). -/
def State.losePortPaths (s : State) (port : BitVec 16 × LinkId) (lost : BitVec 16 → Bool) : State :=
  s.dev.pipes.foldl (fun s x =>
    match x.path.src, x.path.dst with
    | _, .chip _ => s.discardOn (s.pipe x.path) fun w => w.route.contains port
    | .chip n, .die _ => if lost n then s.discardOn (s.pipe x.path) fun w => w.flush || !x.isSealed w.window else s
    | _, _ => s) s

/-- A path whose chip has no route left is lost (R42). -/
def State.closePaths (s : State) : State :=
  s.modDev fun d => { d with pipes := d.pipes.map fun x =>
    match x.path.src, x.path.dst with
    | .chip n, _ => { x with lost := x.lost || !s.routed n }
    | _, .chip n => { x with lost := x.lost || !s.routed n }
    | _, _ => x }

/-- A port of a chip is lost, as every device acts on it. -/
def State.losePort (s : State) (port : BitVec 16 × LinkId) : State :=
  if s.dev.lostPorts.contains port then s
  else
    let s1 := s.cleanUp (s.portLoss port) fun t => t.losePortPaths port (s.uses port)
    (s1.modDev fun d => { d with lostPorts := port :: d.lostPorts }).closePaths

/-- SEAL_TIMEOUT: a window still not sealed 64 windows after it was due loses the path, with the clean-up of a lost port (R42, R49); windows
that were late and not found so are found now. -/
def execSealTimeout (path : Path) (s : State) : Out :=
  let x := s.pipe path
  if x.unsealed + 66 ≤ s.curWindow ∧ !x.lost ∧ s.windows x then
    .next ((s.markAllLate path).cleanUp (pathLoss path) fun t => t.losePath path)
  else .next s

/-- A port of this device is lost: GL_STAT says so, and a notice goes to every chip. -/
def State.loseOwnPort (s : State) (p : LinkId) : State :=
  let x := s.link p.val
  if x.lost then s
  else ((s.setLink p.val { x with up := false, lost := true, narrowing := none }).losePort (ownChip, p)).notify .all (.portLost p)

/-- PORT_LOST_NOTICE (R235). -/
def execPortLostNotice (chip : BitVec 16) (p : LinkId) (s : State) : Out := .next (s.losePort (chip, p))

/-! ## Widths (R42 to R44) -/

/-- Wavelengths at a width code. -/
def widthOf (w : BitVec 2) : Nat := 16 / 2 ^ w.toNat

/-- The lowest group of the greatest smaller width within the group in use that holds no failed wavelength. -/
def Link.narrower (x : Link) : Option (BitVec 2 × Nat) :=
  ([1, 2, 3] : List (BitVec 2)).findSome? fun w =>
    if w ≤ x.width then none
    else
      ((List.range (widthOf x.width / widthOf w)).map fun k => x.group + k * widthOf w).findSome? fun g =>
        if (List.range (widthOf w)).all fun i => x.lambdaOk.getLsbD (g + i) then some (w, g) else none

/-- A wavelength of a port fails: the port begins to narrow, or is lost. -/
def State.failLambda (s : State) (p : LinkId) (w : Nat) : State :=
  let x := s.link p.val
  if !x.up then s
  else
    let y := { x with lambdaOk := x.lambdaOk &&& ~~~(1#16 <<< w) }
    if w < x.group ∨ x.group + widthOf x.width ≤ w then s.setLink p.val y
    else
      match y.narrower with
      | some g => s.setLink p.val { y with narrowing := some g }
      | none => (s.setLink p.val y).loseOwnPort p

/-- WAVELENGTH_FAIL. -/
def execWavelengthFail (p : LinkId) (w : Fin 16) (s : State) : Out := .next (s.failLambda p w.val)

/-- PORT_NARROW_DONE: the new width, with every unacknowledged flit sent again, and the event of R43 to the peer and to the host. -/
def execPortNarrowDone (p : LinkId) (s : State) : Out :=
  let x := s.link p.val
  match x.narrowing with
  | none => .next s
  | some (w, g) =>
    let a : BitVec 32 := BitVec.ofNat 32 (p.val + 16 * x.width.toNat + 64 * w.toNat)
    let y : Link := { x with width := w, group := g, narrowing := none, resend := x.kept }
    .next (((s.setLink p.val y.pump).postDev 0x05 a (bytesLE 8 s.gt.toNat)).notify (.port p) (.narrowed p x.width w s.gt))

/-! ## FLIT_RECEIVE (R39 to R42) -/

/-- Kept flits that a peer has not acknowledged: those after ACK. An ACK from before the oldest of them, as a flit that is sent again carries it,
acknowledges none. -/
def Link.after (x : Link) (ack : BitVec 12) : List Flit :=
  match x.kept with
  | [] => []
  | f :: _ => let n := (ack + 1 - f.seq).toNat; if n ≤ x.kept.length then x.kept.drop n else x.kept

/-- ACK and NAK of a flit. -/
def Link.acked (x : Link) (f : Flit) : Link :=
  let rest := x.after f.ack
  if f.nak then { x with kept := rest, resend := rest, replays := if x.replays = 0xFFF then x.replays else x.replays + 1 }
  else { x with kept := rest }

/-- A flit at a port, and whether it is accepted; `ok` says that its wavelengths' parity is good. -/
def Link.receive (x : Link) (f : Flit) (ok : Bool) : Link × Bool :=
  if !ok || crc64 (flitBytes f) != f.crc then ({ x with nakDue := true }, false)
  else if f.type != .idle && x.recvSeq - f.seq - 1 < 0x800 then ({ x with ackDue := true }, false)
  else
    let y := x.acked f
    if f.seq != x.recvSeq then ({ y with nakDue := true }, false)
    else if f.type == .idle then (y, false)
    else ({ y with recvSeq := x.recvSeq + 1, nakDue := false, ackDue := true }, true)

/-- Beats of a flit in which a wavelength's parity failed; `bad` has 16 wavelengths for each of the four beats (R39). -/
def badBeats (bad : BitVec 64) (w : Nat) : Nat := ((List.range 4).filter fun b => bad.getLsbD (16 * b + w)).length

/-- Wavelengths of a port's group whose parity failed in a beat of a flit. -/
def Link.failing (x : Link) (bad : BitVec 64) : List Nat :=
  ((List.range (widthOf x.width)).map (x.group + ·)).filter fun w => badBeats bad w != 0

/-- A flit has come, with the parity failures that it brings, one for each beat (R42). -/
def Link.count (x : Link) (bad : BitVec 64) : Link :=
  { x with seen := x.seen + 1
           parityFails := (x.failing bad).foldl (fun t w =>
             t.put w ((t.get [] w).filter (x.seen < · + 2 ^ 20) ++ List.replicate (badBeats bad w) x.seen)) x.parityFails }

/-- Wavelengths whose parity has failed 16 times within 2^20 flits. -/
def Link.worn (x : Link) : List Nat := (List.range 16).filter fun w => x.lambdaOk.getLsbD w && 16 ≤ (x.parityFails.get [] w).length

/-- A seal closes a window on a VC of a port (R48): for what this device relays, and for the paths that come over the port. -/
def State.sealAt (s : State) (p : LinkId) (vc : BitVec 2) (w : Nat) : State :=
  let x := s.link p.val
  let s1 := (s.setLink p.val { x with sealIn := x.sealIn.put vc.toNat (max (x.sealIn.get 0 vc.toNat) (w + 1)) }).sendSeals
  let came (y : Pipe) : Bool := match y.path.src with | .chip c => (s.routeOf c).bind ownPort == some p | .die _ => false
  (s1.dev.pipes.filter came).foldl (fun s y => s.takeSeal y.path vc w) s1

/-- An accepted flit goes where it is bound: on towards another chip, or into this one, where a seal acts at once. What other flits of this chip
carry comes as the moves of its kind. -/
def State.takeFlit (s : State) (p : LinkId) (f : Flit) : State :=
  if f.type = .seal then (if s.dev.flush || f.vc = 2 then s else s.sealAt p f.vc (s.fullWindow f.window))
  else if f.dest = ownChip then s.setLink p.val { s.link p.val with inbox := (s.link p.val).inbox ++ [f] }
  else s.relay p f

/-- FLIT_RECEIVE: `bad` names, for each of the four beats, the wavelengths whose parity failed. -/
def execFlitReceive (p : LinkId) (f : Flit) (bad : BitVec 64) (s : State) : Out :=
  let x := s.link p.val
  if !x.up then .next s
  else
    let (y, taken) := (x.count bad).receive f (x.failing bad).isEmpty
    let s1 := s.setLink p.val y
    let s2 := if taken then s1.takeFlit p f else s1
    let s3 := y.worn.foldl (fun s w => s.failLambda p w) s2
    .next (s3.setLink p.val ((s3.link p.val).respond s3.curWindow))

/-! ## Ground time (R45) -/

/-- Ground time moves forward at once; what rings have run so far is put down first. It never runs backwards. The dispatchers see it pass. -/
def State.setTime (s : State) (t : Word) : State :=
  if t.toNat ≤ s.gt.toNat then s
  else
    let s1 := (List.range 32).foldl (fun s r => s.rebase r) s
    State.timePassed s ((List.range 32).foldl (fun s r => s.modRing r fun x => { x with tickAt := t }) { s1 with gt := t })

/-- Ports other than one that are up: those that a transparent clock forwards to. -/
def State.otherPorts (s : State) (p : LinkId) : List LinkId := (List.finRange 16).filter fun q => q != p && (s.link q.val).up

/-- PTP_SYNC: the arrival of a two-step Sync, which goes on at once on every other port. -/
def execPtpSync (p : LinkId) (seq : BitVec 16) (arrived : Word) (s : State) : Out :=
  let s1 := s.setLink p.val { (s.link p.val) with syncSeq := seq, syncAt := arrived, syncOut := s.gt }
  .next ((s.otherPorts p).foldl (fun s q => s.notify (.port q) (.sync seq)) s1)

/-- PTP_FOLLOW_UP: the time at which the Sync left, with the correction that lies on its way, and the delay of the link. As a transparent clock
the device sends it on with the delay of the link and the time that the Sync spent here added to the correction. -/
def execPtpFollowUp (p : LinkId) (seq : BitVec 16) (origin correction : Word) (s : State) : Out :=
  let x := s.link p.val
  if x.syncSeq != seq then .next s
  else
    let onward := correction + x.linkDelay + (x.syncOut - x.syncAt)
    let s1 := (s.otherPorts p).foldl (fun s q => s.notify (.port q) (.followUp seq origin onward)) s
    .next (if Config.grandmaster then s1 else s1.setTime (origin + correction + x.linkDelay + (s.gt - x.syncAt)))

/-- PTP_PDELAY_REQ: answered with its arrival time, and in a follow-up with the time of the answer. -/
def execPtpPdelayReq (p : LinkId) (seq : BitVec 16) (arrived : Word) (s : State) : Out :=
  .next ((s.notify (.port p) (.delayResp seq arrived)).notify (.port p) (.delayFollowUp seq s.gt))

/-- PTP_PDELAY_RESP: when the peer took the request, and when its answer arrived. -/
def execPtpPdelayResp (p : LinkId) (seq : BitVec 16) (requestArrived arrived : Word) (s : State) : Out :=
  let x := s.link p.val
  if x.pdelaySeq != seq then .next s else .next (s.setLink p.val { x with pdelayReqAt := requestArrived, pdelayRespAt := arrived })

/-- A round of a port's ground-time messages leaves: a request for the delay of the link, an Announce with this device's exponent (R47), and from
the grandmaster a two-step Sync with its Follow_Up (log 76). -/
def State.askDelay (s : State) (p : LinkId) : State :=
  let x := s.link p.val
  let n := x.pdelaySeq + 1
  let s1 := ((s.setLink p.val { x with pdelaySeq := n, pdelaySent := s.gt }).notify (.port p) (.delayReq n)).notify (.port p) (.announce s.dev.window)
  if Config.grandmaster then (s1.notify (.port p) (.sync n)).notify (.port p) (.followUp n s.gt 0) else s1

/-- PTP_PDELAY_RESP_FOLLOW_UP: half of the time on the way is the link's delay, and the next round leaves. -/
def execPtpPdelayRespFollowUp (p : LinkId) (seq : BitVec 16) (responseSent : Word) (s : State) : Out :=
  let x := s.link p.val
  if x.pdelaySeq != seq then .next s
  else
    let n := ((x.pdelayRespAt - x.pdelaySent).toNat - (responseSent - x.pdelayReqAt).toNat) / 2
    .next ((s.setLink p.val { x with linkDelay := BitVec.ofNat 64 n }).askDelay p)

/-- ANNOUNCE (R47): the peer's exponent is compared; a mismatch in window mode loses the port. -/
def execAnnounce (p : LinkId) (exponent : BitVec 4) (s : State) : Out :=
  let x := { (s.link p.val) with peerExp := some exponent }.compare s.dev.window
  let s1 := s.setLink p.val x
  .next (if x.wmismatch && !s.dev.flush then s1.loseOwnPort p else s1)

/-! ## ORDER_MODE_SWITCH (R47, R51) -/

/-- Whether a path is empty behind its marker (R51, R247). -/
def Pipe.drained (x : Pipe) : Bool := x.lost || (x.writes.isEmpty && (!x.marker || x.gathered))

/-- The new mode takes effect on all paths at once: each begins anew, and windows are sealed from now on. -/
def State.switchMode (s : State) (flush : Bool) : State :=
  let n := s.curWindow
  let s1 := s.modDev fun d =>
    { d with flush := flush, modeNext := none, pipes := d.pipes.filter (·.lost), links := d.links.map fun e => (e.1, e.2.openWindows n) }
  (List.range 8).foldl (fun s d => s.modDie d fun x => { x with left := n }) s1

/-- ORDER_MODE_SWITCH: with every marker gathered and every pipe empty the mode changes; ports whose peer names another
window exponent are lost when window mode takes effect. -/
def execOrderModeSwitch (s : State) : Out :=
  match s.dev.modeNext with
  | none => .next s
  | some m =>
    if s.dev.pipes.all Pipe.drained then
      let s1 := s.switchMode m
      .next (if m then s1 else (List.finRange 16).foldl (fun s (p : LinkId) => if (s.link p.val).wmismatch then s.loseOwnPort p else s) s1)
    else .next s

end Sys2Proof.Machine
end

