-- ==== Sys2Proof/Machine/Boot.lean ====
section
/-!
DEFINITION. Bring-up (R67 to R70): power-good, the phases, and the authentication of dies.
-/

namespace Sys2Proof.Machine

/-- POWER_GOOD (R67): everything but the fuses, host memory and what the model keeps for itself is as after reset, and phase 1 begins
in flush mode. -/
def execPowerGood (s : State) : Out :=
  .next { State.reset with
    gt := s.gt, agenda := s.agenda, focus := s.focus, focusIdx := s.focusIdx, freeCtr := s.freeCtr, mem := s.mem, poison := s.poison
    dev := { phase := 1, flush := true, svnFuse := s.dev.svnFuse } }

/-- The bits of a mask of dies that hold for `f`. -/
def dieMask (f : Nat → Bool) : BitVec 8 := BitVec.ofNat 8 (((List.range 8).map fun d => if f d then 2 ^ d else 0).sum)

/-- Dies by number, as a table. -/
def State.setDies (s : State) (f : Nat → Die → Die) : State := (List.range 8).foldl (fun s d => s.modDie d (f d)) s

/-- Phase 1 ends: a boot ROM accepts an image whose signature verifies and whose SVN is not below the fuses; dies whose
firmware has not been accepted go no further (R69). -/
def State.endVerify (s : State) (signed : BitVec 8) : State :=
  let passed := dieMask fun d => signed.getLsbD d && s.svnOk d
  let s1 := s.setDies fun d x => { x with firmwareOk := passed.getLsbD d }
  if passed = 0 then s1.modDev fun v => { v with bootFail := true } else s1.modDev fun v => { v with phase := 2 }

/-- Phase 2 ends: a die that has failed a check or not answered is fenced (R70). -/
def State.endAuth (s : State) (passed : BitVec 8) : State :=
  let live := dieMask fun d => passed.getLsbD d && (s.die d).firmwareOk && !s.dev.fenced.getLsbD d
  let s1 := (s.setDies fun d x => { x with authOk := live.getLsbD d }).modDev fun v => { v with live := live, fenced := ~~~live }
  if live = 0 then s1.modDev fun v => { v with bootFail := true } else s1.modDev fun v => { v with phase := 3 }

/-- Phase 3 ends: ports that have trained are up at full width, and the route table is in place. -/
def State.endCalibration (s : State) (w : Wiring) : State :=
  let s1 := w.ports.foldl (fun s e =>
    (s.setLink e.1.val { up := true, lambdaOk := 0xFFFF, peerChip := e.2.1, peerPort := e.2.2 }).askDelay e.1) s
  s1.modDev fun v => { v with phase := 4, routes := w.routes }

/-- Phase 4 ends: HBM, pools and weight layers hold zero; host memory is none of the device's. -/
def State.endMemory (s : State) : State :=
  let host (k : Nat) : Bool := hostBase ≤ k && k < 2 ^ 52
  { s with mem := s.mem.filter fun c => host c.1, poison := s.poison.filter fun p => host (64 * p), dev := { s.dev with phase := 5 } }

/-- Phase 5 ends: the striped region lies over the live dies, and ORDER_MODE is flush. -/
def State.endMap (s : State) (w : Wiring) : State :=
  s.modDev fun v => { v with phase := 6, share := w.share.val, striped := (List.finRange 8).filter fun d => v.live.getLsbD d.val, flush := true }

/-- BOOT_PHASE_DONE (R67): `passed` are the dies that pass phase 1 or 2. -/
def execBootPhaseDone (passed : BitVec 8) (w : Wiring) (s : State) : Out :=
  if s.dev.bootFail || s.dev.ready then .next s
  else
    match s.dev.phase.toNat with
    | 1 => .next (s.endVerify passed)
    | 2 => .next (s.endAuth passed)
    | 3 => .next (s.endCalibration w)
    | 4 => .next s.endMemory
    | 5 => .next (s.endMap w)
    | 6 => .next (s.modDev fun v => { v with ready := true })
    | _ => .next s

/-- DIE_AUTH_TIMEOUT (R70). -/
def execDieAuthTimeout (d : DieId) (s : State) : Out :=
  if s.dev.phase = 2 then .next (s.modDev fun v => { v with fenced := v.fenced ||| (1#8 <<< d.val) }) else .next s

end Sys2Proof.Machine
end

