-- ==== Sys2Proof/Machine/Host.lean ====
section
/-!
DEFINITION. The host's side (R71 to R82, R84, R92): ingress, device memory over CXL.mem, egress queues, attestation, key slots, the SVN
fuse, and control-window writes by offset (R72).
-/

namespace Sys2Proof.Machine

/-! ## INGRESS_WRITE (R75, R76, R78) -/

/-- An INGRESS_ERROR record (R80). -/
def State.ingressError (s : State) (c : CtxId) (ch kind stray : Nat) (data : List Byte) : State :=
  s.postCtx c.val 0x04 (BitVec.ofNat 32 (ch + 2 ^ 8 * kind + 2 ^ 16 * stray)) ((data ++ List.replicate 8 0).take 8)

/-- INGRESS_WRITE: a write to the aperture window. -/
def execIngressWrite (off : Nat) (data : List Byte) (s : State) : Out :=
  if h : off / 0x1000 < 64 then
    let c : CtxId := ⟨off / 0x1000, h⟩
    let o := off % 0x1000
    let ch := o / 8
    let x := s.ctx c.val
    if !x.enable || (s.dev.repActive && s.dev.repCtx == c) then .next s
    else if 0x80 ≤ o then .next ((s.modCtx c.val fun x => { x with stray := true }).ingressError c 0 0 1 data)
    else if data.length ≠ 8 ∨ o % 8 ≠ 0 then
      .next ((s.modCtx c.val fun x => { x with bad := x.bad ||| (1#16 <<< ch) }).ingressError c ch 0 0 data)
    else
      let q := x.ingress.get [] ch
      if 64 ≤ q.length then .next ((s.modCtx c.val fun x => { x with ovf := x.ovf ||| (1#16 <<< ch) }).ingressError c ch 1 0 data)
      else .next (s.modCtx c.val fun x => { x with ingress := x.ingress.put ch (q ++ [BitVec.ofNat 64 (natLE data)]) })
  else .next s

/-! ## CXL.mem (R74) -/

/-- The key of a byte that the host reaches: device memory that is backed, once DEV_READY is set. -/
def State.hostKey (s : State) (pa : Nat) : Option (Nat × Nat) :=
  if !s.dev.ready then none
  else
    match s.locate pa with
    | .ok (k, .die d) => some (k, d.val)
    | _ => none

/-- A byte as the host reads it, none for poison. -/
def State.hostByte (s : State) (pa : Nat) : Option Byte :=
  match s.hostKey pa with
  | some (k, _) => if s.poison.contains (sectorOf k) then none else some (s.mem.get k)
  | none => none

/-- CXL_MEM_READ: completes with the bytes, or with poison; one to a stack that takes no reads waits (R416). -/
def execCxlMemRead (pa n : Nat) (s : State) : Out :=
  let held := (List.range n).any fun i => match s.hostKey (pa + i) with | some (_, d) => (s.die d).hold | none => false
  if held then .next s
  else .next (s.modDev fun v => { v with reads := v.reads ++ [(List.range n).mapM fun i => s.hostByte (pa + i)] })

/-- Bytes of a host write that are backed. -/
def State.hostCells (s : State) (pa : Nat) (data : List Byte) : List Host.Cell :=
  (List.range data.length).filterMap fun i => (s.hostKey (pa + i)).map fun k => (k.1, data.getD i 0)

/-- CXL_MEM_WRITE: dropped where nothing is behind it; to a weight layer it is held while its die is parked (R62) or its slices are
locked (R24). A weight layer is named by the model's own places of slice bytes (log 22). -/
def execCxlMemWrite (pa : Nat) (data : List Byte) (s : State) : Out :=
  match sliceRing? pa with
  | some r =>
    let d := ringDie r
    if !s.dev.ready || !s.dev.live.getLsbD d then .next s
    else if s.clocked r then .next (s.store (cellsAt pa data))
    else .next (s.modDie d fun x => { x with heldHost := x.heldHost ++ [cellsAt pa data] })
  | none => .next (s.store (s.hostCells pa data))

/-! ## Egress queues (R79, R80, R82, R250) -/

/-- A queue that takes no records: EGRs that wait or whose record is on its way are discarded and counted lost, and held records stay held, as
far as there is room for them. -/
def EgQueue.shut (q : EgQueue) : EgQueue :=
  let back := (q.lines.filter (·.2.isNone)).map (·.1) ++ q.held
  let lost := q.waiting.length + (q.lines.filter (·.2.isSome)).length + (back.length - 16)
  (List.range lost).foldl (fun q _ => q.lose) { q with lines := [], waiting := [], held := back.take 16 }

/-- The EGR operations that a queue holds. -/
def EgQueue.egrs (q : EgQueue) : List (RingId × Nat) := q.lines.filterMap (·.2) ++ q.waiting.map fun w => (w.2.1, w.2.2)

/-- Records on their way for which a queue has no place any more: its own are held again, and EGRs wait again, before those that did (R82). -/
def EgQueue.fit (q : EgQueue) : EgQueue :=
  let extra := q.lines.drop (2 ^ q.log2n.toNat)
  let back := (extra.filter (·.2.isNone)).map (·.1) ++ q.held
  let egrs := extra.filterMap fun l => l.2.map fun op => (l.1, op)
  (List.range (back.length - 16)).foldl (fun q _ => q.lose)
    { q with lines := q.lines.take (2 ^ q.log2n.toNat), held := back.take 16, waiting := egrs ++ q.waiting }

/-- A queue from its registers as they now stand, at its start: records on their way, held ones first in line, go to it where it can take them. -/
def EgQueue.restart (q : EgQueue) : EgQueue :=
  let q := { q with prod := 0, cons := 0 }
  if q.usable then q.fit.flow else q.shut

/-- A write to a queue's base or control register. -/
def EgQueue.configure (q : EgQueue) (reg : EgqReg) (v : Word) : EgQueue :=
  match reg with
  | .base => { q with base := v &&& ~~~0x3F }.restart
  | .ctl => { q with vector := v.extractLsb' 16 8, irqEn := v.getLsbD 8, log2n := v.setWidth 5 }.restart

/-- A queue takes its new registers; the EGRs that it discards perform. -/
def State.configureEgq (s : State) (q : QueueId) (reg : EgqReg) (v : Word) : State :=
  let s1 := s.modEgq q (·.configure reg v)
  let kept := (s1.egq q).egrs
  ((s.egq q).egrs.filter (!kept.contains ·)).foldl (fun s e => s.finishOp e.1.val e.2) s1

/-- EGQ_CONFIG_WRITE (R79). -/
def execEgqConfigWrite (q : QueueId) (reg : EgqReg) (v : Word) (s : State) : Out := s.atReady (·.configureEgq q reg v)

/-- A write to EGQ_CONS, ignored where it would pass EGQ_PROD. -/
def EgQueue.consume (q : EgQueue) (v : BitVec 32) : EgQueue :=
  if (q.prod - q.cons).toNat < (v - q.cons).toNat then q else { q with cons := v }.flow

/-- EGQ_CONS_WRITE (R79, R82). -/
def execEgqConsWrite (q : QueueId) (v : Word) (s : State) : Out := s.atReady (·.modEgq q (·.consume (v.setWidth 32)))

/-- A record's 64 bytes at index `i` (R80). -/
def Egr.bytes (e : Egr) (i : BitVec 32) (log2n : Nat) (gt : Word) : List Byte :=
  let phase : Byte := if i.getLsbD log2n then 0 else 1
  let l := [e.kind, phase] ++ bytesLE 2 e.ctx.toNat ++ bytesLE 4 e.a.toNat ++ bytesLE 8 gt.toNat ++ e.b
  (l ++ List.replicate 64 0).take 64

/-- The vector that a queue's record raises, if any (R82). -/
def EgQueue.raises (q : EgQueue) (id : QueueId) : Option Nat :=
  if q.irqEn then some (match id with | .dev => 64 | .ctx _ => q.vector.toNat) else none

/-- A vector is raised: a masked one becomes pending (log 17), and a VECTOR of 65 to 255, which names none of the 65, raises nothing
(log 88). -/
def State.interrupt (s : State) (v : Nat) : State :=
  if 65 ≤ v then s
  else if (s.dev.msix.get {} v).masked then s.modDev fun d => { d with pba := d.pba ||| (1#65 <<< v) }
  else s.modDev fun d => { d with irqs := d.irqs ++ [BitVec.ofNat 8 v] }

/-- A write to the MSI-X table: address, or data and vector control. A vector that is unmasked while it is pending raises its message
(log 17). -/
def State.msixWrite (s : State) (o : Nat) (v : Word) : State :=
  let n := o / 16
  if 65 ≤ n then s
  else
    let e := s.dev.msix.get {} n
    let e1 := if o % 16 = 0 then { e with addr := v } else { e with data := v.setWidth 32, masked := v.getLsbD 32 }
    let s1 := s.modDev fun d => { d with msix := d.msix.put n e1 }
    if !e1.masked && s.dev.pba.getLsbD n then (s1.modDev fun d => { d with pba := d.pba &&& ~~~(1#65 <<< n) }).interrupt n else s1

/-- EGRESS_RECORD_VISIBLE: the oldest accepted record's line is in host memory, EGQ_PROD has advanced, and the interrupt follows; an EGR
that posted it performs (R250). -/
def execEgressRecordVisible (id : QueueId) (s : State) : Out :=
  let q := s.egq id
  match q.lines with
  | [] => .next s
  | (e, op) :: t =>
    if !q.usable || 2 ^ q.log2n.toNat ≤ (q.prod - q.cons).toNat then .next s
    else
      let n := q.log2n.toNat
      let at' := q.base.toNat + 64 * (q.prod.toNat % 2 ^ n)
      let s1 := (s.hostWrite at' (e.bytes q.prod n s.gt)).modEgq id fun q => { q with prod := q.prod + 1, lines := t }
      let s2 := match q.raises id with | some v => s1.interrupt v | none => s1
      match op with
      | some (r, k) => .next (s2.finishOp r.val k)
      | none => .next s2

/-! ## Trust (R69, R84, R92) -/

/-- A write of GO to ATT_CTL. -/
def State.attest (s : State) : State := if s.dev.attBusy then s else s.modDev fun d => { d with attBusy := true }

/-- ATTEST_GO (R84). -/
def execAttestGo (s : State) : Out := s.atReady State.attest

/-- DEV_STATUS (R68). -/
def Dev.status (d : Dev) : Word :=
  BitVec.ofNat 64 (d.ready.toNat * 2 ^ 63 + d.bootFail.toNat * 2 ^ 62 + d.phase.toNat * 2 ^ 59 + d.fenced.toNat * 2 ^ 16 + d.live.toNat * 2 ^ 8 +
    d.parked.toNat)

/-- What a report made now holds (R69, R84, R92). -/
def Dev.report (d : Dev) : Report :=
  { nonce := (List.range 4).map fun k => d.nonce.get 0 k, svn := d.svnFuse, status := d.status, formA := Config.formA
    keys := (List.range 16).filterMap fun k => let x := d.keySlots.get {} k; if x.valid then some (k, x.hash) else none }

/-- ATTEST_DONE: the report, of at most 4 KiB, whose layout and signature the spec leaves to the device (log 13), is at ATT_DEST, or ERR is
set. ATT_DEST, the nonce and the key slots count as they stand now, and not as they stood at GO (log 104). -/
def execAttestDone (s : State) : Out :=
  if !s.dev.attBusy then .next s
  else
    let a := s.dev.attDest.toNat
    let s1 := s.modDev fun d => { d with attBusy := false }
    if hostBase ≤ a ∧ a + 4096 ≤ 2 ^ 52 then
      .next (((s1.hostWrite a ((Config.report s.dev.report s.freeCtr).take 4096)).useFree).modDev fun d => { d with attDone := true })
    else .next (s1.modDev fun d => { d with attErr := true })

/-- A write to a word of a key slot. -/
def State.keyWrite (s : State) (k off : Nat) (v : Word) : State :=
  let x := s.dev.keySlots.get {} k
  let used := (List.range 64).any fun c => (s.ctx c).enable && (s.ctx c).keys.getLsbD k
  let set (y : KeySlot) : State := s.modDev fun d => { d with keySlots := d.keySlots.put k y }
  if x.valid then (if off = 48 ∧ !v.getLsbD 0 ∧ !used then set { x with valid := false } else s)
  else if off = 48 then set { x with valid := v.getLsbD 0 }
  else if off < 48 then
    let hole : BitVec 384 := ~~~((BitVec.allOnes 64).setWidth 384 <<< (8 * off))
    set { x with hash := x.hash &&& hole ||| (v.setWidth 384 <<< (8 * off)) }
  else s

/-- KEY_SLOT_WRITE (R92). -/
def execKeySlotWrite (k : Fin 16) (off : Nat) (v : Word) (s : State) : Out := s.atReady (·.keyWrite k.val off v)

/-- A write to FUSE_SVN: only upward, and no higher than the running image. -/
def State.fuseSvn (s : State) (v : Word) : State :=
  if s.dev.svnFuse.toNat < v.toNat ∧ v.toNat ≤ (Config.imageSvn s.master).toNat then s.modDev fun d => { d with svnFuse := v } else s

/-- FUSE_SVN_WRITE (R69). -/
def execFuseSvnWrite (v : Word) (s : State) : Out := s.atReady (·.fuseSvn v)

/-! ## REGISTER_WRITE (R72) -/

/-- The state after a write that has a move of its own. -/
def State.by (s : State) (f : State → Out) : State := match f s with | .next t => t | .fault _ => s | .refused _ => s

/-- Registers of an egress queue, from +0x08 on (R79). -/
def State.egqReg (s : State) (q : QueueId) (o : Nat) (v : Word) : State :=
  match o with
  | 0x08 => s.by (execEgqConfigWrite q .base v)
  | 0x10 => s.by (execEgqConfigWrite q .ctl v)
  | 0x20 => s.by (execEgqConsWrite q v)
  | 0x28 => if v.getLsbD 1 then s.modEgq q fun q => { q with lost := false } else s
  | _ => s

/-- CTX_CFG: the plain fields, then ENABLE (R105, R106). -/
def State.cfgReg (s : State) (c : CtxId) (v : Word) : State :=
  let s1 := s.by (execCtxConfigWrite c .cfg v)
  if v.getLsbD 0 then s1.by (execContextEnable c) else s1.by (execContextTeardown c)

/-- Bits of a word that a register keeps. -/
def keep (v : Word) (lo n : Nat) : Word := BitVec.ofNat 64 (bitsOf v.toNat lo n * 2 ^ lo)

/-- A context's host block (R79, R105, R119). -/
def State.ctxReg (s : State) (c : CtxId) (o : Nat) (v : Word) : State :=
  if 0x80 ≤ o then
    let q : Fin 4 := Fin.ofNat 4 ((o - 0x80) / 0x20)
    match (o - 0x80) % 0x20 with
    | 0x00 => s.by (execTaskQueueConfig c q .base v)
    | 0x08 => s.by (execTaskQueueConfig c q .ctl v)
    | _ => s
  else
    match o with
    | 0x00 => s.modCtx c.val fun x =>
        { x with stray := x.stray && !v.getLsbD 48, ovf := x.ovf &&& ~~~(v.extractLsb' 16 16), bad := x.bad &&& ~~~(v.setWidth 16) }
    | 0x30 => s.cfgReg c v
    | 0x38 => s.by (execCtxConfigWrite c .rings v)
    | 0x40 => if (s.ctx c.val).enable then s else s.modCtx c.val fun x => { x with ptbase := keep v 12 40 }
    | 0x48 => s.by (execCtxTouchedWrite c v)
    | 0x50 => s.modCtx c.val fun x => { x with shootVa := keep v 16 41 ||| keep v 0 2 }
    | 0x58 => if v.getLsbD 0 then s.by (execShootdownGo c) else s
    | 0x60 => -- REFUSED clears before GO is judged, which may set it again (log 89)
      let s1 := if v.getLsbD 1 then s.modCtx c.val fun x => { x with refused := false } else s
      if v.getLsbD 0 then s1.by (execResumeGo c) else s1
    | 0x68 => s.modCtx c.val fun x => { x with keys := v.setWidth 16 }
    | _ => s.egqReg (.ctx c) o v

/-- DIE_PWR (R60, R61). -/
def State.pwrReg (s : State) (d : DieId) (v : Word) : State :=
  let s1 := if v.getLsbD 1 then s.modDie d.val fun x => { x with parkRefused := false } else s
  if v.getLsbD 0 then s1.by (execDiePark d) else s1.by (execDieUnpark d)

/-- Power, thermal, trust, attestation and reset registers, by offset from 0x4_0000. -/
def State.systemReg (s : State) (o : Nat) (v : Word) : State :=
  if o = 0x008 then s.by (execCeilWrite v)
  else if o = 0x010 then (if v.getLsbD 17 then s.modDev fun d => { d with ceilMiss := false } else s)
  else if 0x100 ≤ o ∧ o < 0x200 then s.by (execPstateCommand (Fin.ofNat 32 ((o - 0x100) / 8)) v)
  else if 0x200 ≤ o ∧ o < 0x240 then s.pwrReg (Fin.ofNat 8 ((o - 0x200) / 8)) v
  else if 0x300 ≤ o ∧ o < 0x340 then (if v.getLsbD 63 then s.by (execTstopClear (Fin.ofNat 8 ((o - 0x300) / 8))) else s)
  else if o = 0x400 then s.by (execFuseSvnWrite v)
  else if 0x500 ≤ o ∧ o < 0x520 then s.modDev fun d => { d with nonce := d.nonce.put ((o - 0x500) / 8) v }
  else if o = 0x520 then s.modDev fun d => { d with attDest := keep v 12 52 }
  else if o = 0x528 then
    let s1 := s.modDev fun d => { d with attDone := d.attDone && !v.getLsbD 2, attErr := d.attErr && !v.getLsbD 3 }
    if v.getLsbD 0 then s1.by execAttestGo else s1
  else if 0x600 ≤ o ∧ o < 0x640 then
    let d : DieId := Fin.ofNat 8 ((o - 0x600) / 8)
    if v.getLsbD 1 then s.by (execDieUncoreReset d) else if v.getLsbD 0 then s.by (execDieCoreReset d) else s
  else if 0x800 ≤ o ∧ o < 0xC00 then s.by (execKeySlotWrite (Fin.ofNat 16 ((o - 0x800) / 0x40)) ((o - 0x800) % 0x40) v)
  else s

/-- Capture and replay registers (R85, R86). -/
def State.captureReg (s : State) (o : Nat) (v : Word) : State :=
  match o with
  | 0x00 => s.modDev fun d => { d with capBase := keep v 12 52 }
  | 0x08 => s.modDev fun d => { d with capSize := keep v 12 52 }
  | 0x10 =>
    let s1 := if v.getLsbD 1 then s.modDev fun d => { d with capFull := false } else s
    s1.by (execCaptureEnable (v.getLsbD 0))
  | 0x18 => s.modDev fun d => { d with capCtx := v }
  | 0x20 =>
    let c : CtxId := Fin.ofNat 64 (bitsOf v.toNat 8 6)
    let s1 := s.modDev fun d => { d with repDiverged := d.repDiverged && !v.getLsbD 2, repStopped := if v.getLsbD 2 then none else d.repStopped, repCtx := c }
    if v.getLsbD 0 then s1.by (execReplayGo c) else s1
  | 0x28 => s.modDev fun d => { d with repBase := v }
  | 0x30 => s.modDev fun d => { d with repLen := v }
  | _ => s

/-- A control-window write of eight bytes at an offset; an offset that R72 does not list is ignored. -/
def State.writeReg (s : State) (off : Nat) (v : Word) : State :=
  if off % 8 ≠ 0 then s
  else if 0x10000 ≤ off ∧ off < 0x14000 then s.ctxReg (Fin.ofNat 64 ((off - 0x10000) / 0x100)) (off % 0x100) v
  else if 0x20000 ≤ off ∧ off < 0x20200 then
    let n : Fin 64 := Fin.ofNat 64 ((off - 0x20000) / 8)
    if v.getLsbD 63 then s.by (execCircuitRequest n v) else s.by (execCircuitTeardown ⟨n, v⟩)
  else if 0x40000 ≤ off ∧ off < 0x41000 then s.systemReg (off - 0x40000) v
  else if 0x50000 ≤ off ∧ off < 0x50030 then s.egqReg .dev (off - 0x50000) v
  else if 0x52000 ≤ off ∧ off < 0x53000 then s.msixWrite (off - 0x52000) v
  else if 0x60000 ≤ off ∧ off < 0x60038 then s.captureReg (off - 0x60000) v
  else s

/-- REGISTER_WRITE (R72): nothing but DEV_STATUS, which is read-only, takes writes before DEV_READY (R67). -/
def execRegisterWrite (off : Nat) (v : Word) (s : State) : Out := s.atReady (·.writeReg off v)

end Sys2Proof.Machine
end

