-- ==== Sys2Proof/Machine/HostQueue.lean ====
section
/-!
DEFINITION. Groups 0xD8 to 0xDA: ENQ, INGR and EGR, as they fire (R395).
-/

namespace Sys2Proof.Machine

/-- ENQ: a 128-byte aligned record address, which is checked and translated as the word fires, and then a queue (R378, R395). -/
def execEnq (pd : Pred) (sn : Strand) (m : SMask) (t0 : Target) (s : State) : Out :=
  memWord (.enq pd sn m t0) s
    (fun o => (o.scalars [.l, .r]).map fun l => (BitVec.ofNat 64 (opn l 0), { sp := .g, n := 128, use := .read, watch := false }))
    fun o a s =>
      match o.r with
      | some (.sc q) => if 4 ≤ q.toNat then s.failWord 0x02 else s.pushItem (.enq pd sn m t0) (.enq a (q.setWidth 2))
      | _ => s

/-- INGR: a program channel, 4 to 15. -/
def execIngr (pd : Pred) (sn : Strand) (m : SMask) (t0 : Target) (s : State) : Out :=
  itemWord (.ingr pd sn m t0) s fun l =>
    if 16 ≤ opn l 0 ∨ opn l 0 < 4 then .error 0x02 else .ok (.ingr (BitVec.ofNat 4 (opn l 0)))

/-- EGR: a token and 24 bits of A. -/
def execEgr (pd : Pred) (sn : Strand) (m : SMask) (s : State) : Out :=
  whenReady (.egr pd sn m) s fun o s =>
    match o.l, o.r with
    | some (.tok t), some (.sc a) =>
      if 2 ^ 24 ≤ a.toNat then s.failWord 0x02 else s.pushItem (.egr pd sn m) (.egr t a)
    | _, _ => s.failWord 0x05

end Sys2Proof.Machine
end

