-- ==== Sys2Proof/Machine/Integer.lean ====
section
/-!
DEFINITION. Group 0x1: integer arithmetic and division (R317, R318).
-/

namespace Sys2Proof.Machine

/-- ADD (R317). -/
def execAdd (pd : Pred) (sat : Sat) (w : IWidth) (t1 t0 : Target) (s : State) : Out :=
  intWord (.add pd sat w t1 t0) w (saturate sat fun a b _ => a + b) s

/-- SUB (R317). -/
def execSub (pd : Pred) (sat : Sat) (w : IWidth) (t1 t0 : Target) (s : State) : Out :=
  intWord (.sub pd sat w t1 t0) w (saturate sat fun a b _ => a - b) s

/-- ADDI (R317). -/
def execAddi (pd : Pred) (imm : BitVec 13) (t0 : Target) (s : State) : Out :=
  immWord (.addi pd imm t0) (fun w a => narrow w (a + imm.toInt)) s

/-- MUL (R317). -/
def execMul (pd : Pred) (sat : Sat) (w : IWidth) (t1 t0 : Target) (s : State) : Out :=
  intWord (.mul pd sat w t1 t0) w (saturate sat fun a b _ => a * b) s

/-- MULHS (R317): the high half of the signed product. -/
def execMulhs (pd : Pred) (w : IWidth) (t1 t0 : Target) (s : State) : Out :=
  intWord (.mulhs pd w t1 t0) w (fun w a b _ => narrow w (sgn w a * sgn w b / (2 ^ w : Int))) s

/-- MULHU (R317). -/
def execMulhu (pd : Pred) (w : IWidth) (t1 t0 : Target) (s : State) : Out :=
  intWord (.mulhu pd w t1 t0) w (fun w a b _ => a * b / 2 ^ w) s

/-- MAD (R317). -/
def execMad (pd : Pred) (sat : Sat) (w : IWidth) (t1 t0 : Target) (s : State) : Out :=
  intWord (.mad pd sat w t1 t0) w (saturate sat fun a b c => a * b + c) s

/-- NEG (R317). -/
def execNeg (pd : Pred) (sats : Bool) (w : IWidth) (t1 t0 : Target) (s : State) : Out :=
  intWord (.neg pd sats w t1 t0) w (fun w a _ _ => saturateS sats (fun v => -v) w a) s

/-- ABS (R317). -/
def execAbs (pd : Pred) (sats : Bool) (w : IWidth) (t1 t0 : Target) (s : State) : Out :=
  intWord (.abs pd sats w t1 t0) w (fun w a _ _ => saturateS sats (fun v => (v.natAbs : Int)) w a) s

/-- MINS (R317). -/
def execMins (pd : Pred) (w : IWidth) (t1 t0 : Target) (s : State) : Out :=
  intWord (.mins pd w t1 t0) w (fun w a b _ => if sgn w a ≤ sgn w b then a else b) s

/-- MINU (R317). -/
def execMinu (pd : Pred) (w : IWidth) (t1 t0 : Target) (s : State) : Out :=
  intWord (.minu pd w t1 t0) w (fun _ a b _ => if a ≤ b then a else b) s

/-- MAXS (R317). -/
def execMaxs (pd : Pred) (w : IWidth) (t1 t0 : Target) (s : State) : Out :=
  intWord (.maxs pd w t1 t0) w (fun w a b _ => if sgn w a ≤ sgn w b then b else a) s

/-- MAXU (R317). -/
def execMaxu (pd : Pred) (w : IWidth) (t1 t0 : Target) (s : State) : Out :=
  intWord (.maxu pd w t1 t0) w (fun _ a b _ => if a ≤ b then b else a) s

/-- The element width of a division (R318). -/
def divBits (wide : Bool) : Nat := if wide then 64 else 32

/-- A division on the sequencer: a zero divisor raises cause 0x37 (R318). -/
def divWord (i : Instr) (wide : Bool) (f : Nat → Nat → Nat → Nat) (s : State) : Out :=
  fireValue i s fun o =>
    match o.scalars i.reads with
    | .error c => .error c
    | .ok l =>
      let w := divBits wide
      let a := opn l 0 % 2 ^ w
      let b := opn l 1 % 2 ^ w
      if b = 0 then .error 0x37 else .ok (.sc (BitVec.ofNat 64 (f w a b)))

/-- DIVS (R318): toward zero. -/
def execDivs (pd : Pred) (wide : Bool) (t1 t0 : Target) (s : State) : Out :=
  divWord (.divs pd wide t1 t0) wide (fun w a b => narrow w ((sgn w a).tdiv (sgn w b))) s

/-- DIVU (R318). -/
def execDivu (pd : Pred) (wide : Bool) (t1 t0 : Target) (s : State) : Out :=
  divWord (.divu pd wide t1 t0) wide (fun _ a b => a / b) s

/-- REMU (R318). -/
def execRemu (pd : Pred) (wide : Bool) (t1 t0 : Target) (s : State) : Out :=
  divWord (.remu pd wide t1 t0) wide (fun _ a b => a - b * (a / b)) s

end Sys2Proof.Machine
end

