-- ==== Sys2Proof/Machine/Logic.lean ====
section
/-!
DEFINITION. Group 0x2: logic, shifts, counts and bit fields (R319 to R322).
-/

namespace Sys2Proof.Machine

/-- The complement of a `w`-bit element. -/
def notElem (w a : Nat) : Nat := 2 ^ w - 1 - a % 2 ^ w

/-- AND (R319). -/
def execAnd (pd : Pred) (w : IWidth) (t1 t0 : Target) (s : State) : Out :=
  intWord (.and pd w t1 t0) w (fun _ a b _ => a &&& b) s

/-- OR (R319). -/
def execOr (pd : Pred) (w : IWidth) (t1 t0 : Target) (s : State) : Out :=
  intWord (.or pd w t1 t0) w (fun _ a b _ => a ||| b) s

/-- XOR (R319). -/
def execXor (pd : Pred) (w : IWidth) (t1 t0 : Target) (s : State) : Out :=
  intWord (.xor pd w t1 t0) w (fun _ a b _ => a ^^^ b) s

/-- ANDN (R319). -/
def execAndn (pd : Pred) (w : IWidth) (t1 t0 : Target) (s : State) : Out :=
  intWord (.andn pd w t1 t0) w (fun w a b _ => a &&& notElem w b) s

/-- NOT (R319). -/
def execNot (pd : Pred) (w : IWidth) (t1 t0 : Target) (s : State) : Out :=
  intWord (.not pd w t1 t0) w (fun w a _ _ => notElem w a) s

/-- A left shift within `w` bits (R320). -/
def shlElem (w a n : Nat) : Nat := a * 2 ^ n % 2 ^ w

def shrElem (_w a n : Nat) : Nat := a / 2 ^ n

/-- An arithmetic right shift (R320). -/
def sarElem (w a n : Nat) : Nat := narrow w (sgn w a / (2 ^ n : Int))

/-- SHL (R320). -/
def execShl (pd : Pred) (w : IWidth) (t1 t0 : Target) (s : State) : Out :=
  intWord (.shl pd w t1 t0) w (fun w a b _ => shlElem w a (b % w)) s

/-- SHR (R320). -/
def execShr (pd : Pred) (w : IWidth) (t1 t0 : Target) (s : State) : Out :=
  intWord (.shr pd w t1 t0) w (fun w a b _ => shrElem w a (b % w)) s

/-- SAR (R320). -/
def execSar (pd : Pred) (w : IWidth) (t1 t0 : Target) (s : State) : Out :=
  intWord (.sar pd w t1 t0) w (fun w a b _ => sarElem w a (b % w)) s

/-- ROL (R320). -/
def execRol (pd : Pred) (w : IWidth) (t1 t0 : Target) (s : State) : Out :=
  intWord (.rol pd w t1 t0) w (fun w a b _ => shlElem w a (b % w) ||| shrElem w a (w - b % w)) s

/-- SHLI (R320). -/
def execShli (pd : Pred) (imm : BitVec 13) (t0 : Target) (s : State) : Out :=
  immWord (.shli pd imm t0) (fun w a => shlElem w a (imm.toNat % w)) s

/-- SHRI (R320). -/
def execShri (pd : Pred) (imm : BitVec 13) (t0 : Target) (s : State) : Out :=
  immWord (.shri pd imm t0) (fun w a => shrElem w a (imm.toNat % w)) s

/-- SARI (R320). -/
def execSari (pd : Pred) (imm : BitVec 13) (t0 : Target) (s : State) : Out :=
  immWord (.sari pd imm t0) (fun w a => sarElem w a (imm.toNat % w)) s

/-- Bits of an element from its highest set bit down: `n` is how many may be set. -/
def bitLength : Nat → Nat → Nat
  | 0, _ => 0
  | n + 1, a => if 2 ^ n ≤ a then n + 1 else bitLength n a

/-- CLZ (R321). -/
def execClz (pd : Pred) (w : IWidth) (t1 t0 : Target) (s : State) : Out :=
  intWord (.clz pd w t1 t0) w (fun w a _ _ => w - bitLength w a) s

/-- The number of set bits below bit `n`. -/
def popCount : Nat → Nat → Nat
  | 0, _ => 0
  | n + 1, a => popCount n a + a / 2 ^ n % 2

/-- POPC (R321). -/
def execPopc (pd : Pred) (w : IWidth) (t1 t0 : Target) (s : State) : Out :=
  intWord (.popc pd w t1 t0) w (fun w a _ _ => popCount w a) s

/-- The width of a bit-field instruction (R322). -/
def fieldWidth (wide : Bool) : IWidth := if wide then .i64 else .i32

/-- Position, length within `w`, and sign flag of a control element (R322). -/
def ctlPos (c : Nat) : Nat := c % 64
def ctlLen (w c : Nat) : Nat := min (c / 256 % 128) w
def ctlSign (c : Nat) : Bool := c / 65536 % 2 == 1

/-- BFX on an element (R322). -/
def bfxElem (w a c : Nat) : Nat :=
  let n := ctlLen w c
  let f := a / 2 ^ ctlPos c % 2 ^ n
  if ctlSign c && 0 < n && f / 2 ^ (n - 1) % 2 == 1 then narrow w ((f : Int) - 2 ^ n) else f % 2 ^ w

/-- BFX (R322). -/
def execBfx (pd : Pred) (wide : Bool) (t1 t0 : Target) (s : State) : Out :=
  intWord (.bfx pd wide t1 t0) (fieldWidth wide) (fun w a b _ => bfxElem w a b) s

/-- BFI on an element (R322). -/
def bfiElem (w a b c : Nat) : Nat :=
  let m := (2 ^ ctlLen w c - 1) * 2 ^ ctlPos c % 2 ^ w
  (a &&& notElem w m) ||| (b * 2 ^ ctlPos c &&& m)

/-- BFI (R322). -/
def execBfi (pd : Pred) (wide : Bool) (t1 t0 : Target) (s : State) : Out :=
  intWord (.bfi pd wide t1 t0) (fieldWidth wide) bfiElem s

end Sys2Proof.Machine
end

