-- ==== Sys2Proof/Machine/Memory.lean ====
section
/-!
DEFINITION. Group 0xB: loads, stores and PREF (R387 to R390).
-/

namespace Sys2Proof.Machine

/-- The address operand: a scalar, or the wrong kind (R388, order 1). -/
def Opers.addr (o : Opers) (i : Instr) : Except Cause Word :=
  (o.scalars i.reads).map fun l => BitVec.ofNat 64 (opn l 0)

/-- A load: checked and translated as it fires, then issued; its value comes when it performs (R388, R389). -/
def loadWord (i : Instr) (sp : Space) (n : Nat) (t0 : Target) (s : State) : Out :=
  memWord i s (fun o => (o.addr i).map fun l => (l, { sp := sp, n := n, use := .read }))
    fun _ a s => s.issueValue i (.load a s.focusIdx t0)

/-- LD8 (R387). -/
def execLd8 (pd : Pred) (sp : Space) (sn : Strand) (m : SMask) (t0 : Target) (s : State) : Out :=
  loadWord (.ld8 pd sp sn m t0) sp 1 t0 s

/-- LD16 (R387). -/
def execLd16 (pd : Pred) (sp : Space) (sn : Strand) (m : SMask) (t0 : Target) (s : State) : Out :=
  loadWord (.ld16 pd sp sn m t0) sp 2 t0 s

/-- LD32 (R387). -/
def execLd32 (pd : Pred) (sp : Space) (sn : Strand) (m : SMask) (t0 : Target) (s : State) : Out :=
  loadWord (.ld32 pd sp sn m t0) sp 4 t0 s

/-- LD64 (R387). -/
def execLd64 (pd : Pred) (sp : Space) (sn : Strand) (m : SMask) (t0 : Target) (s : State) : Out :=
  loadWord (.ld64 pd sp sn m t0) sp 8 t0 s

/-- LDT (R387): 64 bytes as a token. -/
def execLdt (pd : Pred) (sp : Space) (sn : Strand) (m : SMask) (t0 : Target) (s : State) : Out :=
  loadWord (.ldt pd sp sn m t0) sp 64 t0 s

/-- LDX64 (R387): reads as a load, ordered as exclusive. -/
def execLdx64 (pd : Pred) (sp : Space) (sn : Strand) (m : SMask) (t0 : Target) (s : State) : Out :=
  loadWord (.ldx64 pd sp sn m t0) sp 8 t0 s

/-- A store of the low bytes of a scalar: a commit item, checked and translated as it fires (R378, R388). In io an ST64
starts a shuttle (R210). -/
def storeWord (i : Instr) (sp : Space) (n : Nat) (s : State) : Out :=
  memWord i s
    (fun o => (o.scalars i.reads).map fun l =>
      (BitVec.ofNat 64 (opn l 0),
        { sp := sp, n := n, use := .write, io := if n = 8 then some (BitVec.ofNat 64 (opn l 1)) else none }))
    fun o a s =>
      let v : Word := match o.r with | some (.sc x) => x | _ => 0
      match a.space with
      | .io => s.pushItem i (.aperture (Fin.ofNat 16 (a.va.toNat / 16)) v)
      | _ => s.pushItem i (.store a (v.setWidth 512) 0xFFFF)

/-- ST8 (R387). -/
def execSt8 (pd : Pred) (sp : Space) (sn : Strand) (m : SMask) (s : State) : Out :=
  storeWord (.st8 pd sp sn m) sp 1 s

/-- ST16 (R387). -/
def execSt16 (pd : Pred) (sp : Space) (sn : Strand) (m : SMask) (s : State) : Out :=
  storeWord (.st16 pd sp sn m) sp 2 s

/-- ST32 (R387). -/
def execSt32 (pd : Pred) (sp : Space) (sn : Strand) (m : SMask) (s : State) : Out :=
  storeWord (.st32 pd sp sn m) sp 4 s

/-- ST64 (R387), and in io the start of a shuttle (R210). -/
def execSt64 (pd : Pred) (sp : Space) (sn : Strand) (m : SMask) (s : State) : Out :=
  storeWord (.st64 pd sp sn m) sp 8 s

/-- STT (R387): the valid lanes of a token. -/
def execStt (pd : Pred) (sp : Space) (sn : Strand) (m : SMask) (s : State) : Out :=
  memWord (.stt pd sp sn m) s
    (fun o =>
      match o.l, o.r with
      | some (.sc l), some (.tok _) => .ok (l, { sp := sp, n := 64, use := .write })
      | _, _ => .error 0x05)
    fun o a s =>
      match o.r with
      | some (.tok t) => s.pushItem (.stt pd sp sn m) (.store a t.data t.valid)
      | _ => s

/-- PREF (R390): a commit item that performs as it issues; bits [63:57] of L and [62:48] of R are ignored. -/
def execPref (pd : Pred) (sn : Strand) (m : SMask) (s : State) : Out :=
  whenReady (.pref pd sn m) s fun o s =>
    match o.scalars [.l, .r] with
    | .error c => s.failWord c
    | .ok l =>
      s.pushItem (.pref pd sn m)
        (.pref (BitVec.ofNat 64 (opn l 0 % 2 ^ 57)) (opn l 1 % 2 ^ 48) ((BitVec.ofNat 64 (opn l 1)).getLsbD 63))

end Sys2Proof.Machine
end

