-- ==== Sys2Proof/Machine/Special.lean ====
section
/-!
DEFINITION. Group 0x5: the special functions (R271, R336, R337). Where R337 fixes a value, that is the result. Elsewhere
the manual gives a bound alone: the result is a free value of Config where that lies within the bound, else the
correctly rounded value, which always does (log 7). The bound is judged against an approximation of the exact value
whose relative error is below 2^-120; a value that a code could differ from by exactly the bound is exact here.
-/

namespace Sys2Proof.Machine

/-! ## Fixed-point approximations, scaled by 2^512 -/

def fixScale : Nat := 512

def piFix : Nat :=
  0x3243f6a8885a308d313198a2e03707344a4093822299f31d0082efa98ec4e6c89452821e638d01377be5466cf34e90c6cc0ac29b7c97c50dd3f84d5b5b5470917

def ln2Fix : Nat :=
  0xb17217f7d1cf79abc9e3b39803f2f6af40f343267298b62d8a0d175b8baafa2be7b876206debac98559552fb4afa1b10ed2eae35c138214427573b291169b825

/-- A finite magnitude at the fixed scale. -/
def fixOf (m : Nat) (e : Int) : Nat := m * 2 ^ (e + fixScale).toNat

/-- e^r for 0 ≤ r < 1, by its series. -/
def expFix (r : Nat) : Nat :=
  ((List.range 100).foldl (fun (p : Nat × Nat) k => let t := p.2 * r / 2 ^ fixScale / (k + 1); (p.1 + t, t))
    (2 ^ fixScale, 2 ^ fixScale)).1

/-- 2^(x / 2^512) as a mantissa at the fixed scale and an exponent held within ±1,000. -/
def exp2Fix (x : Int) : Nat × Int :=
  let f := (x % (2 ^ fixScale : Int)).toNat
  (expFix (f * ln2Fix / 2 ^ fixScale), clamp (-1000) 1000 (x / (2 ^ fixScale : Int)))

/-- e^(x / 2^512). -/
def expOf (x : Int) : Nat × Int := exp2Fix (x * (2 ^ fixScale : Int) / (ln2Fix : Int))

/-- The base-2 logarithm of a positive finite value. -/
def log2Fix (m : Nat) (e : Int) : Int :=
  let l := bitLen m
  let one := 2 ^ fixScale
  let x := m * 2 ^ (fixScale + 1 - l)
  let z := (x - one) * one / (x + one)
  let z2 := z * z / one
  let sum := ((List.range 110).foldl (fun (p : Nat × Nat) k => (p.1 + p.2 / (2 * k + 1), p.2 * z2 / one)) (0, z)).1
  (e + (l : Int) - 1) * (one : Int) + (2 * sum * one / ln2Fix : Nat)

/-- The sine series of an angle below π/2. -/
def sinSeries (r : Nat) : Int :=
  let r2 := r * r / 2 ^ fixScale
  ((List.range 60).foldl
    (fun (p : Int × Nat) k => (p.1 + (if k % 2 = 0 then (p.2 : Int) else -(p.2 : Int)),
      p.2 * r2 / 2 ^ fixScale / ((2 * k + 2) * (2 * k + 3)))) (0, r)).1

def cosSeries (r : Nat) : Int :=
  let r2 := r * r / 2 ^ fixScale
  ((List.range 60).foldl
    (fun (p : Int × Nat) k => (p.1 + (if k % 2 = 0 then (p.2 : Int) else -(p.2 : Int)),
      p.2 * r2 / 2 ^ fixScale / ((2 * k + 1) * (2 * k + 2)))) (0, 2 ^ fixScale)).1

/-- Sine and cosine of a nonnegative angle, with exact reduction by the quarter turn. -/
def sinFix (x : Nat) : Int :=
  let q := 2 * x / piFix
  let r := x - q * piFix / 2
  match q % 4 with
  | 0 => sinSeries r
  | 1 => cosSeries r
  | 2 => -sinSeries r
  | _ => -cosSeries r

def cosFix (x : Nat) : Int :=
  let q := 2 * x / piFix
  let r := x - q * piFix / 2
  match q % 4 with
  | 0 => cosSeries r
  | 1 => -sinSeries r
  | 2 => -cosSeries r
  | _ => sinSeries r

/-- Integer square root of a number below 4^n. -/
def isqrt : Nat → Nat → Nat → Nat
  | 0, _, r => r
  | n + 1, x, r => isqrt n x (if (r + 2 ^ n) * (r + 2 ^ n) ≤ x then r + 2 ^ n else r)

/-- The square root of m × 2^e, with more than 100 good bits. -/
def sqrtFix (m : Nat) (e : Int) : Nat × Int :=
  let odd := e % 2 = 1
  let m := (if odd then 2 * m else m) * 2 ^ 240
  let e := (if odd then e - 1 else e) - 240
  (isqrt (bitLen m / 2 + 1) m 0, e / 2)

/-! ## Values within a bound (R271) -/

/-- |c - y| ≤ n × 2^-j ulp of y, an ulp being 2^(max(floor(log2 |y|), -126) - 23) (R271). -/
def withinUlps (n j : Nat) (c y : Num) : Bool :=
  match c, y, c.add y.neg with
  | .fin .., .fin _ m e, .fin _ d k =>
    let u := max (e + (bitLen m : Int) - 1) (-126) - 23
    !magLt n (u - j) d k
  | _, _, _ => false

/-- The result of a special function whose exact value is about `y` (log 7). -/
def boundedValue (fn n j : Nat) (a b : Nat) (y : Num) : Nat :=
  let c := (Config.special fn (BitVec.ofNat 32 a) (BitVec.ofNat 32 b)).toNat
  if withinUlps n j (fp32.decode c) y then c else fp32.arith y

/-- The same for a function whose exact value is irrational: a code passes within the bound less 2^-j ulp. That is far more than `y` differs from the
exact value by, so every result meets the bound, and far less than a code could miss the bound by (log 7). -/
def irrationalValue (fn n j : Nat) (a : Nat) (y : Num) : Nat := boundedValue fn (n * 2 ^ j - 1) j a 0 y

/-- Whether two finite values are equal. -/
def sameValue : Num → Num → Bool
  | .fin a m e, .fin b n d => !magLt m e n d && !magLt n d m e && (a == b || m == 0)
  | _, _ => false

def numOfInt (v : Int) : Num := .fin (v < 0) v.natAbs (-(fixScale : Int))

/-- 1 / (m × 2^e), with more than 100 good bits. -/
def recip (m : Nat) (e : Int) : Nat × Int := (2 ^ (bitLen m + 200) / m, -e - (bitLen m + 200 : Nat))

def infOf (neg : Bool) : Nat := fp32.arith (.inf neg)
def zeroOf (neg : Bool) : Nat := fp32.signBit neg
def nanOut : Nat := fp32.nanCode

/-! ## The functions on FP32 codes (R337) -/

def frcpOf (a : Nat) : Nat :=
  match fp32.decode a with
  | .nan => nanOut
  | .inf n => zeroOf n
  | .fin n m e => if m = 0 then infOf n else boundedValue 0 1 0 a 0 (.fin n (recip m e).1 (recip m e).2)

def frsqOf (a : Nat) : Nat :=
  match fp32.decode a with
  | .nan => nanOut
  | .inf n => if n then nanOut else zeroOf false
  | .fin n m e =>
    if m = 0 then infOf n
    else if n then nanOut
    else
      let r := sqrtFix m e
      boundedValue 1 1 0 a 0 (.fin false (recip r.1 r.2).1 (recip r.1 r.2).2)

def fsqrtOf (a : Nat) : Nat :=
  match fp32.decode a with
  | .nan => nanOut
  | .inf n => if n then nanOut else infOf false
  | .fin n m e =>
    if m = 0 then zeroOf n
    else if n then nanOut
    else
      let y : Num := .fin false (sqrtFix m e).1 (sqrtFix m e).2
      let r := fp32.arith y
      if sameValue ((fp32.decode r).mul (fp32.decode r)) (.fin n m e) then r else boundedValue 2 1 0 a 0 y

def fdivOf (a b : Nat) : Nat :=
  match fp32.decode a, fp32.decode b with
  | .nan, _ => nanOut
  | _, .nan => nanOut
  | .inf _, .inf _ => nanOut
  | .inf n, .fin k _ _ => infOf (n != k)
  | .fin n _ _, .inf k => zeroOf (n != k)
  | .fin n m e, .fin k p d =>
    if m = 0 ∧ p = 0 then nanOut
    else if p = 0 then infOf (n != k)
    else if m = 0 then zeroOf (n != k)
    else
      let y : Num := .fin (n != k) (m * (recip p d).1) (e + (recip p d).2)
      let r := fp32.arith y
      if sameValue ((fp32.decode r).mul (.fin k p d)) (.fin n m e) then r else boundedValue 3 1 0 a b y

/-- A finite value as a signed fixed-point number. -/
def signedFix (n : Bool) (m : Nat) (e : Int) : Int := if n then -(fixOf m e : Int) else fixOf m e

/-- Whether a finite value is an integer. -/
def isWhole (m : Nat) (e : Int) : Bool := 0 ≤ e || m % 2 ^ (-e).toNat == 0

def fexp2Of (a : Nat) : Nat :=
  match fp32.decode a with
  | .nan => nanOut
  | .inf n => if n then zeroOf false else infOf false
  | .fin n m e =>
    let x := signedFix n m e
    if isWhole m e then fp32.arith (.fin false 1 (clamp (-1000) 1000 (x / (2 ^ fixScale : Int))))
    else
      let y := exp2Fix x
      let v : Num := .fin false y.1 (y.2 - fixScale)
      if n && 200 * 2 ^ fixScale ≤ fixOf m e then boundedValue 4 2 0 a 0 v else irrationalValue 4 2 200 a v

def flog2Of (a : Nat) : Nat :=
  match fp32.decode a with
  | .nan => nanOut
  | .inf n => if n then nanOut else infOf false
  | .fin n m e =>
    if m = 0 then infOf true
    else if n then nanOut
    else if m = 2 ^ (bitLen m - 1) then
      let k := e + (bitLen m : Int) - 1
      fp32.arith (.fin (k < 0) k.natAbs 0)
    else irrationalValue 5 2 200 a (numOfInt (log2Fix m e))

/-- The margin of FSIN and FCOS: near 0 they come within 2^-301 ulp of their operand or of 1; from 1 on the reduction by π has an error. -/
def nearSlack (m : Nat) (e : Int) : Nat := if fixOf m e < 2 ^ fixScale then 320 else 200

def fsinOf (a : Nat) : Nat :=
  match fp32.decode a with
  | .fin n m e =>
    if m = 0 then zeroOf n
    else irrationalValue 6 3 (nearSlack m e) a (numOfInt (if n then -sinFix (fixOf m e) else sinFix (fixOf m e)))
  | _ => nanOut

def fcosOf (a : Nat) : Nat :=
  match fp32.decode a with
  | .fin _ m e => if m = 0 then fp32.arith (.fin false 1 0) else irrationalValue 7 3 (nearSlack m e) a (numOfInt (cosFix (fixOf m e)))
  | _ => nanOut

def ftanhOf (a : Nat) : Nat :=
  match fp32.decode a with
  | .nan => nanOut
  | .inf n => fp32.arith (.fin n 1 0)
  | .fin n m e =>
    if m = 0 then zeroOf n
    else if 91 * 2 ^ fixScale ≤ 10 * fixOf m e then fp32.arith (.fin n 1 0)
    else
      let x := expOf (2 * fixOf m e : Nat)
      let big := x.1 * 2 ^ x.2.toNat
      irrationalValue 8 3 320 a (.fin n ((big - 2 ^ fixScale) * 2 ^ fixScale / (big + 2 ^ fixScale)) (-(fixScale : Int)))

def fsigmOf (a : Nat) : Nat :=
  match fp32.decode a with
  | .nan => nanOut
  | .inf n => if n then zeroOf false else fp32.arith (.fin false 1 0)
  | .fin n m e =>
    let one := 2 ^ fixScale
    let x := expOf (-(fixOf m e : Int))
    let small := x.1 / 2 ^ (-x.2).toNat
    if m = 0 then fp32.arith (.fin false 1 (-1))
    else if n then
      if 104 * one ≤ fixOf m e then fp32.arith (.fin false x.1 (x.2 - fixScale))
      else irrationalValue 9 3 200 a (.fin false (small * one / (one + small)) (-(fixScale : Int)))
    else -- the exact value is below 1 for every finite operand (R271)
      let v : Num := .fin false (min (one - 1) (one * one / (one + small))) (-(fixScale : Int))
      if 200 * one ≤ fixOf m e then boundedValue 9 3 0 a 0 v else irrationalValue 9 3 200 a v

/-! ## The instructions -/

/-- An element widened to FP32, computed, and rounded once to its own format (R336). -/
def specialElem (g : Nat → Nat → Nat) (f : FloatSpec) (a b _c : Nat) : Nat :=
  f.arith (fp32.decode (g (fp32.arith (f.decode a)) (fp32.arith (f.decode b))))

/-- FRCP (R336). -/
def execFrcp (pd : Pred) (w : FWidth) (t1 t0 : Target) (s : State) : Out :=
  fltWord (.frcp pd w t1 t0) w (specialElem fun a _ => frcpOf a) s

/-- FRSQ (R336). -/
def execFrsq (pd : Pred) (w : FWidth) (t1 t0 : Target) (s : State) : Out :=
  fltWord (.frsq pd w t1 t0) w (specialElem fun a _ => frsqOf a) s

/-- FSQRT (R336). -/
def execFsqrt (pd : Pred) (w : FWidth) (t1 t0 : Target) (s : State) : Out :=
  fltWord (.fsqrt pd w t1 t0) w (specialElem fun a _ => fsqrtOf a) s

/-- FDIV (R336). -/
def execFdiv (pd : Pred) (w : FWidth) (t1 t0 : Target) (s : State) : Out :=
  fltWord (.fdiv pd w t1 t0) w (specialElem fdivOf) s

/-- FEXP2 (R336). -/
def execFexp2 (pd : Pred) (w : FWidth) (t1 t0 : Target) (s : State) : Out :=
  fltWord (.fexp2 pd w t1 t0) w (specialElem fun a _ => fexp2Of a) s

/-- FLOG2 (R336). -/
def execFlog2 (pd : Pred) (w : FWidth) (t1 t0 : Target) (s : State) : Out :=
  fltWord (.flog2 pd w t1 t0) w (specialElem fun a _ => flog2Of a) s

/-- FSIN (R336). -/
def execFsin (pd : Pred) (w : FWidth) (t1 t0 : Target) (s : State) : Out :=
  fltWord (.fsin pd w t1 t0) w (specialElem fun a _ => fsinOf a) s

/-- FCOS (R336). -/
def execFcos (pd : Pred) (w : FWidth) (t1 t0 : Target) (s : State) : Out :=
  fltWord (.fcos pd w t1 t0) w (specialElem fun a _ => fcosOf a) s

/-- FTANH (R336). -/
def execFtanh (pd : Pred) (w : FWidth) (t1 t0 : Target) (s : State) : Out :=
  fltWord (.ftanh pd w t1 t0) w (specialElem fun a _ => ftanhOf a) s

/-- FSIGM (R336). -/
def execFsigm (pd : Pred) (w : FWidth) (t1 t0 : Target) (s : State) : Out :=
  fltWord (.fsigm pd w t1 t0) w (specialElem fun a _ => fsigmOf a) s

end Sys2Proof.Machine
end

