-- ==== Sys2Proof/Machine/Dispatch.lean ====
section
/-!
DEFINITION. One arm for each instruction and device move of the opcode table (R283, R404): each calls its meaning.
-/

namespace Sys2Proof.Machine

def exec (i : Instr) (s : State) : Host.Outcome State Fault Refusal :=
      match i with
      | .mov pd t1 t0 => Sys2Proof.Machine.execMov pd t1 t0 s
      | .steer t1 t0 => Sys2Proof.Machine.execSteer t1 t0 s
      | .merge t1 t0 => Sys2Proof.Machine.execMerge t1 t0 s
      | .carry t1 t0 => Sys2Proof.Machine.execCarry t1 t0 s
      | .invar t1 t0 => Sys2Proof.Machine.execInvar t1 t0 s
      | .gate pd t1 t0 => Sys2Proof.Machine.execGate pd t1 t0 s
      | .sink pd => Sys2Proof.Machine.execSink pd s
      | .punct pd eq level t1 t0 => Sys2Proof.Machine.execPunct pd eq level t1 t0 s
      | .setpn pd max level t1 t0 => Sys2Proof.Machine.execSetpn pd max level t1 t0 s
      | .strip pd what t1 t0 => Sys2Proof.Machine.execStrip pd what t1 t0 s
      | .const imm t0 => Sys2Proof.Machine.execConst imm t0 s
      | .lit index t0 => Sys2Proof.Machine.execLit index t0 s
      | .add pd sat w t1 t0 => Sys2Proof.Machine.execAdd pd sat w t1 t0 s
      | .sub pd sat w t1 t0 => Sys2Proof.Machine.execSub pd sat w t1 t0 s
      | .addi pd imm t0 => Sys2Proof.Machine.execAddi pd imm t0 s
      | .mul pd sat w t1 t0 => Sys2Proof.Machine.execMul pd sat w t1 t0 s
      | .mulhs pd w t1 t0 => Sys2Proof.Machine.execMulhs pd w t1 t0 s
      | .mulhu pd w t1 t0 => Sys2Proof.Machine.execMulhu pd w t1 t0 s
      | .mad pd sat w t1 t0 => Sys2Proof.Machine.execMad pd sat w t1 t0 s
      | .neg pd sats w t1 t0 => Sys2Proof.Machine.execNeg pd sats w t1 t0 s
      | .abs pd sats w t1 t0 => Sys2Proof.Machine.execAbs pd sats w t1 t0 s
      | .mins pd w t1 t0 => Sys2Proof.Machine.execMins pd w t1 t0 s
      | .minu pd w t1 t0 => Sys2Proof.Machine.execMinu pd w t1 t0 s
      | .maxs pd w t1 t0 => Sys2Proof.Machine.execMaxs pd w t1 t0 s
      | .maxu pd w t1 t0 => Sys2Proof.Machine.execMaxu pd w t1 t0 s
      | .divs pd wide t1 t0 => Sys2Proof.Machine.execDivs pd wide t1 t0 s
      | .divu pd wide t1 t0 => Sys2Proof.Machine.execDivu pd wide t1 t0 s
      | .remu pd wide t1 t0 => Sys2Proof.Machine.execRemu pd wide t1 t0 s
      | .and pd w t1 t0 => Sys2Proof.Machine.execAnd pd w t1 t0 s
      | .or pd w t1 t0 => Sys2Proof.Machine.execOr pd w t1 t0 s
      | .xor pd w t1 t0 => Sys2Proof.Machine.execXor pd w t1 t0 s
      | .andn pd w t1 t0 => Sys2Proof.Machine.execAndn pd w t1 t0 s
      | .not pd w t1 t0 => Sys2Proof.Machine.execNot pd w t1 t0 s
      | .shl pd w t1 t0 => Sys2Proof.Machine.execShl pd w t1 t0 s
      | .shr pd w t1 t0 => Sys2Proof.Machine.execShr pd w t1 t0 s
      | .sar pd w t1 t0 => Sys2Proof.Machine.execSar pd w t1 t0 s
      | .rol pd w t1 t0 => Sys2Proof.Machine.execRol pd w t1 t0 s
      | .shli pd imm t0 => Sys2Proof.Machine.execShli pd imm t0 s
      | .shri pd imm t0 => Sys2Proof.Machine.execShri pd imm t0 s
      | .sari pd imm t0 => Sys2Proof.Machine.execSari pd imm t0 s
      | .clz pd w t1 t0 => Sys2Proof.Machine.execClz pd w t1 t0 s
      | .popc pd w t1 t0 => Sys2Proof.Machine.execPopc pd w t1 t0 s
      | .bfx pd wide t1 t0 => Sys2Proof.Machine.execBfx pd wide t1 t0 s
      | .bfi pd wide t1 t0 => Sys2Proof.Machine.execBfi pd wide t1 t0 s
      | .cmpeq pd w t1 t0 => Sys2Proof.Machine.execCmpeq pd w t1 t0 s
      | .cmpne pd w t1 t0 => Sys2Proof.Machine.execCmpne pd w t1 t0 s
      | .cmplt pd w t1 t0 => Sys2Proof.Machine.execCmplt pd w t1 t0 s
      | .cmple pd w t1 t0 => Sys2Proof.Machine.execCmple pd w t1 t0 s
      | .cmpltu pd w t1 t0 => Sys2Proof.Machine.execCmpltu pd w t1 t0 s
      | .cmpleu pd w t1 t0 => Sys2Proof.Machine.execCmpleu pd w t1 t0 s
      | .cmpeqi pd imm t0 => Sys2Proof.Machine.execCmpeqi pd imm t0 s
      | .cmplti pd imm t0 => Sys2Proof.Machine.execCmplti pd imm t0 s
      | .fcmpeq pd w t1 t0 => Sys2Proof.Machine.execFcmpeq pd w t1 t0 s
      | .fcmplt pd w t1 t0 => Sys2Proof.Machine.execFcmplt pd w t1 t0 s
      | .fcmple pd w t1 t0 => Sys2Proof.Machine.execFcmple pd w t1 t0 s
      | .fcmpun pd w t1 t0 => Sys2Proof.Machine.execFcmpun pd w t1 t0 s
      | .sel pd w t1 t0 => Sys2Proof.Machine.execSel pd w t1 t0 s
      | .pand pd w t1 t0 => Sys2Proof.Machine.execPand pd w t1 t0 s
      | .por pd w t1 t0 => Sys2Proof.Machine.execPor pd w t1 t0 s
      | .pnot pd w t1 t0 => Sys2Proof.Machine.execPnot pd w t1 t0 s
      | .fadd pd w t1 t0 => Sys2Proof.Machine.execFadd pd w t1 t0 s
      | .fsub pd w t1 t0 => Sys2Proof.Machine.execFsub pd w t1 t0 s
      | .fmul pd w t1 t0 => Sys2Proof.Machine.execFmul pd w t1 t0 s
      | .fma pd w t1 t0 => Sys2Proof.Machine.execFma pd w t1 t0 s
      | .fms pd w t1 t0 => Sys2Proof.Machine.execFms pd w t1 t0 s
      | .fnma pd w t1 t0 => Sys2Proof.Machine.execFnma pd w t1 t0 s
      | .fmin pd w t1 t0 => Sys2Proof.Machine.execFmin pd w t1 t0 s
      | .fmax pd w t1 t0 => Sys2Proof.Machine.execFmax pd w t1 t0 s
      | .fabs pd w t1 t0 => Sys2Proof.Machine.execFabs pd w t1 t0 s
      | .fneg pd w t1 t0 => Sys2Proof.Machine.execFneg pd w t1 t0 s
      | .fcpys pd w t1 t0 => Sys2Proof.Machine.execFcpys pd w t1 t0 s
      | .frint pd mode w t1 t0 => Sys2Proof.Machine.execFrint pd mode w t1 t0 s
      | .fscl pd w t1 t0 => Sys2Proof.Machine.execFscl pd w t1 t0 s
      | .frcp pd w t1 t0 => Sys2Proof.Machine.execFrcp pd w t1 t0 s
      | .frsq pd w t1 t0 => Sys2Proof.Machine.execFrsq pd w t1 t0 s
      | .fsqrt pd w t1 t0 => Sys2Proof.Machine.execFsqrt pd w t1 t0 s
      | .fdiv pd w t1 t0 => Sys2Proof.Machine.execFdiv pd w t1 t0 s
      | .fexp2 pd w t1 t0 => Sys2Proof.Machine.execFexp2 pd w t1 t0 s
      | .flog2 pd w t1 t0 => Sys2Proof.Machine.execFlog2 pd w t1 t0 s
      | .fsin pd w t1 t0 => Sys2Proof.Machine.execFsin pd w t1 t0 s
      | .fcos pd w t1 t0 => Sys2Proof.Machine.execFcos pd w t1 t0 s
      | .ftanh pd w t1 t0 => Sys2Proof.Machine.execFtanh pd w t1 t0 s
      | .fsigm pd w t1 t0 => Sys2Proof.Machine.execFsigm pd w t1 t0 s
      | .cvt pd dst t1 t0 => Sys2Proof.Machine.execCvt pd dst t1 t0 s
      | .cvtT pd t1 t0 => Sys2Proof.Machine.execCvtT pd t1 t0 s
      | .cvtfi pd mode w t1 t0 => Sys2Proof.Machine.execCvtfi pd mode w t1 t0 s
      | .cvtif pd uns w t1 t0 => Sys2Proof.Machine.execCvtif pd uns w t1 t0 s
      | .qblk pd dst t1 t0 => Sys2Proof.Machine.execQblk pd dst t1 t0 s
      | .scale pd part w t1 t0 => Sys2Proof.Machine.execScale pd part w t1 t0 s
      | .srseed pd => Sys2Proof.Machine.execSrseed pd s
      | .shuf pd t1 t0 => Sys2Proof.Machine.execShuf pd t1 t0 s
      | .bcast pd t1 t0 => Sys2Proof.Machine.execBcast pd t1 t0 s
      | .lrot pd t1 t0 => Sys2Proof.Machine.execLrot pd t1 t0 s
      | .redadd pd fmt t1 t0 => Sys2Proof.Machine.execRedadd pd fmt t1 t0 s
      | .redmax pd fmt t1 t0 => Sys2Proof.Machine.execRedmax pd fmt t1 t0 s
      | .redmin pd fmt t1 t0 => Sys2Proof.Machine.execRedmin pd fmt t1 t0 s
      | .scanadd pd fmt t1 t0 => Sys2Proof.Machine.execScanadd pd fmt t1 t0 s
      | .pack pd sat from16 t1 t0 => Sys2Proof.Machine.execPack pd sat from16 t1 t0 s
      | .unpack pd hi sx from8 t1 t0 => Sys2Proof.Machine.execUnpack pd hi sx from8 t1 t0 s
      | .valid pd t1 t0 => Sys2Proof.Machine.execValid pd t1 t0 s
      | .vmask pd form t1 t0 => Sys2Proof.Machine.execVmask pd form t1 t0 s
      | .compact pd t1 t0 => Sys2Proof.Machine.execCompact pd t1 t0 s
      | .expand pd t1 t0 => Sys2Proof.Machine.execExpand pd t1 t0 s
      | .any pd t1 t0 => Sys2Proof.Machine.execAny pd t1 t0 s
      | .all pd t1 t0 => Sys2Proof.Machine.execAll pd t1 t0 s
      | .lext pd form t1 t0 => Sys2Proof.Machine.execLext pd form t1 t0 s
      | .mma pd fmt t1 t0 => Sys2Proof.Machine.execMma pd fmt t1 t0 s
      | .mmat pd fmt t1 t0 => Sys2Proof.Machine.execMmat pd fmt t1 t0 s
      | .mzero pd bank => Sys2Proof.Machine.execMzero pd bank s
      | .mdrain pd bank clear t1 t0 => Sys2Proof.Machine.execMdrain pd bank clear t1 t0 s
      | .mload pd bank => Sys2Proof.Machine.execMload pd bank s
      | .mswap pd => Sys2Proof.Machine.execMswap pd s
      | .mscale pd => Sys2Proof.Machine.execMscale pd s
      | .mwaddr pd bank => Sys2Proof.Machine.execMwaddr pd bank s
      | .out pd port chan => Sys2Proof.Machine.execOut pd port chan s
      | .crd reg t1 t0 => Sys2Proof.Machine.execCrd reg t1 t0 s
      | .cwr reg t1 t0 => Sys2Proof.Machine.execCwr reg t1 t0 s
      | .prd reg t1 t0 => Sys2Proof.Machine.execPrd reg t1 t0 s
      | .pwr reg t1 t0 => Sys2Proof.Machine.execPwr reg t1 t0 s
      | .fbits pd k t1 t0 => Sys2Proof.Machine.execFbits pd k t1 t0 s
      | .fget pd k t1 t0 => Sys2Proof.Machine.execFget pd k t1 t0 s
      | .br pd offset => Sys2Proof.Machine.execBr pd offset s
      | .call pd offset => Sys2Proof.Machine.execCall pd offset s
      | .ret pd => Sys2Proof.Machine.execRet pd s
      | .read reg t1 t0 => Sys2Proof.Machine.execRead reg t1 t0 s
      | .readv reg t1 t0 => Sys2Proof.Machine.execReadv reg t1 t0 s
      | .write reg => Sys2Proof.Machine.execWrite reg s
      | .yield pd entry => Sys2Proof.Machine.execYield pd entry s
      | .fork pd handle sn m => Sys2Proof.Machine.execFork pd handle sn m s
      | .rdv pd handle t0 => Sys2Proof.Machine.execRdv pd handle t0 s
      | .trap pd code => Sys2Proof.Machine.execTrap pd code s
      | .eret pd => Sys2Proof.Machine.execEret pd s
      | .brk pd code => Sys2Proof.Machine.execBrk pd code s
      | .wait pd cycles t0 => Sys2Proof.Machine.execWait pd cycles t0 s
      | .done pd => Sys2Proof.Machine.execDone pd s
      | .ld8 pd sp sn m t0 => Sys2Proof.Machine.execLd8 pd sp sn m t0 s
      | .ld16 pd sp sn m t0 => Sys2Proof.Machine.execLd16 pd sp sn m t0 s
      | .ld32 pd sp sn m t0 => Sys2Proof.Machine.execLd32 pd sp sn m t0 s
      | .ld64 pd sp sn m t0 => Sys2Proof.Machine.execLd64 pd sp sn m t0 s
      | .ldt pd sp sn m t0 => Sys2Proof.Machine.execLdt pd sp sn m t0 s
      | .ldx64 pd sp sn m t0 => Sys2Proof.Machine.execLdx64 pd sp sn m t0 s
      | .st8 pd sp sn m => Sys2Proof.Machine.execSt8 pd sp sn m s
      | .st16 pd sp sn m => Sys2Proof.Machine.execSt16 pd sp sn m s
      | .st32 pd sp sn m => Sys2Proof.Machine.execSt32 pd sp sn m s
      | .st64 pd sp sn m => Sys2Proof.Machine.execSt64 pd sp sn m s
      | .stt pd sp sn m => Sys2Proof.Machine.execStt pd sp sn m s
      | .pref pd sn m => Sys2Proof.Machine.execPref pd sn m s
      | .aadd pd sp sn m t0 => Sys2Proof.Machine.execAadd pd sp sn m t0 s
      | .amin pd sp sn m t0 => Sys2Proof.Machine.execAmin pd sp sn m t0 s
      | .amax pd sp sn m t0 => Sys2Proof.Machine.execAmax pd sp sn m t0 s
      | .aminu pd sp sn m t0 => Sys2Proof.Machine.execAminu pd sp sn m t0 s
      | .amaxu pd sp sn m t0 => Sys2Proof.Machine.execAmaxu pd sp sn m t0 s
      | .aand pd sp sn m t0 => Sys2Proof.Machine.execAand pd sp sn m t0 s
      | .aor pd sp sn m t0 => Sys2Proof.Machine.execAor pd sp sn m t0 s
      | .axor pd sp sn m t0 => Sys2Proof.Machine.execAxor pd sp sn m t0 s
      | .axchg pd sp sn m t0 => Sys2Proof.Machine.execAxchg pd sp sn m t0 s
      | .acas pd sp sn m t0 => Sys2Proof.Machine.execAcas pd sp sn m t0 s
      | .afadd pd sp sn m t0 => Sys2Proof.Machine.execAfadd pd sp sn m t0 s
      | .afmax pd sp sn m t0 => Sys2Proof.Machine.execAfmax pd sp sn m t0 s
      | .kinit pd sn m => Sys2Proof.Machine.execKinit pd sn m s
      | .kadd pd sn m => Sys2Proof.Machine.execKadd pd sn m s
      | .kwait pd trapErr sn m t0 => Sys2Proof.Machine.execKwait pd trapErr sn m t0 s
      | .ktry pd trapErr sn m t0 => Sys2Proof.Machine.execKtry pd trapErr sn m t0 s
      | .kread pd sn m t0 => Sys2Proof.Machine.execKread pd sn m t0 s
      | .lzresv pd sn m t0 => Sys2Proof.Machine.execLzresv pd sn m t0 s
      | .lzresvDeclare pd sn m => Sys2Proof.Machine.execLzresvDeclare pd sn m s
      | .lzrel pd sn m => Sys2Proof.Machine.execLzrel pd sn m s
      | .lzrelRetire pd sn m => Sys2Proof.Machine.execLzrelRetire pd sn m s
      | .lzstat pd sn m t0 => Sys2Proof.Machine.execLzstat pd sn m t0 s
      | .lzstatZone pd sn m t0 => Sys2Proof.Machine.execLzstatZone pd sn m t0 s
      | .enq pd sn m t0 => Sys2Proof.Machine.execEnq pd sn m t0 s
      | .ingr pd sn m t0 => Sys2Proof.Machine.execIngr pd sn m t0 s
      | .egr pd sn m => Sys2Proof.Machine.execEgr pd sn m s
      | .sysr pd index t0 => Sys2Proof.Machine.execSysr pd index t0 s
      | .sysw pd index => Sys2Proof.Machine.execSysw pd index s
      | .gtime pd t0 => Sys2Proof.Machine.execGtime pd t0 s
      | .feat pd sel t0 => Sys2Proof.Machine.execFeat pd sel t0 s
      | .perf pd counter t0 => Sys2Proof.Machine.execPerf pd counter t0 s
      | .tlbinv pd sn m => Sys2Proof.Machine.execTlbinv pd sn m s
      | .ingressWrite off data => Sys2Proof.Machine.execIngressWrite off data s
      | .cxlMemRead pa n => Sys2Proof.Machine.execCxlMemRead pa n s
      | .cxlMemWrite pa data => Sys2Proof.Machine.execCxlMemWrite pa data s
      | .egqConfigWrite q reg v => Sys2Proof.Machine.execEgqConfigWrite q reg v s
      | .egqConsWrite q v => Sys2Proof.Machine.execEgqConsWrite q v s
      | .egressRecordVisible q => Sys2Proof.Machine.execEgressRecordVisible q s
      | .registerWrite off v => Sys2Proof.Machine.execRegisterWrite off v s
      | .keySlotWrite k off v => Sys2Proof.Machine.execKeySlotWrite k off v s
      | .fuseSvnWrite v => Sys2Proof.Machine.execFuseSvnWrite v s
      | .attestGo => Sys2Proof.Machine.execAttestGo s
      | .attestDone => Sys2Proof.Machine.execAttestDone s
      | .captureEnable on => Sys2Proof.Machine.execCaptureEnable on s
      | .replayGo c => Sys2Proof.Machine.execReplayGo c s
      | .replayRecord => Sys2Proof.Machine.execReplayRecord s
      | .contextEnable c => Sys2Proof.Machine.execContextEnable c s
      | .contextTeardown c => Sys2Proof.Machine.execContextTeardown c s
      | .teardownComplete c => Sys2Proof.Machine.execTeardownComplete c s
      | .ctxConfigWrite c f v => Sys2Proof.Machine.execCtxConfigWrite c f v s
      | .ctxTouchedWrite c v => Sys2Proof.Machine.execCtxTouchedWrite c v s
      | .taskQueueConfig c q reg v => Sys2Proof.Machine.execTaskQueueConfig c q reg v s
      | .shootdownGo c => Sys2Proof.Machine.execShootdownGo c s
      | .shootdownPoint r c => Sys2Proof.Machine.execShootdownPoint r c s
      | .resumeGo c => Sys2Proof.Machine.execResumeGo c s
      | .circuitRequest n v => Sys2Proof.Machine.execCircuitRequest n v s
      | .circuitTeardown w => Sys2Proof.Machine.execCircuitTeardown w s
      | .tuningComplete n => Sys2Proof.Machine.execTuningComplete n s
      | .tuningFail n => Sys2Proof.Machine.execTuningFail n s
      | .circuitDrained n => Sys2Proof.Machine.execCircuitDrained n s
      | .circuitFault n => Sys2Proof.Machine.execCircuitFault n s
      | .dieCoreReset d => Sys2Proof.Machine.execDieCoreReset d s
      | .dieUncoreReset d => Sys2Proof.Machine.execDieUncoreReset d s
      | .coreResetDone d => Sys2Proof.Machine.execCoreResetDone d s
      | .uncoreResetDone d verified => Sys2Proof.Machine.execUncoreResetDone d verified s
      | .flitReceive p f bad => Sys2Proof.Machine.execFlitReceive p f bad s
      | .wavelengthFail p w => Sys2Proof.Machine.execWavelengthFail p w s
      | .portNarrowDone p => Sys2Proof.Machine.execPortNarrowDone p s
      | .portLostNotice chip p => Sys2Proof.Machine.execPortLostNotice chip p s
      | .ptpSync p seq arrived => Sys2Proof.Machine.execPtpSync p seq arrived s
      | .ptpFollowUp p seq origin correction => Sys2Proof.Machine.execPtpFollowUp p seq origin correction s
      | .ptpPdelayReq p seq arrived => Sys2Proof.Machine.execPtpPdelayReq p seq arrived s
      | .ptpPdelayResp p seq requestArrived arrived => Sys2Proof.Machine.execPtpPdelayResp p seq requestArrived arrived s
      | .ptpPdelayRespFollowUp p seq responseSent => Sys2Proof.Machine.execPtpPdelayRespFollowUp p seq responseSent s
      | .announce p exponent => Sys2Proof.Machine.execAnnounce p exponent s
      | .windowBoundary d => Sys2Proof.Machine.execWindowBoundary d s
      | .sealReceive path vc window => Sys2Proof.Machine.execSealReceive path vc window s
      | .sealLate path => Sys2Proof.Machine.execSealLate path s
      | .lateSealNotice path window => Sys2Proof.Machine.execLateSealNotice path window s
      | .sealTimeout path => Sys2Proof.Machine.execSealTimeout path s
      | .visibilityAck r op refused => Sys2Proof.Machine.execVisibilityAck r op refused s
      | .orderModeWrite v => Sys2Proof.Machine.execOrderModeWrite v s
      | .flushMarkerReceive path => Sys2Proof.Machine.execFlushMarkerReceive path s
      | .orderModeSwitch => Sys2Proof.Machine.execOrderModeSwitch s
      | .groundWindowWrite v => Sys2Proof.Machine.execGroundWindowWrite v s
      | .pstateCommand r v => Sys2Proof.Machine.execPstateCommand r v s
      | .pstateTransitionDone r => Sys2Proof.Machine.execPstateTransitionDone r s
      | .ceilWrite v => Sys2Proof.Machine.execCeilWrite v s
      | .powerMeasure watts => Sys2Proof.Machine.execPowerMeasure watts s
      | .dutyRelief => Sys2Proof.Machine.execDutyRelief s
      | .diePark d => Sys2Proof.Machine.execDiePark d s
      | .dieUnpark d => Sys2Proof.Machine.execDieUnpark d s
      | .parkDone d => Sys2Proof.Machine.execParkDone d s
      | .unparkDone d => Sys2Proof.Machine.execUnparkDone d s
      | .thermAllowUpdate d ringTj tj hbm => Sys2Proof.Machine.execThermAllowUpdate d ringTj tj hbm s
      | .hbmRefreshDouble d hbm => Sys2Proof.Machine.execHbmRefreshDouble d hbm s
      | .hbmRefreshNormal d hbm => Sys2Proof.Machine.execHbmRefreshNormal d hbm s
      | .refreshHoldEnd d => Sys2Proof.Machine.execRefreshHoldEnd d s
      | .thermalStop d tj hbm => Sys2Proof.Machine.execThermalStop d tj hbm s
      | .tstopClear d => Sys2Proof.Machine.execTstopClear d s
      | .powerGood => Sys2Proof.Machine.execPowerGood s
      | .bootPhaseDone passed w => Sys2Proof.Machine.execBootPhaseDone passed w s
      | .dieAuthTimeout d => Sys2Proof.Machine.execDieAuthTimeout d s
      | .launchConsume c q => Sys2Proof.Machine.execLaunchConsume c q s
      | .placement d => Sys2Proof.Machine.execPlacement d s
      | .prefetchComplete r j => Sys2Proof.Machine.execPrefetchComplete r j s
      | .taskStart r => Sys2Proof.Machine.execTaskStart r s
      | .recordComplete c record => Sys2Proof.Machine.execRecordComplete c record s
      | .priorityAging c record => Sys2Proof.Machine.execPriorityAging c record s
      | .migration r => Sys2Proof.Machine.execMigration r s
      | .gangStart r => Sys2Proof.Machine.execGangStart r s
      | .heartbeatTimeout d => Sys2Proof.Machine.execHeartbeatTimeout d s
      | .machineCheck site => Sys2Proof.Machine.execMachineCheck site s
      | .sliceEnd r => Sys2Proof.Machine.execSliceEnd r s
      | .forcedSave r => Sys2Proof.Machine.execForcedSave r s
      | .yieldSave r => Sys2Proof.Machine.execYieldSave r s
      | .saveComplete r => Sys2Proof.Machine.execSaveComplete r s
      | .restore r c => Sys2Proof.Machine.execRestore r c s
      | .eyeletRetry r kind => Sys2Proof.Machine.execEyeletRetry r kind s
      | .haltNotice gang => Sys2Proof.Machine.execHaltNotice gang s
      | .containedRecovery c => Sys2Proof.Machine.execContainedRecovery c s
      | .scrub sector health since => Sys2Proof.Machine.execScrub sector health since s
      | .blockFetch r => Sys2Proof.Machine.execBlockFetch r s
      | .blockCommit r => Sys2Proof.Machine.execBlockCommit r s
      | .deferredValueLand r reg => Sys2Proof.Machine.execDeferredValueLand r reg s
      | .ingrTake r op => Sys2Proof.Machine.execIngrTake r op s
      | .forkAccept r op => Sys2Proof.Machine.execForkAccept r op s
      | .forkComplete r h => Sys2Proof.Machine.execForkComplete r h s
      | .tokenInlet r p j port => Sys2Proof.Machine.execTokenInlet r p j port s
      | .multicastTake r port => Sys2Proof.Machine.execMulticastTake r port s
      | .runEnd r p => Sys2Proof.Machine.execRunEnd r p s
      | .reconfigure r => Sys2Proof.Machine.execReconfigure r s
      | .shadowFillStart r p => Sys2Proof.Machine.execShadowFillStart r p s
      | .shadowFillDone r p => Sys2Proof.Machine.execShadowFillDone r p s
      | .shadowDrainDone r p => Sys2Proof.Machine.execShadowDrainDone r p s
      | .markerHandle r p => Sys2Proof.Machine.execMarkerHandle r p s
      | .rollbackRestart r => Sys2Proof.Machine.execRollbackRestart r s
      | .fabricFinish r => Sys2Proof.Machine.execFabricFinish r s
      | .fabricStall r => Sys2Proof.Machine.execFabricStall r s
      | .walkerToken r port => Sys2Proof.Machine.execWalkerToken r port s
      | .periodMarker r => Sys2Proof.Machine.execPeriodMarker r s
      | .walkerWrite r port => Sys2Proof.Machine.execWalkerWrite r port s
      | .walkerComplete r dir port => Sys2Proof.Machine.execWalkerComplete r dir port s
      | .shuttleStart r op => Sys2Proof.Machine.execShuttleStart r op s
      | .shuttleCommandRead r ch => Sys2Proof.Machine.execShuttleCommandRead r ch s
      | .shuttleBeat r ch => Sys2Proof.Machine.execShuttleBeat r ch s
      | .shuttleCommandComplete r ch => Sys2Proof.Machine.execShuttleCommandComplete r ch s
      | .copyComplete r ch => Sys2Proof.Machine.execCopyComplete r ch s
      | .reservationRequest r req => Sys2Proof.Machine.execReservationRequest r req s
      | .reservationResult r op res => Sys2Proof.Machine.execReservationResult r op res s
      | .eyeletBeat r beat => Sys2Proof.Machine.execEyeletBeat r beat s
      | .checksumVerdict r verdict => Sys2Proof.Machine.execChecksumVerdict r verdict s
      | .reservationTimeout r zone slot => Sys2Proof.Machine.execReservationTimeout r zone slot s
      | .pipeEnter r op => Sys2Proof.Machine.execPipeEnter r op s
      | .operationPerform r op => Sys2Proof.Machine.execOperationPerform r op s
      | .strandErrorTimeout r op => Sys2Proof.Machine.execStrandErrorTimeout r op s
      | .translationWalkDone r miss => Sys2Proof.Machine.execTranslationWalkDone r miss s
      | .bypassForward r p j => Sys2Proof.Machine.execBypassForward r p j s
      | .snapshotWritten r p => Sys2Proof.Machine.execSnapshotWritten r p s
      | .portDirectFeed r port => Sys2Proof.Machine.execPortDirectFeed r port s

end Sys2Proof.Machine
end

