-- ==== Sys2Proof/Machine/Schedule.lean ====
section
/-!
DEFINITION. The schedule (log 1): what a turn does, and the turn that a machine with nothing on its agenda takes. The spec gives no
order among its units; an agenda names any order at all, and `State.auto` is one of them.
-/

namespace Sys2Proof.Machine

/-- The instruction at an index of a unit that may fire now (R182, R299). -/
def State.wordOf (s : State) (u : UnitId) (k : Nat) : Option Instr := (s.view u).bind fun v => wordAt v.words k

/-- A turn: a move of the device, or the firing of a word of a unit. A Hexek word is no move: it fires where a block holds it. -/
def State.turn (s : State) (t : Turn) : Out :=
  match t with
  | .move i => if i.domain.isSome then .fault .nothingThere else exec i s
  | .fire u k =>
    match s.wordOf u k with
    | some i => exec i { s with focus := u, focusIdx := k }
    | none => .fault .nothingThere

/-! ## The moves that may be due (log 1) -/

/-- A move that may be due, as its meaning. -/
abbrev Move := State → Out


/-- Moves of an operation that has issued. -/
def Op.moves (r : RingId) (o : Op) : List Move :=
  [execPipeEnter r o.id, execOperationPerform r o.id, execStrandErrorTimeout r o.id] ++
    (match o.stage with | .flushing | .landed => [execVisibilityAck r o.id ⟨0, none⟩] | _ => []) ++
    (match o.work with
    | .ingr .. => [execIngrTake r o.id]
    | .fork .. => [execForkAccept r o.id]
    | .aperture .. => [execShuttleStart r o.id]
    | _ => [])

/-- Moves of a ring's fabric and its stripes. -/
def Fabric.moves (r : RingId) (f : Fabric) : List Move :=
  [execReconfigure r, execRollbackRestart r, execFabricFinish r] ++
    ((List.finRange 16).filter (·.val < f.p)).flatMap fun p =>
      [execRunEnd r p, execMarkerHandle r p, execSnapshotWritten r p, execShadowFillStart r p, execShadowFillDone r p, execShadowDrainDone r p] ++
        (List.finRange 32).flatMap fun j =>
          [execBypassForward r p j, execTokenInlet r p j .up, execTokenInlet r p j .left, execTokenInlet r p j .right, execTokenInlet r p j .edge]

/-- Firings of a ring's sequencer and cells: the first word that is ready (R179, R299). -/
def State.fires (s : State) (r : RingId) : List Move :=
  let cells : List UnitId :=
    match s.fabric r with
    | some f => ((List.finRange 16).filter (·.val < f.p)).flatMap fun p => (List.finRange 32).map fun j => .cell r p j
    | none => []
  (UnitId.seq r :: cells).filterMap fun u => (s.firstReady u).map fun k s => s.turn (.fire u k)

/-- Moves of a ring's walkers, ports and shuttles. -/
def Engines.moves (r : RingId) (e : Engines) : List Move :=
  ((List.finRange 8).flatMap fun p =>
    (if (e.inPorts.look p.val).isSome || (e.inWalkers.look p.val).isSome then
      [execWalkerToken r p, execMulticastTake r p, execPortDirectFeed r p, execWalkerComplete r .inbound p] else []) ++
    (if (e.outPorts.look p.val).isSome || (e.outWalkers.look p.val).isSome then
      [execWalkerWrite r p, execWalkerComplete r .outbound p] else [])) ++
  (List.finRange 16).flatMap fun ch =>
    if (e.chans.look ch.val).isSome then [execShuttleCommandRead r ch, execShuttleBeat r ch, execShuttleCommandComplete r ch, execCopyComplete r ch] else []

/-- Moves of a ring. -/
def State.ringMoves (s : State) (r : RingId) : List Move :=
  let x := s.ring r
  [execBlockFetch r, execBlockCommit r, execPeriodMarker r, execFabricStall r, execTaskStart r, execGangStart r, execMigration r, execSliceEnd r, execForcedSave r, execYieldSave r,
    execSaveComplete r, execPstateTransitionDone r, execEyeletRetry r .request, execEyeletRetry r .beat,
    execEyeletRetry r .verdict] ++
  (List.range x.misses.length).map (fun n => execTranslationWalkDone r n) ++
  x.seqr.landing.map (fun e => execDeferredValueLand r (BitVec.ofNat 6 e.1)) ++
  x.seqr.ops.flatMap (Op.moves r) ++
  (List.finRange 4).flatMap (fun j => [execPrefetchComplete r j, execForkComplete r j]) ++
  (match x.eng.fabric with | some f => f.moves r | none => []) ++ x.eng.moves r ++
  (match x.staged with | some g => [execRestore r g.task.ctx] | none => []) ++
  ((List.finRange 16).filter fun z => (x.zones.look z.val).isSome).flatMap fun z => (List.finRange 64).map fun n => execReservationTimeout r z n

/-- Moves of a context. -/
def State.ctxMoves (s : State) (c : CtxId) : List Move :=
  let x := s.ctx c
  (if x.enable then (List.finRange 4).map (fun q => execLaunchConsume c q) else []) ++ [execTeardownComplete c, execContainedRecovery c, execEgressRecordVisible (.ctx c)] ++
    x.table.flatMap (fun p => [execRecordComplete c p.key, execPriorityAging c p.key]) ++ x.shootRings.map fun r => execShootdownPoint r c

/-- Moves of a die. -/
def State.dieMoves (s : State) (d : DieId) : List Move :=
  [execPlacement d, execWindowBoundary d, execParkDone d, execUnparkDone d, execCoreResetDone d, execUncoreResetDone d true] ++
    (if (s.die d).hold then [execRefreshHoldEnd d] else [])

/-- Moves of a pipe between two dies of the device. -/
def Pipe.moves (x : Pipe) : List Move :=
  (if (pathDie? x.path.src).isSome then [execFlushMarkerReceive x.path] else []) ++
    (if (pathDie? x.path.src).isSome && (pathDie? x.path.dst).isSome then
      [execSealLate x.path, execSealTimeout x.path] ++
        (if x.sent = 0 then [] else [0, 1, 3].map fun vc => execSealReceive x.path vc (x.sent - 1)) ++ x.late.map fun e => execLateSealNotice x.path e.1
    else [])

/-- What stands at a ring's eyelets. -/
def Msg.move : Msg → List Move
  | .beat dst b => [execEyeletBeat dst ⟨0, b⟩]
  | .verdict dst v => [execChecksumVerdict dst ⟨0, v⟩]
  | .request dst q => [execReservationRequest dst ⟨0, q⟩]
  | _ => []

/-- Moves of the package. In bring-up every die passes and no port has a peer (log 1). -/
def State.devMoves (s : State) : List Move :=
  (if s.dev.phase = 0 then [execPowerGood]
   else if s.dev.ready || s.dev.bootFail then []
   else [execBootPhaseDone 0xFF { share := 16, ports := [], routes := [] }]) ++
  [execAttestDone, execReplayRecord, execOrderModeSwitch, execDutyRelief, execEgressRecordVisible .dev] ++
  ((List.finRange 64).filter fun n => (s.dev.conns.look n.val).isSome).flatMap (fun n =>
    let x := s.conn n.val
    [execTuningComplete n, execCircuitDrained n] ++ if s.endFenced x.src || s.endFenced x.dst then [execTuningFail n] else []) ++
  s.dev.pipes.flatMap Pipe.moves ++ (s.dev.arrived.take 1).flatMap Msg.move ++
  (s.dev.answers.take 1).map (fun a => execReservationResult a.1 a.2.1 ⟨0, a.2.2⟩) ++ (s.dev.acks.take 1).map fun a => execVisibilityAck a.1 a.2.2 ⟨0, none⟩

/-- Every move that may be due. Before bring-up ends only the package moves (R67). -/
def State.candidates (s : State) : List Move :=
  s.devMoves ++
    (if s.dev.ready then
      (List.finRange 32).flatMap (fun r => s.fires r ++ s.ringMoves r) ++ (List.finRange 64).flatMap (fun c => s.ctxMoves c) ++
        (List.finRange 8).flatMap fun d => s.dieMoves d
    else [])

/-- The state that a move leads to, where it changes anything but the focus. -/
def State.changed (s : State) (m : Move) : Option State :=
  match m s with
  | .next u => if { u with focus := s.focus, focusIdx := s.focusIdx } = s then none else some u
  | _ => none

/-- A list begun at another place, so that no unit comes first for ever. -/
def turned {α : Type} (l : List α) (n : Nat) : List α := l.drop (n % l.length) ++ l.take (n % l.length)

/-- With nothing on the agenda a nanosecond passes, and the first turn that is due is taken. -/
def State.auto (s : State) : State :=
  let t := s.tick 1
  ((turned t.candidates t.gt.toNat).findSome? t.changed).getD t

end Sys2Proof.Machine
end

