-- ==== Sys2Proof/Machine/Step.lean ====
section
/-!
DEFINITION. One step of the machine (log 1): the next turn of the agenda, or with nothing on it the turn that is due; and how a word
is placed so that the next step fires it (log 8).
-/

namespace Sys2Proof.Machine

/-- One step. -/
def step (s : State) : Host.Outcome State Fault Refusal :=
  match s.agenda with
  | (dt, t) :: rest => ({ s with agenda := rest }.tick dt).turn t
  | [] => .next s.auto

/-! ## Placing a word (log 8) -/

/-- What stands in a slot of the placed word: a token where the word takes one there, a zero address in L, 1 elsewhere; a predicate that
lets the word act. -/
def placedVal (cell : Bool) (i : Instr) (q : Slot) : Val :=
  let tok : Val := .tok (Tok.splat 1 0)
  match q with
  | .p => .sc (if i.pd = .ifFalse then 0 else 1)
  | .l => match i with | .egr .. | .punct .. | .setpn .. | .strip .. | .any .. | .all .. | .lext .. => tok | _ => if cell then tok else .sc 0
  | .r => match i with | .stt .. => tok | _ => if cell then tok else .sc 1
  | .t => if cell then tok else .sc 1

/-- The slots of the placed word, all filled. -/
def placedNode (cell : Bool) (i : Instr) : Node :=
  { l := some { v := placedVal cell i .l }, r := some { v := placedVal cell i .r }, p := some { v := placedVal cell i .p },
    t := some { v := placedVal cell i .t } }

/-- A task whose blocks ring 0 runs. -/
def placedTask : Task :=
  { ctx := 0, record := 0, queue := 0, index := 0, tile := 0, count := 1, arg := 0, entry := 0, live := 0, yclass := 0, span := 0,
    lead := 0, gangId := 0, ins := [] }

/-- A pattern of one cell that holds the word. -/
def placedFabric (w : W32) (i : Instr) : Fabric :=
  { op := 0, image := 0, lead := 0, p := 1, scroll := false, segFirst := 0, segCount := 1, prevRing := 0, nextRing := 0
    hdr := { v := 1, q := 1, d := 1, runlvl := 1, period := false, nseg := 1, nclause := 0, wrap := 0, sect := 0 }
    dirs := [(0, 0x800)]
    configs := [(0, [(0, { portWord := 0, chans := [], header := 0, words := [w], pool := [1] })])]
    stripes := [(0, { word := { valid := true } })]
    cells := [(0, { nodes := [(0, placedNode true i)] })] }

/-- The machine with the word of `nbits` bits `w` placed where the next step fires it: as the one word of a block of ring 0's
sequencer, or, where such a block may not hold it, of a cell of ring 0's fabric. -/
def State.withFetchWord (s : State) (nbits w : Nat) : State :=
  let word := BitVec.ofNat 32 w
  match decodeTableWord nbits w with
  | none => s
  | some i =>
    let seq := i.wfIn .atomic
    let x := s.ring 0
    let u : UnitId := if seq then .seq 0 else .cell 0 0 0
    let y : Ring :=
      if seq then { x with cur := some placedTask, seqr := { x.seqr with blk := some { addr := 0, words := [word], pool := [1], nodes := [(0, placedNode false i)] } } }
      else { x with cur := some placedTask, eng := { x.eng with fabric := some (placedFabric word i) } }
    { (s.setRing 0 y) with agenda := [(0, .fire u 0)] }

end Sys2Proof.Machine
end

