-- ==== Sys2Proof/Machine/Registers.lean ====
section
/-!
DEFINITION. What the host reads in the control window and the aperture window (R7, R8, R72, R75): every register's value, with its reserved
and write-only fields zero.
-/

namespace Sys2Proof.Machine

/-- A bit of a register. -/
def bitAt (b : Bool) (lo : Nat) : Word := BitVec.ofNat 64 (b.toNat * 2 ^ lo)

/-- A field of a register. -/
def fieldAt (v lo : Nat) : Word := BitVec.ofNat 64 (v * 2 ^ lo)

/-! ## The context host block (R79, R105, R115, R118, R119) -/

/-- ING_STAT (R79): NONEMPTY names the channels that hold a token. -/
def Ctx.ingStat (x : Ctx) : Word :=
  let nonempty := ((List.range 16).map fun n => if (x.ingress.get [] n).isEmpty then 0 else 2 ^ n).sum
  bitAt x.stray 48 ||| fieldAt nonempty 32 ||| fieldAt x.ovf.toNat 16 ||| fieldAt x.bad.toNat 0

/-- FULL of EGQ_STAT (R79). -/
def EgQueue.full (q : EgQueue) : Bool := (q.prod - q.cons).toNat == 2 ^ q.log2n.toNat

/-- A register of an egress queue, by its offset from +0x08 on (R79). -/
def EgQueue.read (q : EgQueue) (o : Nat) : Word :=
  match o with
  | 0x08 => q.base
  | 0x10 => fieldAt q.vector.toNat 16 ||| bitAt q.irqEn 8 ||| fieldAt q.log2n.toNat 0
  | 0x18 => fieldAt q.prod.toNat 0
  | 0x20 => fieldAt q.cons.toNat 0
  | 0x28 => fieldAt q.lostCount.toNat 32 ||| bitAt q.lost 1 ||| bitAt q.full 0
  | _ => 0

/-- A register of a task queue (R119). -/
def TaskQueue.read (q : TaskQueue) (o : Nat) : Word :=
  match o with
  | 0x00 => q.base
  | 0x08 => bitAt q.owner 8 ||| fieldAt q.log2n.toNat 0
  | 0x10 => fieldAt q.prod.toNat 0
  | 0x18 => fieldAt q.cons.toNat 0
  | _ => 0

/-- CTX_CFG (R105). -/
def Ctx.cfg (x : Ctx) : Word :=
  fieldAt x.weight.toNat 32 ||| fieldAt x.stripes.toNat 16 ||| bitAt x.unsignedOk 9 ||| bitAt x.priv 8 ||| bitAt x.closing 1 ||| bitAt x.enable 0

/-- A register of a context's host block; GO of SHOOT_CTL and CTX_RESUME is write-only. -/
def Ctx.read (x : Ctx) (o : Nat) : Word :=
  if 0x80 ≤ o then (x.tq.get {} ((o - 0x80) / 0x20)).read ((o - 0x80) % 0x20)
  else
    match o with
    | 0x00 => x.ingStat
    | 0x30 => x.cfg
    | 0x38 => fieldAt x.rings.toNat 0
    | 0x40 => x.ptbase
    | 0x48 => fieldAt x.touched.toNat 0
    | 0x50 => x.shootVa
    | 0x58 => bitAt x.shootBusy 1
    | 0x60 => bitAt x.halted 2 ||| bitAt x.refused 1
    | 0x68 => fieldAt x.keys.toNat 0
    | _ => x.egq.read o

/-! ## The package (R26, R35, R44, R56 to R63, R68, R69, R73, R84 to R86, R92) -/

def ConnState.code : ConnState → Nat
  | .idle => 0 | .tuning => 1 | .up => 2 | .draining => 3 | .rejected => 4 | .fault => 5

/-- GD_CONN (R26). -/
def Conn.read (x : Conn) : Word :=
  bitAt x.valid 63 ||| fieldAt x.state.code 60 ||| fieldAt x.lambda.toNat 32 ||| fieldAt x.src.toNat 16 ||| fieldAt x.dst.toNat 8

/-- GL_STAT (R44). -/
def Link.read (x : Link) : Word :=
  bitAt x.up 63 ||| bitAt x.lost 62 ||| fieldAt x.width.toNat 60 ||| fieldAt x.lambdaOk.toNat 44 ||| bitAt x.wmismatch 43 |||
    fieldAt x.peerChip.toNat 16 ||| fieldAt x.peerPort.toNat 12 ||| fieldAt x.replays.toNat 0

/-- RING_PSTATE (R56): CMD is the latest command. -/
def Ring.pstate (x : Ring) : Word :=
  fieldAt x.duty 16 ||| bitAt x.busy 11 ||| fieldAt x.eff.toNat 8 ||| fieldAt (x.nextCmd.getD x.cmd).toNat 0

def PwrState.code : PwrState → Nat
  | .running => 0 | .parking => 1 | .parked => 2 | .unparking => 3

/-- DIE_PWR (R60): PARK shows the request that the die follows, and not one that is recorded for later (log 103). -/
def Die.pwrReg (x : Die) : Word := fieldAt x.pwr.code 2 ||| bitAt x.parkRefused 1 ||| bitAt x.park 0

/-- THERM_DIE (R63). -/
def Die.therm (x : Die) : Word :=
  bitAt x.tstop 63 ||| bitAt x.refresh2x 62 ||| fieldAt x.hbmC.toNat 40 ||| fieldAt x.tjC.toNat 32 |||
    (List.range 4).foldl (fun w j => w ||| fieldAt (x.allow.get 0 j).toNat (8 * j)) 0

/-- DIE_RST (R35): its requests are write-only. -/
def Die.rstReg (x : Die) : Word := fieldAt (match x.rst with | .idle => 0 | .core => 1 | .uncore => 2) 2

/-- A word of a key slot (R92). -/
def KeySlot.read (x : KeySlot) (o : Nat) : Word :=
  if o < 48 then x.hash.extractLsb' (8 * o) 64 else if o = 48 then bitAt x.valid 0 else 0

/-- Power, thermal, trust, attestation, reset and key-slot registers, by offset from 0x4_0000. -/
def State.systemRead (s : State) (o : Nat) : Word :=
  let d := s.dev
  if o = 0x000 then d.status
  else if o = 0x008 then fieldAt d.effW 16 ||| fieldAt d.ceil 0
  else if o = 0x010 then bitAt d.ceilMiss 17 ||| bitAt s.throttle 16 ||| fieldAt d.powerW.toNat 0
  else if 0x100 ≤ o ∧ o < 0x200 then (s.ring ((o - 0x100) / 8)).pstate
  else if 0x200 ≤ o ∧ o < 0x240 then (s.die ((o - 0x200) / 8)).pwrReg
  else if 0x300 ≤ o ∧ o < 0x340 then (s.die ((o - 0x300) / 8)).therm
  else if o = 0x400 then d.svnFuse
  else if 0x500 ≤ o ∧ o < 0x520 then d.nonce.get 0 ((o - 0x500) / 8)
  else if o = 0x520 then d.attDest
  else if o = 0x528 then bitAt d.attBusy 1 ||| bitAt d.attDone 2 ||| bitAt d.attErr 3
  else if 0x600 ≤ o ∧ o < 0x640 then (s.die ((o - 0x600) / 8)).rstReg
  else if 0x800 ≤ o ∧ o < 0xC00 then (d.keySlots.get {} ((o - 0x800) / 0x40)).read ((o - 0x800) % 0x40)
  else 0

/-- The MSI-X table and its pending bits (R72, log 17). -/
def Dev.msixRead (d : Dev) (o : Nat) : Word :=
  if o < 0x1000 then
    let e := d.msix.get {} (o / 16)
    if 65 ≤ o / 16 then 0 else if o % 16 = 0 then e.addr else bitAt e.masked 32 ||| fieldAt e.data.toNat 0
  else if o = 0x1000 then d.pba.setWidth 64
  else if o = 0x1008 then bitAt (d.pba.getLsbD 64) 0
  else 0

/-- Capture and replay registers (R85, R86). -/
def Dev.captureRead (d : Dev) (o : Nat) : Word :=
  match o with
  | 0x00 => d.capBase
  | 0x08 => d.capSize
  | 0x10 => fieldAt d.capBytes.toNat 32 ||| bitAt d.capFull 1 ||| bitAt d.capOn 0
  | 0x18 => d.capCtx
  | 0x20 => fieldAt d.repCtx.val 8 ||| bitAt d.repDiverged 2 ||| bitAt d.repActive 1
  | 0x28 => d.repBase
  | 0x30 => d.repLen
  | _ => 0

/-! ## Stop records (R158) -/

/-- A stop record as it stands in memory: VERSION 1, then ENGINE, CAUSE, FLAGS, RING, BLOCK, VA, COUNTERS and the strand counters. -/
def StopRec.bytes (k : StopRec) : List Byte :=
  [1, k.engine, k.cause.setWidth 8, BitVec.ofNat 8 (k.primary.toNat + 2 * k.retry.toNat), k.ring, 0, 0, 0] ++
    bytesLE 8 k.block.toNat ++ bytesLE 8 k.va.toNat ++ bytesLE 8 k.counters.toNat ++
    ((List.range 8).flatMap fun n => bytesLE 2 (k.issued.get 0 n).toNat) ++ (List.range 8).flatMap fun n => bytesLE 2 (k.done.get 0 n).toNat

/-! ## The windows (R72, R75) -/

/-- What a read of eight bytes of the control window returns: zero at an offset that R72 does not list. The component registers, which the CXL
standard describes, hold what the device has there (log 17). -/
def State.readReg (s : State) (off : Nat) : Word :=
  if off % 8 ≠ 0 then 0
  else if off = 0 then devId
  else if 0x1000 ≤ off ∧ off < 0x2000 then Config.componentReg off
  else if 0x10000 ≤ off ∧ off < 0x14000 then (s.ctx ((off - 0x10000) / 0x100)).read (off % 0x100)
  else if 0x20000 ≤ off ∧ off < 0x20200 then (s.conn ((off - 0x20000) / 8)).read
  else if 0x30000 ≤ off ∧ off < 0x30100 then (if off % 16 = 0 then (s.link ((off - 0x30000) / 16)).read else 0)
  else if off = 0x30100 then s.gt
  else if 0x40000 ≤ off ∧ off < 0x41000 then s.systemRead (off - 0x40000)
  else if 0x50000 ≤ off ∧ off < 0x50030 then s.dev.events.read (off - 0x50000)
  else if 0x52000 ≤ off ∧ off < 0x54000 then s.dev.msixRead (off - 0x52000)
  else if 0x60000 ≤ off ∧ off < 0x60038 then s.dev.captureRead (off - 0x60000)
  else 0

/-- What a read of the aperture window returns (R75). -/
def State.readAperture (_ : State) (_ : Nat) : Word := 0

end Sys2Proof.Machine
end

