-- ==== Sys2Proof/Safety.lean ====
section
/-!
DEFINITION. What counts as a safe run, and the terms that statements about the machine use.
-/

namespace Sys2Proof.Claims

open Sys2Proof.Machine

/-! ## Runs -/

/-- A run from `s` meets no fault and no refusal, however long. -/
def SafeFrom (s : State) : Prop := ∀ k, ∃ t, Host.Core.run core k s = .next t

/-- What every step keeps: the memory's canonical form. -/
def Inv (s : State) : Prop := s.mem.wf

/-! ## Words that fire -/

/-- The word in focus fires with operands `o` (R178, R297, R299). -/
abbrev Fires (i : Instr) (s : State) (o : Opers) : Prop := s.ready i = .go o

/-- `i` leads from `s` to `t`. -/
abbrev Does (i : Instr) (s t : State) : Prop := exec i s = .next t

/-- A word consumes its operands and delivers `v` to each of its targets (R303). -/
abbrev Delivers (i : Instr) (s : State) (v : Val) : Prop := Does i s ((s.consume i).deliver i v)

/-- A word consumes its operands and delivers `v` to t0 and `w` to t1. -/
abbrev DeliversTwo (i : Instr) (s : State) (t0 t1 : Target) (v w : Val) : Prop :=
  Does i s (((s.consume i).deliverTo s.focus t0 v).deliverTo s.focus t1 w)

/-- A word raises a cause as it fires (R301). -/
abbrev Traps (i : Instr) (s : State) (c : Cause) : Prop := Does i s (s.failWord c)

/-- A word of the sequencer becomes a commit item (R240, R378). -/
abbrev Records (i : Instr) (s : State) (w : Work) : Prop := Does i s (s.pushItem i w)

/-! ## Element-wise results (R256, R303) -/

/-- A function of up to three elements at any width. -/
abbrev ElemFun := (n : Nat) → BitVec n → BitVec n → BitVec n → BitVec n

/-- The elements of a lane, lowest first in the lowest bits (R256). -/
def onLane (w : IWidth) (f : ElemFun) (a b c : W32) : W32 :=
  let part (n k : Nat) (x : W32) : BitVec n := x.extractLsb' (n * k) n
  let one (n k : Nat) : BitVec n := f n (part n k a) (part n k b) (part n k c)
  match w with
  | .i16 => one 16 1 ++ one 16 0
  | .i8 => one 8 3 ++ one 8 2 ++ one 8 1 ++ one 8 0
  | _ => one 32 0

/-- A scalar of the sequencer: 64 bits, or the elements of bits [31:0] with zero above (R303). -/
def onScalar (w : IWidth) (f : ElemFun) (a b c : Word) : Word :=
  match w with
  | .i64 => f 64 a b c
  | _ => (onLane w f (a.setWidth 32) (b.setWidth 32) (c.setWidth 32)).setWidth 64

/-- A result token: valid where every operand is, zero elsewhere, with the largest punctuation, untagged (R303). -/
structure LaneResult (ts : List Tok) (f : W32 → W32 → W32 → W32) (t : Tok) : Prop where
  ok : ∀ i < 16, t.ok i = ts.all fun x => x.ok i
  lane : ∀ i < 16, t.lane i = if t.ok i then f ((ts.getD 0 {}).lane i) ((ts.getD 1 {}).lane i) ((ts.getD 2 {}).lane i) else 0
  punct_le : ∀ x ∈ ts, x.punct ≤ t.punct
  punct_of : t.punct = 0 ∨ ∃ x ∈ ts, x.punct = t.punct
  plain : t.tag = none ∧ t.side = 0 ∧ t.chan = 0

/-- A word computes `f` element by element, on scalars in a block of the sequencer and on tokens in a cell; an operand of the other
kind raises cause 0x05 (R295, R303). -/
def Computes (i : Instr) (w : IWidth) (f : ElemFun) : Prop :=
  (∀ s r o l, s.focus = .seq r → Fires i s o → o.scalars i.reads = .ok l →
    Delivers i s (.sc (onScalar w f (l.getD 0 0) (l.getD 1 0) (l.getD 2 0)))) ∧
  (∀ s r p j o ts, s.focus = .cell r p j → w ≠ .i64 → Fires i s o → o.toks i.reads = .ok ts →
    ∃ t, Delivers i s (.tok t) ∧ LaneResult ts (onLane w f) t) ∧
  (∀ s r o c, s.focus = .seq r → Fires i s o → o.scalars i.reads = .error c → Traps i s 0x05)

/-- A word with an immediate: 64 bits on the sequencer, 32 in a cell (R303). -/
def ComputesImm (i : Instr) (f : (n : Nat) → BitVec n → BitVec n) : Prop :=
  (∀ s r o l, s.focus = .seq r → Fires i s o → o.scalars i.reads = .ok l → Delivers i s (.sc (f 64 (l.getD 0 0)))) ∧
  (∀ s r p j o ts, s.focus = .cell r p j → Fires i s o → o.toks i.reads = .ok ts →
    ∃ t, Delivers i s (.tok t) ∧ LaneResult ts (fun a _ _ => f 32 a) t)

/-- A truth value as an element (R304). -/
def truth (n : Nat) (b : Bool) : BitVec n := if b then 1 else 0

/-- The integer width whose elements lie as those of a floating-point width do (R256). -/
def likeInt : FWidth → IWidth
  | .f32 => .i32
  | _ => .i16

/-- A function on floating-point codes as one on elements. -/
def onCodes (f : Nat → Nat → Nat → Nat) : ElemFun := fun n a b c => BitVec.ofNat n (f a.toNat b.toNat c.toNat)

/-! ## Conversions and sums (R256 to R260, R264, R268, R270, R338) -/

/-- Element `e` of `w` bits of a token, and whether its lane is valid (R256). -/
def tokElem (w : Nat) (t : Tok) (e : Nat) : Nat := (t.data.extractLsb' (w * e) w).toNat

def tokElemOk (w : Nat) (t : Tok) (e : Nat) : Bool := t.ok (w * e / 32)

/-- The tag of a token, with the format that it names (R261). -/
def tagOf? (t : Tok) : Option (Tag × LaneFmt) := t.tag.bind fun g => (laneFmt? g.fmt.toNat).map fun f => (g, f)

/-- The format that an operand is read in (R261). -/
def readFmt (plain : LaneFmt) (t : Tok) : LaneFmt := match tagOf? t with | some (_, f) => f | none => plain

/-- Whether results are flushed (R265). -/
def flushes (t : Tok) : Bool := match tagOf? t with | some (g, _) => g.flush | none => false

/-- The exact value of element `e` under a tag, its spare value and block scale with it (R259). -/
def taggedValue (g : Tag) (f : LaneFmt) (t : Tok) (e : Nat) : Sys2Proof.Machine.Num :=
  let byte (n : Nat) : Nat := (t.side.extractLsb' n 8).toNat
  let q := tokElem f.bits t e
  let v := if g.fmt = 5 ∧ g.spare = true ∧ q = 8 then e4m3.decode (byte (16 * (e / 32) + 8)) else f.decode q
  if g.bscale = true ∧ (g.fmt = 3 ∨ g.fmt = 4 ∨ g.fmt = 5) then v.mul (e8m0 (byte ((if g.fmt = 5 then 16 else 8) * (e / 32)))) else v

/-- The exact value of element `e` of an operand of a cell: by its tag with the tensor scale, or in the format of the modifier
(R259 to R261). -/
def operandValue (c : Cell) (plain : LaneFmt) (t : Tok) (e : Nat) : Sys2Proof.Machine.Num :=
  match tagOf? t with
  | some (g, f) => (taggedValue g f t e).mul (fp32.decode (Tab.get 0 c.g g.tscale.toNat).toNat)
  | none => plain.decode (tokElem plain.bits t e)

/-- The source element that part `g` places at destination element `d`, of `n` lanes with `ks` and `kd` elements each (R338). -/
def placedFrom (n ks kd g d : Nat) : Option Nat :=
  if ks ≤ kd then (if g * (n * ks) ≤ d ∧ d < (g + 1) * (n * ks) then some (d - g * (n * ks)) else none) else some (g * (n * kd) + d)

/-- Whether part `g` exists (R338). -/
abbrev hasPart (ks kd g : Nat) : Prop := g < max ks kd / min ks kd

/-- What a conversion makes of `n` lanes: its elements, zero in a lane that is not valid, valid bits and flags by lane (R268, R303, R338, R340). -/
structure Converted (n ks kd g : Nat) (ok : Nat → Bool) (conv : Nat → Conv) (out : Nat → Nat) (outOk ovf nan : Nat → Bool) : Prop where
  code : ∀ d < n * kd, out d = if outOk (d / kd) then (match placedFrom n ks kd g d with | some e => (conv e).code | none => 0) else 0
  valid : ∀ j < n, outOk j = (List.range kd).all fun i => match placedFrom n ks kd g (j * kd + i) with | some e => ok (e / ks) | none => true
  ovf : ∀ j < n, ovf j = (List.range kd).any fun i =>
    match placedFrom n ks kd g (j * kd + i) with | some e => ok (e / ks) && (conv e).ovf | none => false
  nan : ∀ j < n, nan j = (List.range kd).any fun i =>
    match placedFrom n ks kd g (j * kd + i) with | some e => ok (e / ks) && (conv e).nan | none => false

/-- An untagged token without sideband, of a punctuation. -/
abbrev Plain (t : Tok) (punct : BitVec 3) : Prop := t.punct = punct ∧ t.tag = none ∧ t.side = 0 ∧ t.chan = 0

/-- An overflow token (R268) but for its masks. -/
abbrev FlagTok (z : Tok) (punct : BitVec 3) : Prop :=
  Plain z punct ∧ z.valid = 3 ∧ (z.lane 0).toNat < 2 ^ 16 ∧ (z.lane 1).toNat < 2 ^ 16 ∧ ∀ i < 16, 2 ≤ i → z.lane i = 0

/-- A token's conversion to elements of `w` bits, with its overflow token (R268, R340). -/
def TokConverted (ks w g : Nat) (conv : Nat → Conv) (x y z : Tok) : Prop :=
  Converted 16 ks (32 / w) g x.ok conv (tokElem w y) y.ok (z.lane 0).getLsbD (z.lane 1).getLsbD ∧ Plain y x.punct ∧ FlagTok z x.punct

/-- A scalar's conversion, and its flags (R340). -/
def ScalarConverted (ks w g : Nat) (conv : Nat → Conv) (y z : Word) : Prop :=
  Converted 1 ks (32 / w) g (fun _ => true) conv (fun d => (y.extractLsb' (w * d) w).toNat) (fun _ => true) (fun _ => z.getLsbD 0)
    (fun _ => z.getLsbD 1) ∧ y.toNat < 2 ^ 32 ∧ z.toNat < 4

/-- Elements of valid lanes that a conversion of part `g` takes, up to `e` and with it; each steps the LFSR (R264). -/
def stepsTo (ks kd g : Nat) (x : Tok) (e : Nat) : Nat :=
  ((List.range (e + 1)).filter fun n => x.ok (n / ks) && (if ks ≤ kd then true else decide (g * (16 * kd) ≤ n))).length

/-- The rounding of an element of a conversion in a cell whose LFSR holds `l` (R262 to R264). -/
def cellMode (m : Nat) (l : W32) (ks kd g : Nat) (x : Tok) (e : Nat) : RMode :=
  match m with
  | 0 => .rne | 1 => .rz | 2 => .rd | 3 => .ru
  | _ => .sr (lfsrStep^[stepsTo ks kd g x e] l).toNat

/-- What the LFSR holds afterwards. -/
def cellLfsr (m : Nat) (l : W32) (ks kd g : Nat) (x : Tok) : W32 :=
  if m = 4 then lfsrStep^[stepsTo ks kd g x ((if ks ≤ kd then 16 * ks else (g + 1) * (16 * kd)) - 1)] l else l

/-- A tree of pairwise operations over 2^n elements (R270). -/
def treeOf (f : Nat → Nat → Nat) : Nat → (Nat → Nat) → Nat
  | 0, g => g 0
  | n + 1, g => treeOf f n fun i => f (g (2 * i)) (g (2 * i + 1))

/-- A running result (R270). -/
def runningOf (f : Nat → Nat → Nat) (first : Nat) (g : Nat → Nat) : Nat → Nat
  | 0 => first
  | n + 1 => f (runningOf f first g n) (g (n + 1))

/-- The order of codes that are numbers, -0 below +0 (R266). -/
def orderKey (f : FloatSpec) (x : Nat) : Int :=
  if x / 2 ^ (f.eb + f.mb) % 2 = 1 then -1 - (x % 2 ^ (f.eb + f.mb) : Nat) else (x % 2 ^ (f.eb + f.mb) : Nat)

/-- The signed reading of an element. -/
def signedOf (w x : Nat) : Int := (BitVec.ofNat w x).toInt

/-! ## Accesses of the sequencer (R110, R113, R388) -/

/-- An access to memory at `l` that meets every check of R388: the space takes it, the address lies below the space's limit and is aligned, and
in space g the page's translation is cached, gives the right, leads to memory that is there, and no counter watches the sector. `s1` is the
state in which the die is touched and the ring has its die's entry, `a` the access. -/
def Passes (s : State) (r : Nat) (t : Task) (q : Req) (l : Word) (s1 : State) (a : Acc) : Prop :=
  l.toNat % q.n = 0 ∧
    match q.sp with
    | .p => l.toNat < 2 ^ 24 ∧ s1 = s ∧ a = { space := .p, va := l, key := poolKey r l.toNat, n := q.n, home := .pool }
    | .w => q.atomic = false ∧ l.toNat < 0x3000000 ∧ s1 = s ∧ a = { space := .w, va := l, key := sliceKey r l.toNat, n := q.n, home := .slice }
    | .io => False
    | .g => l.toNat < 2 ^ 57 ∧ ∃ e key home, s.cached r t.ctx l = some e ∧ e.permits (s.ring r).seqr.priv q.use = true ∧
        s.locate (e.base + l.toNat % 2 ^ e.size) = .ok (key, home) ∧ (q.watch = true → (s.ring r).seqr.perf.watches l = false) ∧
        s1 = s.reached r t.ctx l home ∧ a = { space := .g, va := l, key := key, n := q.n, home := home }

/-! ## What a word leaves as it is (R240, R301, R378) -/

/-- The registers of a ring's sequencer that change at commit alone. -/
structure SameRegs (q z : Seqr) : Prop where
  x : z.x = q.x
  v : z.v = q.v
  stack : z.stack = q.stack
  pending : z.pending = q.pending
  priv : z.priv = q.priv
  handles : z.handles = q.handles
  issued : z.issued = q.issued
  done : z.done = q.done
  poolPart : z.poolPart = q.poolPart
  owed : z.owed = q.owed

/-- Every byte of memory reads as it did, and no sector has become good or bad. -/
def SameMemory (s t : State) : Prop := (∀ a, t.mem.get a = s.mem.get a) ∧ t.poison = s.poison

/-- The words that send tokens, which may stand in buffers of scratch (R191, R192, R201). -/
def buffers : Instr → Bool
  | .out .. | .pwr .. => true
  | _ => false

/-- One of 64 bytes from a key. -/
abbrev within64 (k a : Nat) : Prop := k ≤ a ∧ a < k + 64

/-- A byte of the buffer of an out-port (R201). -/
def PortByte (s : State) (a : Nat) : Prop :=
  ∃ r n o k, (s.ring r).eng.outPorts.look n = some o ∧ within64 (poolKey r (o.first + 64 * (k % o.cap))) a

/-- The bytes of scratch that a word may send a token to: the next place of the column's wrap buffer, any place of an out-port's buffer
as entries flow on from the EDGE links, and the entry of a pass register (R191, R192, R201). -/
def BufferByte (s : State) (i : Instr) (a : Nat) : Prop :=
  match i, s.focus with
  | .out _ .down _, .cell r p j => ∃ f r' a' j' g, s.fabric r = some f ∧ s.downDest r f p j = .wrap r' a' j' ∧ s.fabric r' = some g ∧
      within64 (poolKey r' (g.hdr.wrapBase j' + 64 * (g.wrapped.get 0 j' % g.hdr.q))) a
  | .out _ .edge _, _ => PortByte s a
  | .pwr reg _ _, _ => ∃ h f r' j k key g, s.here = some h ∧ s.fabric h.r = some f ∧ s.passDest h f reg.toNat = .entry r' j k key ∧
      s.fabric r' = some g ∧ within64 (poolKey r' (g.hdr.wrapBase j + 64 * g.hdr.q + 64 * (k % 4))) a
  | _, _ => False

/-- A message has become visible at a ring, and `s1` is the state without it (R48, R50, R231): it waits there before everything else, or it is one of
another chip that comes in while no windows apply and none of its chip waits there (R412). -/
def Visible (s : State) (chip : BitVec 16) (m : Msg) (s1 : State) : Prop :=
  (∃ l, s.dev.arrived = m :: l ∧ s1 = s.modDev fun d => { d with arrived := l }) ∨
    (chip ≠ ownChip ∧ s.dev.flush = true ∧ s.dev.arrived.contains m = false ∧ (∀ x ∈ s.dev.arrived, x.ring? = m.ring? → x.chip? ≠ some chip) ∧ s1 = s)

/-- What a message of another chip becomes while windows apply: it joins the pipe of its path under its sender's window (R48). -/
def ComesIn (i : Instr) (s : State) (chip : BitVec 16) (r : RingId) (stamp : Nat) (m : Msg) : Prop :=
  let p : Path := { src := .chip chip, dst := .die (ringDieId r) }
  chip ≠ ownChip → s.dev.flush = false → s.dev.arrived.contains m = false → (s.pipe p).lost = false →
    Does i s ((s.pushPipe p { window := stamp, ring := r, ctx := 0, who := .eyelet, op := 0, msg := m }).show p)

/-- No byte of a range of 64 lies in a weight slice that a pattern has locked (R24). -/
def Unlocked (s : State) (key : Nat) : Prop := ∀ i < 64, ∀ q, sliceRing? (key + i) = some q → (s.ring q).locks = []

/-- Every register of every ring, die and context is as it was. -/
def SameUnits (s t : State) : Prop := t.rings = s.rings ∧ t.dies = s.dies ∧ t.ctxs = s.ctxs

/-! ## Device moves that store nothing -/

/-- The moves that no rule of the spec lets write a byte of memory or spoil a sector: none of them sends a token, lets a message into a pipe's end or
reads a pool for an engine. -/
def storesNothing : Instr → Bool
  | .blockFetch .. | .blockCommit .. | .deferredValueLand .. | .translationWalkDone .. | .shootdownGo ..
  | .shootdownPoint .. | .sealLate .. | .lateSealNotice .. | .pipeEnter .. | .strandErrorTimeout .. | .captureEnable .. | .replayGo .. | .replayRecord .. | .orderModeWrite ..
  | .flushMarkerReceive .. | .groundWindowWrite .. | .pstateCommand .. | .pstateTransitionDone .. | .ceilWrite ..
  | .powerMeasure .. | .dutyRelief .. | .diePark .. | .dieUnpark .. | .parkDone .. | .thermAllowUpdate ..
  | .hbmRefreshDouble .. | .hbmRefreshNormal .. | .refreshHoldEnd .. | .thermalStop .. | .tstopClear .. | .powerGood ..
  | .dieAuthTimeout .. | .placement .. | .priorityAging .. | .tokenInlet .. | .multicastTake .. | .reconfigure ..
  | .shadowFillStart .. | .shadowFillDone .. | .fabricStall .. | .periodMarker .. | .walkerComplete .. | .shuttleStart ..
  | .shuttleCommandRead .. | .shuttleCommandComplete .. | .copyComplete .. | .reservationTimeout .. | .sliceEnd ..
  | .forcedSave .. | .yieldSave .. | .heartbeatTimeout .. | .machineCheck .. | .resumeGo .. | .haltNotice ..
  | .coreResetDone .. | .uncoreResetDone .. | .ctxConfigWrite .. | .ctxTouchedWrite .. | .taskQueueConfig ..
  | .contextEnable .. | .contextTeardown .. | .circuitRequest .. | .circuitTeardown .. | .tuningComplete .. | .tuningFail ..
  | .circuitDrained .. | .circuitFault .. | .portNarrowDone .. | .ptpSync .. | .ptpFollowUp .. | .ptpPdelayReq ..
  | .ptpPdelayResp .. | .ptpPdelayRespFollowUp .. | .ingressWrite .. | .cxlMemRead .. | .egqConfigWrite ..
  | .egqConsWrite .. | .attestGo .. | .keySlotWrite .. | .fuseSvnWrite .. => true
  | _ => false

/-- The moves by which a port or a path may be lost; what has come over it is acted on before that (R237). -/
def losesPorts : Instr → Bool
  | .orderModeSwitch | .sealTimeout .. | .portLostNotice .. | .wavelengthFail .. | .announce .. => true
  | _ => false

end Sys2Proof.Claims
end

