-- ==== Sys2Proof/Certificates/Slice0/Obligations.lean ====
section
/-!
DEFINITION. The statements about the machine. Each docstring names the rules that its statement formalises; where a part of one is the
model's own choice it names the log entry.
-/

open Sys2Proof Sys2Proof.Machine Sys2Proof.Claims

/-! ## Reset, decoding and the step -/

/-- R13, R67: at power-good no task runs, no context is enabled, every knot, zone, pool byte and HBM byte is zero, and DEV_READY is clear.
That host memory reads zero and registers are zero is the model's choice (logs 4, 5). -/
def Obligations.ResetValues : Prop :=
  State.reset.dev.ready = false ∧ State.reset.dev.phase = 0 ∧ State.reset.dev.flush = true ∧ State.reset.dev.window = 10 ∧
    (∀ a, State.reset.mem.get a = 0) ∧ State.reset.poison = [] ∧
    (∀ r, (State.reset.ring r).cur = none ∧ (State.reset.ring r).resident = none ∧ (State.reset.ring r).eff = 0 ∧ (State.reset.ring r).duty = 16 ∧
      (State.reset.ring r).stripes = 16) ∧
    (∀ r k, (State.reset.ring r).knots.get {} k = {}) ∧ (∀ r z, (State.reset.ring r).zones.look z = none) ∧
    (∀ c, (State.reset.ctx c).enable = false ∧ (State.reset.ctx c).halted = false ∧ (State.reset.ctx c).weight = 1 ∧ (State.reset.ctx c).stripes = 16)

/-- The memory of the machine after reset has its canonical form. -/
def Obligations.ResetCanonical : Prop := Inv State.reset

/-- R288, R289, R292: words written out bit by bit from the encoding tables decode to the instructions they stand for. -/
def Obligations.DecodesWords : Prop :=
  decodeWord 0b0000_0111_00_0001_000000011_010000010#32 = .ok (.punct .always false 1 (.to .l 3) (.to .r 2)) ∧
  decodeWord 0b0001_0000_00_0000_111111111_000000100#32 = .ok (.add .always .wrap .i32 .null (.to .l 4)) ∧
  decodeWord 0b0001_0010_10_1111111111111_000000101#32 = .ok (.addi .ifTrue 0x1FFF (.to .l 5)) ∧
  decodeWord 0b0010_1110_00_0011_111111111_000000001#32 = .ok (.bfx .always true .null (.to .l 1)) ∧
  decodeWord 0b0011_1111_00_0000_100000001_100000100#32 = .ok (.pnot .always .i32 (.to .p 1) (.to .p 4)) ∧
  decodeWord 0b0100_0011_11_0001_111111111_110000010#32 = .ok (.fma .ifFalse .bf16 .null (.to .t 2)) ∧
  decodeWord 0b0101_0000_00_0000_111111111_000000000#32 = .ok (.frcp .always .f32 .null (.to .l 0)) ∧
  decodeWord 0b0110_0000_00_0101_111111111_000000011#32 = .ok (.cvt .always .e2m1 .null (.to .l 3)) ∧
  decodeWord 0b0111_1010_00_0010_111111111_000000011#32 = .ok (.vmask .always .join .null (.to .l 3)) ∧
  decodeWord 0b1000_0000_00_0101_111111111_000000011#32 = .ok (.mma .always .e2m1 .null (.to .l 3)) ∧
  decodeWord 0b1001_0000_00_00_00001_000000000000000#32 = .ok (.out .always .down 1) ∧
  decodeWord 0b1010_0000_00_1111111111111111111110#32 = .ok (.br .always 0x3FFFFE) ∧
  decodeWord 0b1011_0011_00_01_010_00000100_000000111#32 = .ok (.ld64 .always .p 2 4 (.to .l 7)) ∧
  decodeWord 0b1100_1001_00_00_001_00000000_111111111#32 = .ok (.acas .always .g 1 0 .null) ∧
  decodeWord 0b1101_0001_00_00_011_10000000_111111111#32 = .ok (.kadd .always 3 0x80) ∧
  decodeWord 0b1110_0000_00_0000000001001_000000010#32 = .ok (.sysr .always 9 (.to .l 2)) ∧
  decodeWord 0b0000_0111_00_0111_111111111_000000000#32 = .error .reservedField ∧
  decodeWord 0b0000_0110_00_0000_111111111_000000000#32 = .error .badTarget ∧
  decodeWord 0b1111_0000_00_0000_111111111_111111111#32 = .error .illegalOpcode

/-- R288 to R292: the encoder and the decoder agree on every well-formed Hexek word, with every operand at every value that its field
allows. -/
def Obligations.EncodeThenDecode : Prop := ∀ i : Instr, i.domain.isSome = true → i.wf = true → decodeWord (encode i) = .ok i

/-- R288 to R292: every word that the decoder accepts is the word of the instruction it gives, so no bit of a word is dropped and two
words never stand for one instruction; and that instruction is a well-formed Hexek word. -/
def Obligations.DecodeThenEncode : Prop :=
  ∀ (w : W32) (i : Instr), decodeWord w = .ok i → encode i = w ∧ i.domain.isSome = true ∧ i.wf = true

/-- A step takes the first turn of the agenda after its nanoseconds have passed: the word that a unit's block holds at an index is
decoded and executed in focus, and a move of the device is executed; a turn that names neither stops the run (log 1). -/
def Obligations.StepRunsDecoded : Prop :=
  (∀ (s t : State) dt rest u k v w i, s.agenda = (dt, .fire u k) :: rest → t = ({ s with agenda := rest }).tick dt → t.view u = some v →
    v.words[k]? = some w → decodeWord w = .ok i → step s = exec i { t with focus := u, focusIdx := k }) ∧
  (∀ (s t : State) dt rest i, s.agenda = (dt, .move i) :: rest → t = ({ s with agenda := rest }).tick dt → i.domain = none → step s = exec i t) ∧
  (∀ (s t : State) dt rest u k, s.agenda = (dt, .fire u k) :: rest → t = ({ s with agenda := rest }).tick dt → t.wordOf u k = none →
    step s = .fault .nothingThere) ∧
  (∀ (s : State) dt rest i, s.agenda = (dt, .move i) :: rest → i.domain.isSome = true → step s = .fault .nothingThere)

/-- Every instruction answers a next state in every state: what the spec calls a fault is a cause that a context takes, and the device
goes on (R154). So a step never refuses, and faults only on a turn that names nothing. -/
def Obligations.EveryInstructionAnswers : Prop :=
  (∀ (i : Instr) (s : State), ∃ t, exec i s = .next t) ∧ (∀ (s : State) r, step s ≠ .refused r) ∧
  (∀ s : State, s.agenda = [] → ∃ t, step s = .next t)

/-- Every step keeps the memory's canonical form, whatever the state and the turn. -/
def Obligations.StepKeepsMemory : Prop := ∀ s t : State, Inv s → step s = .next t → Inv t

/-- R13, R237, R238, R245: of the device's moves these write no byte of memory and make no sector good or bad, whatever the state; those that may lose
a port or a path write none where no message waits at an eyelet or in a pipe; and an acknowledgement writes none unless it is another chip's answer. -/
def Obligations.MovesLeaveMemory : Prop :=
  (∀ (i : Instr) (s t : State), storesNothing i = true → Does i s t → SameMemory s t) ∧
    (∀ (i : Instr) (s t : State), losesPorts i = true → s.dev.arrived = [] → (∀ p, (s.pipe p).writes = []) → Does i s t → SameMemory s t) ∧
    ∀ (s t : State) r op ack, s.ackFrom r op = none → Does (.visibilityAck r op ack) s t → SameMemory s t

/-! ## Firing words -/

/-- R178, R179, R290, R295, R297 to R299: when a word fires. In a block of the sequencer: it has not fired or settled, its slots are filled, its targets
are null, settled, or empty and reserved by no load, its place in the cycle has come, and it waits for no deferred register, fork, cycle or earlier
operation; one whose predicate has come and is false for it settles without effect, and nothing of the state but its own node changes. In a cell: its
slots are filled, none of them too late for the cycle, and its targets are empty or slots that it empties itself, with room in its link; a mismatched
predicate consumes the operands. Each class of a cell has its firings in a cycle, the lowest index first. -/
def Obligations.FiringRules : Prop :=
  ((∀ (s : State) r t b (i : Instr), s.focus = .seq r → s.running r = some t → (s.ring r).seqr.blk = some b →
    (s.node s.focus s.focusIdx).fired = false → (s.node s.focus s.focusIdx).dead = false →
    (∀ q ∈ needs i (s.node s.focus s.focusIdx), (s.node s.focus s.focusIdx).has q = true) →
    ((s.node s.focus s.focusIdx).tokenP = true ∨ i.pd = .always ∨ predOk i (s.node s.focus s.focusIdx) = true) →
    (∀ q x, .to q x ∈ i.outs → (s.node s.focus x.toNat).fired = true ∨ (s.node s.focus x.toNat).dead = true ∨
      (((s.node s.focus x.toNat).slot q).isNone = true ∧ (s.ring r).seqr.reserved (.to q x) = false)) →
    s.mayFire s.focus s.focusIdx i = true → s.issues s.focus s.focusIdx i = true →
    if (s.node s.focus s.focusIdx).tokenP then (i.domain.isSome = true → Traps i s 0x05) else Fires i s (s.node s.focus s.focusIdx).opers) ∧
  (∀ (s : State) r b (i : Instr), s.focus = .seq r → (s.ring r).seqr.blk = some b → b.fires.get (s.cycle r) 0 = 0 →
    b.fires.get (s.cycle r) 1 = 0 → s.focusIdx = 0 → s.issues s.focus s.focusIdx i = true) ∧
  (∀ (s : State) r b (i : Instr) o, s.focus = .seq r → (s.ring r).seqr.blk = some b → Fires i s o →
    b.fires.get (s.cycle r) 0 < 4 ∧ (i.ordered = true → b.fires.get (s.cycle r) 1 = 0) ∧ b.since ≤ s.cycle r) ∧
  (∀ (s : State) r p j f (i : Instr), s.focus = .cell r p j → s.fabric r = some f → (s.view s.focus).isSome = true →
    (s.node s.focus s.focusIdx).fired = false → (s.node s.focus s.focusIdx).dead = false →
    (∀ q ∈ needs i (s.node s.focus s.focusIdx), ∃ v, (s.node s.focus s.focusIdx).slot q = some v ∧ v.at' ≤ s.cycle r) →
    (∀ q x, .to q x ∈ i.outs → ((s.node s.focus x.toNat).slot q).isNone = true ∨
      (x.toNat = s.focusIdx ∧ (s.node s.focus s.focusIdx).takes i q = true)) →
    s.mayFire s.focus s.focusIdx i = true → s.issues s.focus s.focusIdx i = true → i.issueClass ≠ .m →
    if predOk i (s.node s.focus s.focusIdx) then Fires i s (s.node s.focus s.focusIdx).opers else s.ready i = .skip) ∧
  (∀ (s : State) r p j (i : Instr) o, s.focus = .cell r p j → Fires i s o →
    (s.node s.focus s.focusIdx).fired = false ∧ predOk i (s.node s.focus s.focusIdx) = true ∧ o = (s.node s.focus s.focusIdx).opers ∧
    (∀ q ∈ needs i (s.node s.focus s.focusIdx), (s.node s.focus s.focusIdx).has q = true) ∧
    ∀ q x, .to q x ∈ i.outs → ((s.node s.focus x.toNat).slot q).isNone = true ∨ (x.toNat = s.focusIdx ∧ (s.node s.focus s.focusIdx).takes i q = true)) ∧
  (∀ (s : State) r p j f v (i : Instr), s.focus = .cell r p j → s.fabric r = some f → s.view s.focus = some v →
    wordAt v.words s.focusIdx = some i → (f.cell p j).opens i.issueClass (s.cycle r) = true → (f.cell p j).mayOut i (s.cycle r) = true →
    (∀ n y, n ≠ s.focusIdx → wordAt v.words n = some y → s.canFire s.focus n y = .wait) → s.issues s.focus s.focusIdx i = true) ∧
  (∀ (s : State) r p j f v (i y : Instr) n, s.focus = .cell r p j → s.fabric r = some f → s.view s.focus = some v → n < s.focusIdx →
    wordAt v.words n = some y → y.issueClass = i.issueClass → s.canFire s.focus n y ≠ .wait → (f.cell p j).mayOut y (s.cycle r) = true →
    (f.cell p j).since.look s.focusIdx = none → s.ready i = .wait) ∧
  (∀ (s : State) r p j f (i : Instr), s.focus = .cell r p j → s.fabric r = some f → (f.cell p j).opens i.issueClass (s.cycle r) = false →
    s.ready i = .wait)) ∧
  (∀ (s : State) r t b (i : Instr), i.domain.isSome = true → i.domain ≠ some .c → s.focus = .seq r → s.running r = some t →
    (s.ring r).seqr.blk = some b → (s.node s.focus s.focusIdx).fired = false → (s.node s.focus s.focusIdx).dead = false →
    i.pd ≠ .always → (s.node s.focus s.focusIdx).p.isSome = true → (s.node s.focus s.focusIdx).tokenP = false → predOk i (s.node s.focus s.focusIdx) = false →
    Does i s (s.setNode s.focus s.focusIdx { s.node s.focus s.focusIdx with dead := true }))

/-- R178, R180, R297, R299, R303, R309 to R311: a firing of the sequencer marks its word as fired and empties its slots, and a value delivered to a word
that has not fired or settled stands in the slot that its target names, and nowhere else in the block. In a cell a firing takes what it needs, but a
sticky value stays: MERGE and CARRY take P and the operand that it selects and keep the other, CARRY's first firing takes its preloaded predicate and
keeps what waits in P, and INVAR keeps L while P is true; CONST, LIT and CRD fire once and their values are sticky. -/
def Obligations.DeliveryFillsSlots : Prop :=
  (∀ (s : State) r b (i : Instr) (v : Val) q (x : BitVec 7), s.focus = .seq r → (s.ring r).seqr.blk = some b →
    (∀ n : Node, n = (s.consume i).node s.focus s.focusIdx →
      n.fired = true ∧ n.l = none ∧ n.r = none ∧ n.p = none ∧ n.t = none ∧ n.dead = (s.node s.focus s.focusIdx).dead) ∧
    (∀ k, k ≠ s.focusIdx → (s.consume i).node s.focus k = s.node s.focus k) ∧
    ((s.node s.focus x.toNat).fired = false → (s.node s.focus x.toNat).dead = false →
      (s.deliverTo s.focus (.to q x) v).node s.focus x.toNat = (s.node s.focus x.toNat).setSlot q (some { v := v })) ∧
    ((s.node s.focus x.toNat).fired = true ∨ (s.node s.focus x.toNat).dead = true → s.deliverTo s.focus (.to q x) v = s) ∧
    (∀ k, k ≠ x.toNat → (s.deliverTo s.focus (.to q x) v).node s.focus k = s.node s.focus k) ∧
    s.deliverTo s.focus .null v = s) ∧
  (∀ (s : State) r p j f (n : Node) x, s.focus = .cell r p j → s.fabric r = some f → n = s.node s.focus s.focusIdx → n.p = some x →
    let kept (v : Option SlotVal) : Option SlotVal := v.filter (·.sticky)
    let after (i : Instr) : Node := (s.consume i).node s.focus s.focusIdx
    (∀ t1 t0, n.pre = false → after (.merge t1 t0) =
      { n with p := kept n.p, l := if x.v.truth then kept n.l else n.l, r := if x.v.truth then n.r else kept n.r }) ∧
    (∀ t1 t0, n.pre = false → after (.carry t1 t0) =
      { n with p := kept n.p, l := if x.v.truth then n.l else kept n.l, r := if x.v.truth then kept n.r else n.r }) ∧
    (∀ t1 t0, n.pre = true → after (.carry t1 t0) = { n with pre := false, l := kept n.l }) ∧
    (∀ t1 t0, n.pre = false → after (.invar t1 t0) = { n with p := kept n.p, l := if x.v.truth then n.l else kept n.l }) ∧
    (∀ t1 t0, n.pre = false → after (.steer t1 t0) = { n with p := kept n.p, l := kept n.l })) ∧
  (∀ (s : State) r p j f (i : Instr), s.focus = .cell r p j → s.fabric r = some f →
    ((s.consume i).node s.focus s.focusIdx).fired = ((s.node s.focus s.focusIdx).fired || isSticky i)) ∧
  (∀ (s : State) r p j f (v : Val) q (x : BitVec 7) sticky, s.focus = .cell r p j → s.fabric r = some f →
    (s.deliverTo s.focus (.to q x) v sticky).node s.focus x.toNat = (s.node s.focus x.toNat).setSlot q (some { v := v, sticky := sticky }) ∧
    ∀ k, k ≠ x.toNat → (s.deliverTo s.focus (.to q x) v sticky).node s.focus k = s.node s.focus k)

/-- R191, R201, R240, R301, R378: while words fire, nothing of memory changes but the places of scratch where a token that OUT or PWR sends comes to
stand (a wrap buffer, a pass entry, an out-port's buffer), and of no ring do the registers, the stack, the handles, the strand counters, the
privilege, POOL_PART or what waits change; a word of the sequencer changes no knot and no zone of any ring. A block acts on them at its commit alone. -/
def Obligations.WordsWaitForCommit : Prop :=
  (∀ (i : Instr) (s t : State), i.domain.isSome = true → Does i s t →
    (∀ a, ¬BufferByte s i a → t.mem.get a = s.mem.get a) ∧ (∀ x ∈ t.poison, x ∈ s.poison) ∧
    (buffers i = false → SameMemory s t) ∧ t.gt = s.gt ∧ t.dies = s.dies ∧ ∀ r, SameRegs (s.ring r).seqr (t.ring r).seqr) ∧
  (∀ (i : Instr) (s t : State) r, i.domain.isSome = true → s.focus = .seq r → Does i s t →
    ∀ k, (t.ring k).knots = (s.ring k).knots ∧ (t.ring k).zones = (s.ring k).zones)

/-! ## Moving values and choosing paths -/

/-- R296, R307 to R313, R316: MOV and GATE deliver L, MERGE and CARRY the value that P selects, INVAR a copy of L, STEER delivers L to t0 when P is true and
to t1 when it is false, SINK consumes its operand; CONST and LIT give a value in every lane of an untagged token in a cell, and sign-extended on the sequencer. -/
def Obligations.PassedValues : Prop :=
  ((∀ s pd t1 t0 o v, Fires (.mov pd t1 t0) s o → o.l = some v → Delivers (.mov pd t1 t0) s v) ∧
  (∀ s pd t1 t0 o v, Fires (.gate pd t1 t0) s o → o.l = some v → Delivers (.gate pd t1 t0) s v) ∧
  (∀ s t1 t0 o v, Fires (.merge t1 t0) s o → (if o.p then o.l else o.r) = some v → Delivers (.merge t1 t0) s v) ∧
  (∀ s t1 t0 o v, Fires (.carry t1 t0) s o → (if o.p then o.r else o.l) = some v → Delivers (.carry t1 t0) s v) ∧
  (∀ s r t1 t0 o v, s.focus = .seq r → Fires (.invar t1 t0) s o → o.l = some v → Delivers (.invar t1 t0) s v) ∧
  (∀ s r p j t1 t0 o (x : Tok), s.focus = .cell r p j → Fires (.invar t1 t0) s o → o.l = some (.tok x) →
    Delivers (.invar t1 t0) s (.tok { x with punct := o.pp })) ∧
  (∀ s pd o, Fires (.sink pd) s o → Does (.sink pd) s (s.consume (.sink pd)))) ∧
  (∀ (s : State) t1 t0 o v, Fires (.steer t1 t0) s o → o.l = some v →
    Does (.steer t1 t0) s ((s.consume (.steer t1 t0)).deliverTo s.focus (if o.p then t0 else t1) v)) ∧
  ((∀ s r imm t0 o, s.focus = .seq r → Fires (.const imm t0) s o → Delivers (.const imm t0) s (.sc (imm.signExtend 64))) ∧
  (∀ s r p j imm t0 o, s.focus = .cell r p j → Fires (.const imm t0) s o →
    ∃ x : Tok, Delivers (.const imm t0) s (.tok x) ∧ (∀ k < 16, x.lane k = imm.signExtend 32) ∧ x.valid = 0xFFFF ∧ x.punct = 0 ∧ x.tag = none) ∧
  (∀ s r n t0 o v w, s.focus = .seq r → Fires (.lit n t0) s o → s.view s.focus = some v → v.pool[n.toNat]? = some w →
    Delivers (.lit n t0) s (.sc (w.signExtend 64))) ∧
  (∀ s r p j n t0 o v w, s.focus = .cell r p j → Fires (.lit n t0) s o → s.view s.focus = some v → v.pool[n.toNat]? = some w →
    ∃ x : Tok, Delivers (.lit n t0) s (.tok x) ∧ (∀ k < 16, x.lane k = w) ∧ x.valid = 0xFFFF ∧ x.punct = 0 ∧ x.tag = none))

/-- R306, R314, R315: what PUNCT, SETPN and STRIP do to a token in a cell, that the sequencer, whose tokens have punctuation 0, passes them
on unchanged, and that a scalar there raises cause 0x05. -/
def Obligations.PunctuationWords : Prop :=
  (∀ s r p j pd eq n t1 t0 o (x : Tok), s.focus = .cell r p j → Fires (.punct pd eq n t1 t0) s o → o.l = some (.tok x) →
    DeliversTwo (.punct pd eq n t1 t0) s t0 t1 (.tok x)
      (.tok { data := if (if eq then x.punct = n else n ≤ x.punct) then 1 else 0, valid := 1, punct := x.punct })) ∧
  (∀ s r pd eq n t1 t0 o (x : Tok), s.focus = .seq r → Fires (.punct pd eq n t1 t0) s o → o.l = some (.tok x) →
    DeliversTwo (.punct pd eq n t1 t0) s t0 t1 (.tok x) (.sc (if n = 0 then 1 else 0))) ∧
  (∀ s r p j pd mx n t1 t0 o (x : Tok), s.focus = .cell r p j → Fires (.setpn pd mx n t1 t0) s o → o.l = some (.tok x) →
    Delivers (.setpn pd mx n t1 t0) s (.tok { x with punct := if mx ∧ n < x.punct then x.punct else n })) ∧
  (∀ s r p j pd w t1 t0 o (x : Tok), s.focus = .cell r p j → Fires (.strip pd w t1 t0) s o → o.l = some (.tok x) →
    ∃ y : Tok, Delivers (.strip pd w t1 t0) s (.tok y) ∧ y.data = x.data ∧ y.valid = x.valid ∧ y.chan = x.chan ∧
      y.punct = (if w = .tag then x.punct else 0) ∧ y.tag = (if w = .punct then x.tag else none) ∧ y.side = (if w = .punct then x.side else 0)) ∧
  (∀ s r pd mx n t1 t0 o (x : Tok), s.focus = .seq r → Fires (.setpn pd mx n t1 t0) s o → o.l = some (.tok x) →
    Delivers (.setpn pd mx n t1 t0) s (.tok x)) ∧
  (∀ s r pd w t1 t0 o (x : Tok), s.focus = .seq r → Fires (.strip pd w t1 t0) s o → o.l = some (.tok x) → Delivers (.strip pd w t1 t0) s (.tok x)) ∧
  (∀ s r t1 t0 o x, s.focus = .seq r → o.l = some (.sc x) →
    (∀ pd eq n, Fires (.punct pd eq n t1 t0) s o → Traps (.punct pd eq n t1 t0) s 0x05) ∧
    (∀ pd mx n, Fires (.setpn pd mx n t1 t0) s o → Traps (.setpn pd mx n t1 t0) s 0x05) ∧
    (∀ pd w, Fires (.strip pd w t1 t0) s o → Traps (.strip pd w t1 t0) s 0x05))

/-! ## Integers -/

/-- R303, R317: integer arithmetic that wraps, its immediate form, and saturation, which holds the exact value within the signed or the
unsigned range of the element. -/
def Obligations.Integers : Prop :=
  ((∀ pd w t1 t0, Computes (.add pd .wrap w t1 t0) w fun _ a b _ => a + b) ∧
  (∀ pd w t1 t0, Computes (.sub pd .wrap w t1 t0) w fun _ a b _ => a - b) ∧
  (∀ pd w t1 t0, Computes (.mul pd .wrap w t1 t0) w fun _ a b _ => a * b) ∧
  (∀ pd w t1 t0, Computes (.mad pd .wrap w t1 t0) w fun _ a b c => a * b + c) ∧
  (∀ pd w t1 t0, Computes (.mulhu pd w t1 t0) w fun n a b _ => BitVec.ofNat n (a.toNat * b.toNat / 2 ^ n)) ∧
  (∀ pd w t1 t0, Computes (.mulhs pd w t1 t0) w fun n a b _ => BitVec.ofInt n (a.toInt * b.toInt / 2 ^ n)) ∧
  (∀ pd w t1 t0, Computes (.neg pd false w t1 t0) w fun _ a _ _ => -a) ∧
  (∀ pd w t1 t0, Computes (.abs pd false w t1 t0) w fun _ a _ _ => if a.msb then -a else a) ∧
  (∀ pd w t1 t0, Computes (.mins pd w t1 t0) w fun _ a b _ => if a.toInt ≤ b.toInt then a else b) ∧
  (∀ pd w t1 t0, Computes (.maxs pd w t1 t0) w fun _ a b _ => if a.toInt ≤ b.toInt then b else a) ∧
  (∀ pd w t1 t0, Computes (.minu pd w t1 t0) w fun _ a b _ => if a ≤ b then a else b) ∧
  (∀ pd w t1 t0, Computes (.maxu pd w t1 t0) w fun _ a b _ => if a ≤ b then b else a) ∧
  (∀ pd imm t0, ComputesImm (.addi pd imm t0) fun n a => a + imm.signExtend n)) ∧
  ((∀ pd w t1 t0, Computes (.add pd .sats w t1 t0) w fun n a b _ => BitVec.ofInt n (max (-2 ^ (n - 1)) (min (2 ^ (n - 1) - 1) (a.toInt + b.toInt)))) ∧
  (∀ pd w t1 t0, Computes (.sub pd .sats w t1 t0) w fun n a b _ => BitVec.ofInt n (max (-2 ^ (n - 1)) (min (2 ^ (n - 1) - 1) (a.toInt - b.toInt)))) ∧
  (∀ pd w t1 t0, Computes (.mul pd .sats w t1 t0) w fun n a b _ => BitVec.ofInt n (max (-2 ^ (n - 1)) (min (2 ^ (n - 1) - 1) (a.toInt * b.toInt)))) ∧
  (∀ pd w t1 t0, Computes (.mad pd .sats w t1 t0) w fun n a b c =>
    BitVec.ofInt n (max (-2 ^ (n - 1)) (min (2 ^ (n - 1) - 1) (a.toInt * b.toInt + c.toInt)))) ∧
  (∀ pd w t1 t0, Computes (.neg pd true w t1 t0) w fun n a _ _ => BitVec.ofInt n (min (2 ^ (n - 1) - 1) (-a.toInt))) ∧
  (∀ pd w t1 t0, Computes (.abs pd true w t1 t0) w fun n a _ _ => BitVec.ofInt n (min (2 ^ (n - 1) - 1) (a.toInt.natAbs : Int))) ∧
  (∀ pd w t1 t0, Computes (.add pd .satu w t1 t0) w fun n a b _ => BitVec.ofNat n (min (2 ^ n - 1) (a.toNat + b.toNat))) ∧
  (∀ pd w t1 t0, Computes (.sub pd .satu w t1 t0) w fun n a b _ => BitVec.ofNat n (a.toNat - b.toNat)) ∧
  (∀ pd w t1 t0, Computes (.mul pd .satu w t1 t0) w fun n a b _ => BitVec.ofNat n (min (2 ^ n - 1) (a.toNat * b.toNat))) ∧
  (∀ pd w t1 t0, Computes (.mad pd .satu w t1 t0) w fun n a b c => BitVec.ofNat n (min (2 ^ n - 1) (a.toNat * b.toNat + c.toNat))))

/-- R318: the quotients and the remainder of the sequencer at both widths, and the cause of a zero divisor, which names the word. -/
def Obligations.Division : Prop :=
  ∀ (s : State) r o (a b : Word) pd wide t1 t0, s.focus = .seq r → o.l = some (.sc a) → o.r = some (.sc b) →
    let lo (x : Word) : Word := if wide then x else (x.setWidth 32).setWidth 64
    let sx (x : Word) : Int := if wide then x.toInt else (x.setWidth 32).toInt
    let out (v : Int) : Word := if wide then BitVec.ofInt 64 v else (BitVec.ofInt 32 v).setWidth 64
    (Fires (.divs pd wide t1 t0) s o → lo b ≠ 0 → Delivers (.divs pd wide t1 t0) s (.sc (out ((sx a).tdiv (sx b))))) ∧
    (Fires (.divu pd wide t1 t0) s o → lo b ≠ 0 → Delivers (.divu pd wide t1 t0) s (.sc (lo a / lo b))) ∧
    (Fires (.remu pd wide t1 t0) s o → lo b ≠ 0 → Delivers (.remu pd wide t1 t0) s (.sc (lo a % lo b))) ∧
    (Fires (.divs pd wide t1 t0) s o → lo b = 0 → Does (.divs pd wide t1 t0) s (s.trapSeq r 0x37 (s.wordVa r s.focusIdx))) ∧
    (Fires (.divu pd wide t1 t0) s o → lo b = 0 → Does (.divu pd wide t1 t0) s (s.trapSeq r 0x37 (s.wordVa r s.focusIdx))) ∧
    (Fires (.remu pd wide t1 t0) s o → lo b = 0 → Does (.remu pd wide t1 t0) s (s.trapSeq r 0x37 (s.wordVa r s.focusIdx)))

/-- R319 to R322: bitwise logic, the shifts, whose counts are taken modulo the width, leading zeros, set bits, and bit fields with their position,
length and sign flag. -/
def Obligations.LogicAndFields : Prop :=
  ((∀ pd w t1 t0, Computes (.and pd w t1 t0) w fun _ a b _ => a &&& b) ∧
  (∀ pd w t1 t0, Computes (.or pd w t1 t0) w fun _ a b _ => a ||| b) ∧
  (∀ pd w t1 t0, Computes (.xor pd w t1 t0) w fun _ a b _ => a ^^^ b) ∧
  (∀ pd w t1 t0, Computes (.andn pd w t1 t0) w fun _ a b _ => a &&& ~~~b) ∧
  (∀ pd w t1 t0, Computes (.not pd w t1 t0) w fun _ a _ _ => ~~~a) ∧
  (∀ pd w t1 t0, Computes (.shl pd w t1 t0) w fun n a b _ => a <<< (b.toNat % n)) ∧
  (∀ pd w t1 t0, Computes (.shr pd w t1 t0) w fun n a b _ => a >>> (b.toNat % n)) ∧
  (∀ pd w t1 t0, Computes (.sar pd w t1 t0) w fun n a b _ => a.sshiftRight (b.toNat % n)) ∧
  (∀ pd w t1 t0, Computes (.rol pd w t1 t0) w fun n a b _ => a.rotateLeft (b.toNat % n)) ∧
  (∀ pd imm t0, ComputesImm (.shli pd imm t0) fun n a => a <<< (imm.toNat % n)) ∧
  (∀ pd imm t0, ComputesImm (.shri pd imm t0) fun n a => a >>> (imm.toNat % n)) ∧
  (∀ pd imm t0, ComputesImm (.sari pd imm t0) fun n a => a.sshiftRight (imm.toNat % n))) ∧
  (let len (n : Nat) (c : BitVec n) : Nat := min (c.toNat / 256 % 128) n
  let ones (n k : Nat) : BitVec n := BitVec.ofNat n (2 ^ k - 1)
  (∀ pd w t1 t0, Computes (.clz pd w t1 t0) w fun n a _ _ => BitVec.ofNat n (if a = 0 then n else n - 1 - a.toNat.log2)) ∧
  (∀ pd w t1 t0, Computes (.popc pd w t1 t0) w fun n a _ _ => BitVec.ofNat n ((List.range n).filter a.getLsbD).length) ∧
  (∀ pd wide t1 t0, Computes (.bfx pd wide t1 t0) (if wide then .i64 else .i32) fun n a c _ =>
    let f := (a >>> (c.toNat % 64)) &&& ones n (len n c)
    if c.getLsbD 16 ∧ 0 < len n c ∧ f.getLsbD (len n c - 1) then f ||| ~~~(ones n (len n c)) else f) ∧
  (∀ pd wide t1 t0, Computes (.bfi pd wide t1 t0) (if wide then .i64 else .i32) fun n a b c =>
    let m := ones n (len n c) <<< (c.toNat % 64)
    (a &&& ~~~m) ||| ((b <<< (c.toNat % 64)) &&& m)))

/-- R304, R323 to R326: compares write 1 or 0 in each element, those of floating point by the sign and magnitude of the codes, with NaN unordered
and the two zeros equal; SEL takes L where bit 0 of T is set; predicates come out as 1 or 0. -/
def Obligations.Compares : Prop :=
  ((∀ pd w t1 t0, Computes (.cmpeq pd w t1 t0) w fun n a b _ => truth n (a == b)) ∧
  (∀ pd w t1 t0, Computes (.cmpne pd w t1 t0) w fun n a b _ => truth n (a != b)) ∧
  (∀ pd w t1 t0, Computes (.cmplt pd w t1 t0) w fun n a b _ => truth n (a.slt b)) ∧
  (∀ pd w t1 t0, Computes (.cmple pd w t1 t0) w fun n a b _ => truth n (a.sle b)) ∧
  (∀ pd w t1 t0, Computes (.cmpltu pd w t1 t0) w fun n a b _ => truth n (a.ult b)) ∧
  (∀ pd w t1 t0, Computes (.cmpleu pd w t1 t0) w fun n a b _ => truth n (a.ule b)) ∧
  (∀ pd imm t0, ComputesImm (.cmpeqi pd imm t0) fun n a => truth n (a == imm.signExtend n)) ∧
  (∀ pd imm t0, ComputesImm (.cmplti pd imm t0) fun n a => truth n (a.slt (imm.signExtend n))) ∧
  (∀ pd w t1 t0, Computes (.sel pd w t1 t0) w fun _ a b c => if c.getLsbD 0 then a else b) ∧
  (∀ pd w t1 t0, Computes (.pand pd w t1 t0) w fun n a b _ => truth n (a.getLsbD 0 && b.getLsbD 0)) ∧
  (∀ pd w t1 t0, Computes (.por pd w t1 t0) w fun n a b _ => truth n (a.getLsbD 0 || b.getLsbD 0)) ∧
  (∀ pd w t1 t0, Computes (.pnot pd w t1 t0) w fun n a _ _ => truth n (!a.getLsbD 0))) ∧
  (let nan (w : FWidth) (x : Nat) : Bool := (2 ^ w.raw.eb - 1) * 2 ^ w.raw.mb < x % 2 ^ (w.raw.eb + w.raw.mb)
  let num (w : FWidth) (x : Nat) : Int :=
    if x / 2 ^ (w.raw.eb + w.raw.mb) % 2 = 1 then -((x % 2 ^ (w.raw.eb + w.raw.mb) : Nat) : Int) else (x % 2 ^ (w.raw.eb + w.raw.mb) : Nat)
  (∀ pd w t1 t0, Computes (.fcmpeq pd w t1 t0) (likeInt w) (onCodes fun a b _ => if ¬nan w a ∧ ¬nan w b ∧ num w a = num w b then 1 else 0)) ∧
  (∀ pd w t1 t0, Computes (.fcmplt pd w t1 t0) (likeInt w) (onCodes fun a b _ => if ¬nan w a ∧ ¬nan w b ∧ num w a < num w b then 1 else 0)) ∧
  (∀ pd w t1 t0, Computes (.fcmple pd w t1 t0) (likeInt w) (onCodes fun a b _ => if ¬nan w a ∧ ¬nan w b ∧ num w a ≤ num w b then 1 else 0)) ∧
  (∀ pd w t1 t0, Computes (.fcmpun pd w t1 t0) (likeInt w) (onCodes fun a b _ => if nan w a ∨ nan w b then 1 else 0)))

/-! ## Floating point and conversion -/

/-- R330 to R335: each arithmetic instruction decodes its elements, computes the exact value of the table and rounds it once to its own
format; FMIN and FMAX give the smaller and the larger of two numbers with -0 below +0, FRINT the integral value and FSCL the product with a
power of two, and a NaN gives the canonical NaN. -/
def Obligations.FloatArithmetic : Prop :=
  let once (w : FWidth) (g : Sys2Proof.Machine.Num → Sys2Proof.Machine.Num → Sys2Proof.Machine.Num → Sys2Proof.Machine.Num) : ElemFun :=
    onCodes fun a b c => w.spec.arith (g (w.spec.decode a) (w.spec.decode b) (w.spec.decode c))
  (∀ pd w t1 t0, Computes (.fadd pd w t1 t0) (likeInt w) (once w fun a b _ => a.add b)) ∧
  (∀ pd w t1 t0, Computes (.fsub pd w t1 t0) (likeInt w) (once w fun a b _ => a.add b.neg)) ∧
  (∀ pd w t1 t0, Computes (.fmul pd w t1 t0) (likeInt w) (once w fun a b _ => a.mul b)) ∧
  (∀ pd w t1 t0, Computes (.fma pd w t1 t0) (likeInt w) (once w fun a b c => (a.mul b).add c)) ∧
  (∀ pd w t1 t0, Computes (.fms pd w t1 t0) (likeInt w) (once w fun a b c => (a.mul b).add c.neg)) ∧
  (∀ pd w t1 t0, Computes (.fnma pd w t1 t0) (likeInt w) (once w fun a b c => c.add (a.mul b).neg)) ∧
  (∀ pd w t1 t0, Computes (.fmin pd w t1 t0) (likeInt w) (onCodes fun a b _ =>
    if w.spec.decode a = .nan ∨ w.spec.decode b = .nan then w.spec.nanCode else if orderKey w.spec b < orderKey w.spec a then b else a)) ∧
  (∀ pd w t1 t0, Computes (.fmax pd w t1 t0) (likeInt w) (onCodes fun a b _ =>
    if w.spec.decode a = .nan ∨ w.spec.decode b = .nan then w.spec.nanCode else if orderKey w.spec a < orderKey w.spec b then b else a)) ∧
  (∀ pd m w t1 t0, Computes (.frint pd m w t1 t0) (likeInt w) (onCodes fun a _ _ =>
    match w.spec.decode a with | .fin n k e => w.spec.arith (.fin n (roundInt m.mode n k e) 0) | v => w.spec.arith v)) ∧
  (∀ pd w t1 t0, Computes (.fscl pd w t1 t0) (likeInt w) (onCodes fun a b _ =>
    match w.spec.decode a with | .fin n k e => w.spec.arith (.fin n k (e + signedOf w.spec.bits b)) | v => w.spec.arith v))

/-- R258, R259, R333: FABS, FNEG and FCPYS change the sign bit of a number alone, FCPYS to the sign bit of R whatever R holds, and a NaN operand L
gives the canonical NaN; the value of a scale code; and what QBLK makes of a block (R345, in part): the scale code comes from the
largest finite magnitude, held from 0 to 254; each element is divided by the scale and rounded to its format, with a zero coded as +0; a block with a
NaN has code 0xFF and zero elements, and a block of zeros has code 127. -/
def Obligations.SignsAndBlockScales : Prop :=
  ((∀ pd w t1 t0, Computes (.fabs pd w t1 t0) (likeInt w) (onCodes fun a _ _ => signElem w.spec a false)) ∧
  (∀ pd w t1 t0, Computes (.fneg pd w t1 t0) (likeInt w) (onCodes fun a _ _ => signElem w.spec a (!w.spec.signOf a))) ∧
  (∀ pd w t1 t0, Computes (.fcpys pd w t1 t0) (likeInt w) (onCodes fun a b _ => signElem w.spec a (w.spec.signOf b))) ∧
  (∀ w : FWidth, ∀ a b : Nat, a < 2 ^ w.spec.bits → b < 2 ^ w.spec.bits →
    let h := 2 ^ (w.spec.bits - 1)
    (w.spec.decode a ≠ .nan →
      signElem w.spec a false = a % h ∧ signElem w.spec a (!w.spec.signOf a) = (a + h) % (2 * h) ∧
      signElem w.spec a (w.spec.signOf b) = a % h + b / h * h) ∧
    (w.spec.decode a = .nan → ∀ n, some (signElem w.spec a n) = w.spec.nanMag)) ∧
  ((∀ e < 255, e8m0 e = .fin false 1 ((e : Int) - 127)) ∧ e8m0 255 = .nan)) ∧
  (∀ (dst : FloatSpec) (emax : Int) (flush : Bool) (x : List (Sys2Proof.Machine.Num × Bool)),
    ((∃ p ∈ x, p.1 = .nan) → (blockCodes dst emax flush x).code = 0xFF ∧ ∀ q ∈ (blockCodes dst emax flush x).q, q.code = 0) ∧
    ((∀ p ∈ x, p.1 ≠ .nan) → (blockCodes dst emax flush x).q.length = x.length ∧
      ((∀ p ∈ x, ∀ n m e, p.1 = .fin n m e → m = 0) → (blockCodes dst emax flush x).code = 127) ∧
      (∀ top : Int, (∃ p ∈ x, ∃ n m e, p.1 = .fin n m e ∧ (2 : ℚ) ^ top ≤ m * 2 ^ e) →
        (∀ p ∈ x, ∀ n m e, p.1 = .fin n m e → (m : ℚ) * 2 ^ e < 2 ^ (top + 1)) →
        ((blockCodes dst emax flush x).code : Int) = max 0 (min 254 (top - emax + 127))) ∧
      ∀ (k : Nat) (p : Sys2Proof.Machine.Num × Bool), x[k]? = some p →
        let c := dst.conv .rne flush (p.1.mul (.fin false 1 (127 - ((blockCodes dst emax flush x).code : Int))))
        (blockCodes dst emax flush x).q[k]? = some (if c.code % 2 ^ (dst.bits - 1) = 0 then { c with code := 0 } else c)))

/-- R262, R266: an arithmetic result is the code nearest to the exact value among the finite codes of its format, and of two equally near codes the
even one, for every value below the point that lies half a step past the largest finite code; from there on it is the infinity of its sign; and the
exact sums and products that are infinite or NaN, each NaN with the canonical code of its format. -/
def Obligations.ArithmeticRoundsToNearest : Prop :=
  let value (f : FloatSpec) (g : Nat) : ℚ := match f.decode g with | .fin _ m e => (m : ℚ) * (2 : ℚ) ^ e | _ => 0
  let limit (f : FloatSpec) : ℚ := value f f.maxMag + (value f f.maxMag - value f (f.maxMag - 1)) / 2
  let inf (n : Bool) : Sys2Proof.Machine.Num := .inf n
  let fin (n : Bool) (m : Nat) (e : Int) : Sys2Proof.Machine.Num := .fin n m e
  let quiet : Sys2Proof.Machine.Num := .nan
  (∀ f ∈ [fp32, bf16, fp16], ∀ (n : Bool) (m : Nat) (e : Int), (m : ℚ) * 2 ^ e < limit f →
    ∃ r ≤ f.maxMag, f.arith (.fin n m e) = f.signBit n + r ∧ ∀ g ≤ f.maxMag,
      |value f r - m * 2 ^ e| ≤ |value f g - m * 2 ^ e| ∧ (|value f r - m * 2 ^ e| = |value f g - m * 2 ^ e| → g ≠ r → r % 2 = 0)) ∧
  (∀ f ∈ [fp32, bf16, fp16], ∀ (n : Bool) (m : Nat) (e : Int), limit f ≤ (m : ℚ) * 2 ^ e → f.arith (.fin n m e) = f.arith (.inf n)) ∧
  (∀ n : Bool, fp32.arith (inf n) = (if n then 0xFF800000 else 0x7F800000) ∧ bf16.arith (inf n) = (if n then 0xFF80 else 0x7F80) ∧
    fp16.arith (inf n) = (if n then 0xFC00 else 0x7C00)) ∧
  (fp32.arith quiet = 0x7FC00000 ∧ bf16.arith quiet = 0x7FC0 ∧ fp16.arith quiet = 0x7E00) ∧
  (∀ x, quiet.add x = quiet ∧ x.add quiet = quiet ∧ quiet.mul x = quiet ∧ x.mul quiet = quiet) ∧
  (∀ n k m e, (inf n).add (inf n) = inf n ∧ (inf n).add (inf !n) = quiet ∧ (inf n).add (fin k m e) = inf n ∧ (fin k m e).add (inf n) = inf n) ∧
  (∀ n k m e, (inf n).mul (inf k) = inf (n != k) ∧ (inf n).mul (fin k 0 e) = quiet ∧ (fin k 0 e).mul (inf n) = quiet ∧
    (m ≠ 0 → (inf n).mul (fin k m e) = inf (n != k) ∧ (fin k m e).mul (inf n) = inf (k != n)))

/-- R336, R337: each special function widens its element to FP32, computes, and rounds to its own format; and the values that R337 fixes, for zeros,
infinities, NaN and operands below zero, for squares and quotients that are representable, for powers of two, and where FTANH and FSIGM are constant.
Elsewhere the result is a free value within the bound of R271 (log 7). -/
def Obligations.SpecialFunctions : Prop :=
  let via (w : FWidth) (g : Nat → Nat → Nat) : ElemFun :=
    onCodes fun a b _ => w.spec.arith (fp32.decode (g (fp32.arith (w.spec.decode a)) (fp32.arith (w.spec.decode b))))
  let is (x : Nat) (n : Bool) (v : ℚ) : Prop := ∃ m e, fp32.decode x = .fin n m e ∧ (m : ℚ) * 2 ^ e = v
  let zero (n : Bool) : Nat := if n then 0x80000000 else 0
  let inf (n : Bool) : Nat := if n then 0xFF800000 else 0x7F800000
  let one (n : Bool) : Nat := if n then 0xBF800000 else 0x3F800000
  let quiet : Nat := 0x7FC00000
  (∀ pd w t1 t0, Computes (.frcp pd w t1 t0) (likeInt w) (via w fun a _ => frcpOf a)) ∧
  (∀ pd w t1 t0, Computes (.frsq pd w t1 t0) (likeInt w) (via w fun a _ => frsqOf a)) ∧
  (∀ pd w t1 t0, Computes (.fsqrt pd w t1 t0) (likeInt w) (via w fun a _ => fsqrtOf a)) ∧
  (∀ pd w t1 t0, Computes (.fdiv pd w t1 t0) (likeInt w) (via w fdivOf)) ∧
  (∀ pd w t1 t0, Computes (.fexp2 pd w t1 t0) (likeInt w) (via w fun a _ => fexp2Of a)) ∧
  (∀ pd w t1 t0, Computes (.flog2 pd w t1 t0) (likeInt w) (via w fun a _ => flog2Of a)) ∧
  (∀ pd w t1 t0, Computes (.fsin pd w t1 t0) (likeInt w) (via w fun a _ => fsinOf a)) ∧
  (∀ pd w t1 t0, Computes (.fcos pd w t1 t0) (likeInt w) (via w fun a _ => fcosOf a)) ∧
  (∀ pd w t1 t0, Computes (.ftanh pd w t1 t0) (likeInt w) (via w fun a _ => ftanhOf a)) ∧
  (∀ pd w t1 t0, Computes (.fsigm pd w t1 t0) (likeInt w) (via w fun a _ => fsigmOf a)) ∧
  (∀ a b, fp32.decode a = .nan →
    (∀ f ∈ [frcpOf, frsqOf, fsqrtOf, fexp2Of, flog2Of, fsinOf, fcosOf, ftanhOf, fsigmOf], f a = quiet) ∧ fdivOf a b = quiet ∧ fdivOf b a = quiet) ∧
  (∀ a n e, fp32.decode a = .fin n 0 e →
    frcpOf a = inf n ∧ frsqOf a = inf n ∧ fsqrtOf a = zero n ∧ fexp2Of a = one false ∧ flog2Of a = inf true ∧ fsinOf a = zero n ∧
    fcosOf a = one false ∧ ftanhOf a = zero n ∧ fsigmOf a = 0x3F000000) ∧
  (∀ a n, fp32.decode a = .inf n →
    frcpOf a = zero n ∧ frsqOf a = (if n then quiet else 0) ∧ fsqrtOf a = (if n then quiet else inf false) ∧ fexp2Of a = (if n then 0 else inf false) ∧
    flog2Of a = (if n then quiet else inf false) ∧ fsinOf a = quiet ∧ fcosOf a = quiet ∧ ftanhOf a = one n ∧ fsigmOf a = if n then 0 else one false) ∧
  (∀ a m e, fp32.decode a = .fin true m e → m ≠ 0 → frsqOf a = quiet ∧ fsqrtOf a = quiet ∧ flog2Of a = quiet) ∧
  (∀ a b v, is a false (v * v) → is b false v → b < 2 ^ 31 → fsqrtOf a = b) ∧
  (∀ a b n k, fp32.decode a = .inf n → fp32.decode b = .inf k → fdivOf a b = quiet) ∧
  (∀ a b n k u v, is a n u → is b k v → (u = 0 → v = 0 → fdivOf a b = quiet) ∧ (u ≠ 0 → v = 0 → fdivOf a b = inf (n != k)) ∧
    (u = 0 → v ≠ 0 → fdivOf a b = zero (n != k)) ∧ (u ≠ 0 → v ≠ 0 → ∀ c < 2 ^ 32, is c (n != k) (u / v) → fdivOf a b = c)) ∧
  (∀ a b n k u, (is a n u → fp32.decode b = .inf k → fdivOf a b = zero (n != k)) ∧ (fp32.decode a = .inf n → is b k u → fdivOf a b = inf (n != k))) ∧
  (∀ a n (z : Int), is a n z.natAbs → (z < 0 → n = true) → (0 < z → n = false) →
    (128 ≤ z → fexp2Of a = inf false) ∧ (-126 ≤ z → z < 128 → fexp2Of a = (z + 127).toNat * 2 ^ 23) ∧
    (-149 ≤ z → z < -126 → fexp2Of a = 2 ^ (z + 149).toNat) ∧ (z ≤ -150 → fexp2Of a = 0)) ∧
  (∀ a (z : Int), is a false (2 ^ z) → is (flog2Of a) (decide (z < 0)) z.natAbs) ∧ flog2Of 0x3F800000 = 0 ∧
  (∀ a n v, is a n v → 91 / 10 ≤ v → ftanhOf a = one n) ∧ (∀ a v, is a true v → 104 ≤ v → fsigmOf a = 0)

/-- R271: for every finite FP32 operand in its domain each special function gives a value within its bound of the exact real value, in units of an
ulp of that value, or the infinity of its sign where that value lies half a step past the largest finite number or further. -/
def Obligations.SpecialBounds : Prop :=
  let ulp (y : ℝ) : ℝ := 2 ^ (max (Int.log 2 |y|) (-126) - 23)
  let near (n : ℝ) (x : Nat) (y : ℝ) : Prop :=
    match fp32.decode x with
    | .fin s m e => |(if s then -1 else 1) * (m : ℝ) * 2 ^ e - y| ≤ n * ulp y
    | .inf s => 2 ^ 128 - 2 ^ 103 ≤ |y| ∧ (s = true ↔ y < 0)
    | .nan => False
  let is (x : Nat) (v : ℝ) : Prop := ∃ s m e, fp32.decode x = .fin s m e ∧ v = (if s then -1 else 1) * (m : ℝ) * 2 ^ e
  ∀ a x, is a x →
    (x ≠ 0 → near 1 (frcpOf a) (1 / x)) ∧ (0 < x → near 1 (frsqOf a) (1 / √x)) ∧ (0 ≤ x → near 1 (fsqrtOf a) (√x)) ∧
    (∀ b y, is b y → y ≠ 0 → near 1 (fdivOf a b) (x / y)) ∧ near 2 (fexp2Of a) (2 ^ x) ∧ (0 < x → near 2 (flog2Of a) (Real.logb 2 x)) ∧
    near 3 (fsinOf a) (Real.sin x) ∧ near 3 (fcosOf a) (Real.cos x) ∧ near 3 (ftanhOf a) (Real.tanh x) ∧
    near 3 (fsigmOf a) (1 / (1 + Real.exp (-x)))

/-- R257 to R268, R329, R338 to R347: CVT in its short and its long form, SCALE, CVTFI, CVTIF and QBLK, of a token in a cell and of a scalar on
the sequencer (QBLK of a token there), element by element with the part's placement, the valid bits, the flags by lane and the steps of the
LFSR; how an element is rounded in each mode, flushed, saturated and flagged; the operands for which they trap, those of the wrong kind among them;
and SRSEED, where zero loads 1 and an invalid lane leaves the LFSR. That QBLK flushes its codes by the tag of L is the model's reading (log 67), and so
is what the sequencer's conversions take for lane and part (log 18). -/
def Obligations.Conversions : Prop :=
  let elemAt (w : Nat) (x : Word) (e : Nat) : Nat := (x.extractLsb' 0 32).toNat / 2 ^ (w * e) % 2 ^ w
  let fi (f : FloatSpec) (m : RMode) (a : Nat) : Conv :=
    let w := f.bits
    match f.decode a with
    | .nan => { code := 0, nan := true }
    | .inf n => { code := if n then 2 ^ (w - 1) else 2 ^ (w - 1) - 1, ovf := true }
    | .fin n k e =>
      let v : Int := (if n then -1 else 1) * (roundInt m n k e : Int)
      if 2 ^ (w - 1) - 1 < v then { code := 2 ^ (w - 1) - 1, ovf := true }
      else if v < -2 ^ (w - 1) then { code := 2 ^ (w - 1), ovf := true }
      else { code := (BitVec.ofInt w v).toNat }
  let toFlt (f : FloatSpec) (u : Bool) (a : Nat) : Conv :=
    let v : Int := if u then (a : Int) else signedOf f.bits a
    f.conv .rne false (.fin (v < 0) v.natAbs 0)
  let two (i : Instr) (s : State) (t0 t1 : Target) (l : W32) (v w : Val) : Prop :=
    Does i s ((((s.consume i).setLfsr l).deliverTo s.focus t0 v).deliverTo s.focus t1 w)
  (∀ (s : State) (r : RingId) (p : StripeId) (j : ColId) f pd dst t1 t0 o (x : Tok), s.focus = .cell r p j → s.fabric r = some f →
    Fires (.cvt pd dst t1 t0) s o → o.l = some (.tok x) →
    ∃ y z, two (.cvt pd dst t1 t0) s t0 t1 (f.cell p j).lfsr (.tok y) (.tok z) ∧
      TokConverted (readFmt (.flt fp32) x).perLane dst.spec.bits 0
        (fun e => dst.spec.conv .rne (flushes x) (operandValue (f.cell p j) (.flt fp32) x e)) x y z) ∧
  (∀ (s : State) (r : RingId) pd dst t1 t0 o (x : Word), s.focus = .seq r → Fires (.cvt pd dst t1 t0) s o → o.l = some (.sc x) →
    ∃ y z, DeliversTwo (.cvt pd dst t1 t0) s t0 t1 (.sc y) (.sc z) ∧
      ScalarConverted 1 dst.spec.bits 0 (fun e => dst.spec.conv .rne false (fp32.decode (elemAt 32 x e))) y z) ∧
  (∀ (s : State) (r : RingId) (p : StripeId) (j : ColId) f pd t1 t0 o (x y : Tok), s.focus = .cell r p j → s.fabric r = some f →
    Fires (.cvtT pd t1 t0) s o → o.l = some (.tok x) → o.t = some (.tok y) →
    let c := (y.lane 0).toNat
    let part := c / 2 ^ 12 % 8
    let mode := c / 16 % 8
    (y.ok 0 = false → Traps (.cvtT pd t1 t0) s 0x02) ∧
    (y.ok 0 = true → (2 ^ 15 ≤ c ∨ c / 128 % 2 = 1 ∨ 5 < c % 16 ∨ 8 < c / 256 % 16 ∨ 4 < mode) → Traps (.cvtT pd t1 t0) s 0x02) ∧
    (∀ (dst : FloatFmt) src, y.ok 0 = true → c < 2 ^ 15 → c / 128 % 2 = 0 → laneFmt? (c % 16) = some (.flt dst.spec) → laneFmt? (c / 256 % 16) = some src →
      mode ≤ 4 →
      let ks := (readFmt src x).perLane
      let kd := 32 / dst.spec.bits
      (hasPart ks kd part →
        ∃ u v, two (.cvtT pd t1 t0) s t0 t1 (cellLfsr mode (f.cell p j).lfsr ks kd part x) (.tok u) (.tok v) ∧
          TokConverted ks dst.spec.bits part
            (fun e => dst.spec.conv (cellMode mode (f.cell p j).lfsr ks kd part x e) (flushes x) (operandValue (f.cell p j) src x e)) x u v) ∧
      (¬hasPart ks kd part → Traps (.cvtT pd t1 t0) s 0x02))) ∧
  (∀ (s : State) (r : RingId) pd t1 t0 o (x y : Word), s.focus = .seq r → Fires (.cvtT pd t1 t0) s o → o.l = some (.sc x) → o.t = some (.sc y) →
    let c := y.toNat % 2 ^ 32
    let part := c / 2 ^ 12 % 8
    let mode := c / 16 % 8
    ((2 ^ 15 ≤ c ∨ c / 128 % 2 = 1 ∨ 5 < c % 16 ∨ 8 < c / 256 % 16 ∨ 4 ≤ mode) → Traps (.cvtT pd t1 t0) s 0x02) ∧
    (∀ (dst : FloatFmt) src, c < 2 ^ 15 → c / 128 % 2 = 0 → laneFmt? (c % 16) = some (.flt dst.spec) → laneFmt? (c / 256 % 16) = some src → mode < 4 →
      (hasPart src.perLane (32 / dst.spec.bits) part →
        ∃ u v, DeliversTwo (.cvtT pd t1 t0) s t0 t1 (.sc u) (.sc v) ∧
          ScalarConverted src.perLane dst.spec.bits part
            (fun e => dst.spec.conv (cellMode mode 0 1 1 0 {} e) false (src.decode (elemAt src.bits x e))) u v) ∧
      (¬hasPart src.perLane (32 / dst.spec.bits) part → Traps (.cvtT pd t1 t0) s 0x02))) ∧
  (∀ (s : State) (r : RingId) (p : StripeId) (j : ColId) f pd (g : BitVec 2) (w : FWidth) t1 t0 o (x : Tok), s.focus = .cell r p j →
    s.fabric r = some f → Fires (.scale pd g w t1 t0) s o → o.l = some (.tok x) →
    let ks := (readFmt (.flt w.spec) x).perLane
    let kd := 32 / w.spec.bits
    (hasPart ks kd g.toNat →
      ∃ y, Delivers (.scale pd g w t1 t0) s (.tok y) ∧ Plain y x.punct ∧
        Converted 16 ks kd g.toNat x.ok (fun e => { code := w.spec.scaleTo (flushes x) (operandValue (f.cell p j) (.flt w.spec) x e) })
          (tokElem w.spec.bits y) y.ok (fun _ => false) fun _ => false) ∧
    (¬hasPart ks kd g.toNat → Traps (.scale pd g w t1 t0) s 0x02)) ∧
  (∀ (s : State) (r : RingId) pd (g : BitVec 2) t1 t0 o (x : Word), s.focus = .seq r → Fires (.scale pd g .f32 t1 t0) s o → o.l = some (.sc x) →
    (g = 0 → Delivers (.scale pd g .f32 t1 t0) s
      (.sc (BitVec.ofNat 64 (if fp32.decode (x.toNat % 2 ^ 32) = .nan then 0x7FC00000 else x.toNat % 2 ^ 32)))) ∧
    (g ≠ 0 → Traps (.scale pd g .f32 t1 t0) s 0x02)) ∧
  (∀ (s : State) (r : RingId) (p : StripeId) (j : ColId) (w : FWidth) t1 t0 o (x : Tok), s.focus = .cell r p j → (s.fabric r).isSome = true →
    o.l = some (.tok x) →
    (∀ pd m, Fires (.cvtfi pd m w t1 t0) s o → ∃ y z, DeliversTwo (.cvtfi pd m w t1 t0) s t0 t1 (.tok y) (.tok z) ∧
      TokConverted (32 / w.spec.bits) w.spec.bits 0 (fun e => fi w.spec m.mode (tokElem w.spec.bits x e)) x y z) ∧
    (∀ pd u, Fires (.cvtif pd u w t1 t0) s o → ∃ y z, DeliversTwo (.cvtif pd u w t1 t0) s t0 t1 (.tok y) (.tok z) ∧
      TokConverted (32 / w.spec.bits) w.spec.bits 0 (fun e => toFlt w.spec u (tokElem w.spec.bits x e)) x y z)) ∧
  (∀ (s : State) (r : RingId) t1 t0 o (x : Word), s.focus = .seq r → o.l = some (.sc x) →
    (∀ pd m, Fires (.cvtfi pd m .f32 t1 t0) s o → ∃ y z, DeliversTwo (.cvtfi pd m .f32 t1 t0) s t0 t1 (.sc y) (.sc z) ∧
      ScalarConverted 1 32 0 (fun e => fi fp32 m.mode (elemAt 32 x e)) y z) ∧
    (∀ pd u, Fires (.cvtif pd u .f32 t1 t0) s o → ∃ y z, DeliversTwo (.cvtif pd u .f32 t1 t0) s t0 t1 (.sc y) (.sc z) ∧
      ScalarConverted 1 32 0 (fun e => toFlt fp32 u (elemAt 32 x e)) y z)) ∧
  (∀ (s : State) pd (q : QDest) t1 t0 o (x : Tok), Fires (.qblk pd q t1 t0) s o → o.l = some (.tok x) →
    let spec := match q with | .e2m1 .. => e2m1 | .e4m3 _ => e4m3
    let at' := match q with | .e2m1 _ b => b.toNat | .e4m3 b => if b then 1 else 0
    let lanes := spec.bits
    let value (i : Nat) : Sys2Proof.Machine.Num :=
      if x.ok (i / 2) then (match tagOf? x with | some (g, f) => taggedValue g f x i | none => bf16.decode (tokElem 16 x i)) else .fin false 0 0
    let k0 := blockCodes spec (match q with | .e2m1 .. => 2 | .e4m3 _ => 8) (flushes x) ((List.range 32).map fun i => (value i, x.ok (i / 2)))
    let k := match q with | .e2m1 true _ => chooseSpare e2m1 k0 | _ => k0
    let code (i : Nat) : Conv := k.q.getD i { code := 0 }
    let laneOf (i : Nat) : Nat := lanes * at' + i / (32 / spec.bits)
    let flag (sel : Conv → Bool) (l : Nat) : Bool := (List.range 32).any fun i => laneOf i == l && sel (code i)
    ((∀ g, x.tag = some g → g.fmt = 1 ∨ g.fmt = 2) →
      ∃ y : Tok, (∀ l < 16, y.ok l = (decide (lanes * at' ≤ l ∧ l < lanes * (at' + 1)) && (List.range 32).all fun i => laneOf i != l || x.ok (i / 2))) ∧
        (∀ i < 32, y.ok (laneOf i) = true → tokElem spec.bits y (32 / spec.bits * (lanes * at') + i) = (code i).code) ∧
        (∀ l < 16, y.ok l = false → y.lane l = 0) ∧ y.tag = none ∧ y.chan = 0 ∧
        y.side = (match q with | .e2m1 .. => BitVec.ofNat 64 ((k.code + 256 * k.spare) * 2 ^ (16 * at')) | .e4m3 _ => BitVec.ofNat 64 (k.code * 2 ^ (8 * at'))) ∧
        y.punct = (match s.focus with | .cell .. => x.punct | .seq _ => 0) ∧
        ∃ z, DeliversTwo (.qblk pd q t1 t0) s t0 t1 (.tok y) (.tok z) ∧ FlagTok z y.punct ∧
          ∀ l < 16, (z.lane 0).getLsbD l = flag (·.ovf) l ∧ (z.lane 1).getLsbD l = flag (·.nan) l) ∧
    (∀ g, x.tag = some g → g.fmt ≠ 1 → g.fmt ≠ 2 → Traps (.qblk pd q t1 t0) s 0x02)) ∧
  (∀ (s : State) (r : RingId) (p : StripeId) (j : ColId) f pd o (x : Tok), s.focus = .cell r p j → s.fabric r = some f → Fires (.srseed pd) s o →
    o.l = some (.tok x) →
    (x.ok 0 = true → Does (.srseed pd) s ((s.consume (.srseed pd)).setLfsr (if x.lane 0 = 0 then 1 else x.lane 0)) ∧
      ∃ t g, Does (.srseed pd) s t ∧ t.fabric r = some g ∧ (g.cell p j).lfsr = if x.lane 0 = 0 then 1 else x.lane 0) ∧
    (x.ok 0 = false → Does (.srseed pd) s (s.consume (.srseed pd)) ∧
      ∃ t g, Does (.srseed pd) s t ∧ t.fabric r = some g ∧ (g.cell p j).lfsr = (f.cell p j).lfsr)) ∧
  (∀ (s : State) (r : RingId) o (x : Tok), s.focus = .seq r → o.l = some (.tok x) →
    (∀ pd dst t1 t0, Fires (.cvt pd dst t1 t0) s o → Traps (.cvt pd dst t1 t0) s 0x05) ∧
    (∀ pd t1 t0, Fires (.cvtT pd t1 t0) s o → Traps (.cvtT pd t1 t0) s 0x05) ∧
    (∀ pd g w t1 t0, Fires (.scale pd g w t1 t0) s o → Traps (.scale pd g w t1 t0) s 0x05) ∧
    (∀ pd m w t1 t0, Fires (.cvtfi pd m w t1 t0) s o → Traps (.cvtfi pd m w t1 t0) s 0x05) ∧
    (∀ pd u w t1 t0, Fires (.cvtif pd u w t1 t0) s o → Traps (.cvtif pd u w t1 t0) s 0x05)) ∧
  (∀ (s : State) o (x : Word) (r : RingId), s.focus = .seq r → o.l = some (.sc x) →
    (∀ pd q t1 t0, Fires (.qblk pd q t1 t0) s o → Traps (.qblk pd q t1 t0) s 0x05) ∧
    (∀ pd t1 t0 y, o.t = some (.tok y) → Fires (.cvtT pd t1 t0) s o → Traps (.cvtT pd t1 t0) s 0x05)) ∧
  (∀ f ∈ [fp32, bf16, fp16, e4m3, e5m2, e2m1], ∀ (r : RMode) (flush n : Bool) (m : Nat) (e : Int),
    let value (g : Nat) : ℚ := match f.decode g with | .fin _ k d => (k : ℚ) * 2 ^ d | _ => 0
    let step (g : Nat) : ℚ := if g = f.maxMag then value g - value (g - 1) else value (g + 1) - value g
    let x : ℚ := m * 2 ^ e
    let up (g : Nat) : Prop :=
      match r with
      | .rne => step g < 2 * (x - value g) ∨ (step g = 2 * (x - value g) ∧ g % 2 = 1)
      | .rz => False
      | .rd => n = true ∧ value g < x
      | .ru => n = false ∧ value g < x
      | .sr u => (u : ℚ) * step g < (x - value g) * 2 ^ 32
    let result (k : Nat) : Conv :=
      if f.maxMag < k then { code := f.signBit n + f.maxMag, ovf := true }
      else if flush && k < 2 ^ f.mb || k == 0 then { code := if f = e2m1 then 0 else f.signBit n } else { code := f.signBit n + k }
    (∀ g ≤ f.maxMag, value g ≤ x → x < value g + step g →
      (up g → f.conv r flush (.fin n m e) = result (g + 1)) ∧ (¬up g → f.conv r flush (.fin n m e) = result g)) ∧
    (value f.maxMag + step f.maxMag ≤ x → f.conv r flush (.fin n m e) = result (f.maxMag + 1))) ∧
  (∀ r flush n, (∀ f ∈ [fp32, bf16, fp16, e5m2], f.conv r flush (.inf n) = { code := f.arith (.inf n) }) ∧
    (∀ f ∈ [e4m3, e2m1], f.conv r flush (.inf n) = { code := f.signBit n + f.maxMag, ovf := true }) ∧
    [fp32, bf16, fp16, e4m3, e5m2, e2m1].map (fun f => f.conv r flush .nan) =
      [0x7FC00000, 0x7FC0, 0x7E00, 0x7F, 0x7E, 0].map fun c => { code := c, nan := true }) ∧
  (∀ f ∈ [fp32, bf16, fp16], ∀ v, f.scaleTo false v = f.arith v ∧
    f.scaleTo true v = if f.arith v % 2 ^ (f.eb + f.mb) < 2 ^ f.mb then f.arith v / 2 ^ (f.eb + f.mb) * 2 ^ (f.eb + f.mb) else f.arith v)

/-! ## Whole tokens -/

/-- R349, R351, R353, R354: SHUF, BCAST and LROT move lanes with their valid bits; PACK narrows the elements of two tokens into one and UNPACK
widens one half of a token. -/
def Obligations.LaneMoves : Prop :=
  (let idx (b : Tok) : Nat := (b.lane 0).toNat % 16
  (∀ s pd t1 t0 o (a b : Tok), Fires (.shuf pd t1 t0) s o → o.l = some (.tok a) → o.r = some (.tok b) →
    ∃ t, Delivers (.shuf pd t1 t0) s (.tok t) ∧ t.tag = none ∧ t.punct = maxPunct a.punct b.punct ∧ ∀ i < 16,
      t.ok i = (b.ok i && a.ok ((b.lane i).toNat % 16)) ∧ t.lane i = if t.ok i then a.lane ((b.lane i).toNat % 16) else 0) ∧
  (∀ s pd t1 t0 o (a b : Tok), Fires (.bcast pd t1 t0) s o → o.l = some (.tok a) → o.r = some (.tok b) →
    ∃ t, Delivers (.bcast pd t1 t0) s (.tok t) ∧ t.tag = none ∧ t.punct = maxPunct a.punct b.punct ∧ ∀ i < 16,
      t.ok i = (b.ok 0 && a.ok (idx b)) ∧ t.lane i = if t.ok i then a.lane (idx b) else 0) ∧
  (∀ s pd t1 t0 o (a b : Tok), Fires (.lrot pd t1 t0) s o → o.l = some (.tok a) → o.r = some (.tok b) →
    ∃ t, Delivers (.lrot pd t1 t0) s (.tok t) ∧ t.tag = none ∧ t.punct = maxPunct a.punct b.punct ∧ ∀ i < 16,
      t.ok i = (b.ok 0 && a.ok ((i + idx b) % 16)) ∧ t.lane i = if t.ok i then a.lane ((i + idx b) % 16) else 0)) ∧
  ((∀ s pd sat n16 t1 t0 o (a b : Tok), Fires (.pack pd sat n16 t1 t0) s o → o.l = some (.tok a) → o.r = some (.tok b) →
    let w := if n16 then 16 else 32
    let n := 512 / w
    let x (e : Nat) : Nat := if e < n then tokElem w a e else tokElem w b (e - n)
    let out (e : Nat) : Nat :=
      match sat with
      | .wrap => x e % 2 ^ (w / 2)
      | .sats => (BitVec.ofInt (w / 2) (max (-2 ^ (w / 2 - 1)) (min (2 ^ (w / 2 - 1) - 1) (signedOf w (x e))))).toNat
      | .satu => (max 0 (min (2 ^ (w / 2) - 1) (signedOf w (x e)))).toNat
    ∃ t, Delivers (.pack pd sat n16 t1 t0) s (.tok t) ∧ Plain t (maxPunct a.punct b.punct) ∧
      (∀ j < 16, t.ok j = if j < 8 then a.ok (2 * j) && a.ok (2 * j + 1) else b.ok (2 * (j - 8)) && b.ok (2 * (j - 8) + 1)) ∧
      ∀ e < 2 * n, tokElem (w / 2) t e = if tokElemOk (w / 2) t e then out e else 0) ∧
  (∀ s pd hi sx n8 t1 t0 o (a : Tok), Fires (.unpack pd hi sx n8 t1 t0) s o → o.l = some (.tok a) →
    let v := if n8 then 8 else 16
    let n := 512 / (2 * v)
    let x (e : Nat) : Nat := tokElem v a ((if hi then n else 0) + e)
    ∃ t, Delivers (.unpack pd hi sx n8 t1 t0) s (.tok t) ∧ Plain t a.punct ∧
      (∀ j < 16, t.ok j = a.ok ((if hi then 8 else 0) + j / 2)) ∧
      ∀ e < n, tokElem (2 * v) t e =
        if tokElemOk (2 * v) t e then (if sx then (BitVec.ofInt (2 * v) (signedOf v (x e))).toNat else x e) else 0))

/-- R266, R270, R352: the reductions fill every element with one result: a sum of integers modulo the width with invalid elements as zero, a sum of
numbers by the pairwise tree with invalid elements as -0, a maximum or minimum among the valid elements with -0 below +0, or NaN where one is
NaN, and the least or greatest value where no lane is valid; a scan gives the running sum in element order. -/
def Obligations.ReductionsAndScans : Prop :=
  let add (f : SumFmt) (x y : Nat) : Nat :=
    match f with | .flt w => w.spec.arith ((w.spec.decode x).add (w.spec.decode y)) | .int w => (x + y) % 2 ^ w.bits
  let entry (f : SumFmt) (a : Tok) (e : Nat) : Nat :=
    if tokElemOk f.bits a e then tokElem f.bits a e else match f with | .flt w => 2 ^ (w.spec.bits - 1) | .int _ => 0
  let order (f : ExtFmt) (x : Nat) : Int := match f with | .flt w => orderKey w.spec x | .sgn w => signedOf w.bits x | .uns _ => (x : Int)
  let isNan (f : ExtFmt) (x : Nat) : Prop := match f with | .flt w => w.spec.decode x = .nan | _ => False
  let filled (f : Nat) (t : Tok) (a : Tok) (m : Nat) : Prop := t.valid = 0xFFFF ∧ Plain t a.punct ∧ ∀ e < 512 / f, tokElem f t e = m
  let extreme (f : ExtFmt) (a : Tok) (m : Nat) (ofNone : Nat) (nan : Nat) (before : Int → Int → Prop) : Prop :=
    ((∀ e < 512 / f.bits, tokElemOk f.bits a e = false) → m = ofNone) ∧
    ((∃ e < 512 / f.bits, tokElemOk f.bits a e = true ∧ isNan f (tokElem f.bits a e)) → m = nan) ∧
    ((∃ e < 512 / f.bits, tokElemOk f.bits a e = true) → (∀ e < 512 / f.bits, tokElemOk f.bits a e = true → ¬isNan f (tokElem f.bits a e)) →
      (∃ e < 512 / f.bits, tokElemOk f.bits a e = true ∧ tokElem f.bits a e = m) ∧
      ∀ e < 512 / f.bits, tokElemOk f.bits a e = true → before (order f (tokElem f.bits a e)) (order f m))
  let nanOf (f : ExtFmt) : Nat := match f with | .flt w => w.spec.nanCode | _ => 0
  (∀ s pd fmt t1 t0 o (a : Tok), Fires (.redadd pd fmt t1 t0) s o → o.l = some (.tok a) →
    ∃ t, Delivers (.redadd pd fmt t1 t0) s (.tok t) ∧
      filled fmt.bits t a (treeOf (add fmt) (512 / fmt.bits).log2 (entry fmt a)) ∧
      (∀ w, fmt = .int w → ∀ e < 512 / fmt.bits, tokElem fmt.bits t e = ((List.range (512 / fmt.bits)).map (entry fmt a)).sum % 2 ^ fmt.bits)) ∧
  (∀ s pd fmt t1 t0 o (a : Tok), Fires (.redmax pd fmt t1 t0) s o → o.l = some (.tok a) →
    ∃ t m, Delivers (.redmax pd fmt t1 t0) s (.tok t) ∧ filled fmt.bits t a m ∧
      extreme fmt a m (match fmt with | .flt w => w.spec.arith (.inf true) | .sgn w => 2 ^ (w.bits - 1) | .uns _ => 0) (nanOf fmt) (· ≤ ·)) ∧
  (∀ s pd fmt t1 t0 o (a : Tok), Fires (.redmin pd fmt t1 t0) s o → o.l = some (.tok a) →
    ∃ t m, Delivers (.redmin pd fmt t1 t0) s (.tok t) ∧ filled fmt.bits t a m ∧
      extreme fmt a m (match fmt with | .flt w => w.spec.arith (.inf false) | .sgn w => 2 ^ (w.bits - 1) - 1 | .uns w => 2 ^ w.bits - 1) (nanOf fmt) (· ≥ ·)) ∧
  (∀ s pd fmt t1 t0 o (a : Tok), Fires (.scanadd pd fmt t1 t0) s o → o.l = some (.tok a) →
    ∃ t, Delivers (.scanadd pd fmt t1 t0) s (.tok t) ∧ t.valid = a.valid ∧ Plain t a.punct ∧
      ∀ e < 512 / fmt.bits, tokElem fmt.bits t e =
        if tokElemOk fmt.bits a e then
          runningOf (add fmt) (match fmt with | .flt w => w.spec.arith (w.spec.decode (entry fmt a 0)) | .int _ => entry fmt a 0) (entry fmt a) e
        else 0)

/-- R355 to R357: valid bits as a token, masks, compaction and expansion, and the predicates and extractions that leave a token. -/
def Obligations.MasksAndExtraction : Prop :=
  let mask (b : Tok) (i : Nat) : Bool := b.ok 0 && (b.lane 0).getLsbD i
  let got (a : Tok) (i : Nat) : W32 := if a.ok i then a.lane i else 0
  (∀ s pd t1 t0 o (a : Tok), Fires (.valid pd t1 t0) s o → o.l = some (.tok a) →
    Delivers (.valid pd t1 t0) s (.tok { data := a.valid.setWidth 512, valid := 1, punct := a.punct })) ∧
  (∀ s pd form t1 t0 o (a b : Tok), Fires (.vmask pd form t1 t0) s o → o.l = some (.tok a) → o.r = some (.tok b) →
    ∃ t, Delivers (.vmask pd form t1 t0) s (.tok t) ∧ t.punct = maxPunct a.punct b.punct ∧
      t.side = (if form = .join then a.side ||| b.side else a.side) ∧ ∀ i < 16,
      t.ok i = (match form with | .and => a.ok i && mask b i | .set => mask b i | .join => a.ok i || b.ok i) ∧
      t.lane i = if t.ok i then (match form with | .join => (if a.ok i then a.lane i else b.lane i) | _ => got a i) else 0) ∧
  (∀ s pd t1 t0 o (a : Tok), Fires (.compact pd t1 t0) s o → o.l = some (.tok a) →
    ∃ t : Tok, DeliversTwo (.compact pd t1 t0) s t0 t1 (.tok t) (.tok { data := a.valid.setWidth 512, valid := 1, punct := a.punct }) ∧
      ∀ i < 16, t.ok i = decide (i < ((List.range 16).filter a.ok).length) ∧
        (∀ k, ((List.range 16).filter a.ok)[i]? = some k → t.lane i = a.lane k)) ∧
  (∀ s pd t1 t0 o (a b : Tok), Fires (.expand pd t1 t0) s o → o.l = some (.tok a) → o.r = some (.tok b) →
    ∃ t, Delivers (.expand pd t1 t0) s (.tok t) ∧ ∀ i < 16,
      t.ok i = (mask b i && a.ok ((List.range i).filter (mask b)).length) ∧
      t.lane i = if t.ok i then a.lane ((List.range i).filter (mask b)).length else 0) ∧
  (∀ s r pd t1 t0 o (a : Tok), s.focus = .seq r → Fires (.any pd t1 t0) s o → o.l = some (.tok a) →
    Delivers (.any pd t1 t0) s (.sc (if ∃ i : Fin 16, a.ok i = true ∧ (a.lane i).getLsbD 0 = true then 1 else 0))) ∧
  (∀ s r pd t1 t0 o (a : Tok), s.focus = .seq r → Fires (.all pd t1 t0) s o → o.l = some (.tok a) →
    Delivers (.all pd t1 t0) s (.sc (if ∀ i : Fin 16, a.ok i = true → (a.lane i).getLsbD 0 = true then 1 else 0))) ∧
  (∀ s r pd form t1 t0 o (a : Tok) (x : Word), s.focus = .seq r → Fires (.lext pd form t1 t0) s o → o.l = some (.tok a) → o.r = some (.sc x) →
    Delivers (.lext pd form t1 t0) s (.sc
      (match form with
      | .zero => (got a (x.toNat % 16)).setWidth 64
      | .sign => (got a (x.toNat % 16)).signExtend 64
      | .pair => got a (2 * (x.toNat % 8) + 1) ++ got a (2 * (x.toNat % 8))))) ∧
  (∀ s (r : RingId) (p : StripeId) (j : ColId) pd t1 t0 o (a : Tok), s.focus = .cell r p j → Fires (.any pd t1 t0) s o → o.l = some (.tok a) →
    Delivers (.any pd t1 t0) s
      (.tok { data := if ∃ i : Fin 16, a.ok i = true ∧ (a.lane i).getLsbD 0 = true then 1 else 0, valid := 1, punct := a.punct })) ∧
  (∀ s (r : RingId) (p : StripeId) (j : ColId) pd t1 t0 o (a : Tok), s.focus = .cell r p j → Fires (.all pd t1 t0) s o → o.l = some (.tok a) →
    Delivers (.all pd t1 t0) s
      (.tok { data := if ∀ i : Fin 16, a.ok i = true → (a.lane i).getLsbD 0 = true then 1 else 0, valid := 1, punct := a.punct })) ∧
  (∀ s (r : RingId) (p : StripeId) (j : ColId) pd form t1 t0 o (a b : Tok), s.focus = .cell r p j → Fires (.lext pd form t1 t0) s o →
    o.l = some (.tok a) → o.r = some (.tok b) →
    ∃ t, Delivers (.lext pd form t1 t0) s (.tok t) ∧ t.punct = maxPunct a.punct b.punct ∧ ∀ i < 16,
      let n := (b.lane 0).toNat
      let src := if form = .pair then 2 * (n % 8) + i else n % 16
      t.ok i = (b.ok 0 && decide (i < if form = .pair then 2 else 1) && a.ok src) ∧ t.lane i = if t.ok i then a.lane src else 0)

/-! ## The matrix unit and the cell -/

/-- R269, R362 to R368: MMA adds one step of products to every element of the accumulator, with the sum scaled and rounded once, and moves its weight
pointer on by 64 bytes and its scale pointer by 8; MMAT does so with two tokens; both deliver L; the operands, descriptors and pointers for which they
trap before the accumulator changes; and zeroing, exchanging, loading and draining a bank, the weight descriptor and the weight pointers. -/
def Obligations.MatrixUnit : Prop :=
  (let value (fmt : MatFmt) (x : Tok) (k i n : Nat) : Sys2Proof.Machine.Num :=
    if x.ok i then
      (match tagOf? x with | some (g, f) => taggedValue g f x (i * k + n) | none => fmt.lane.decode (tokElem fmt.lane.bits x (i * k + n)))
    else .fin false 0 0
  let sum (k : Nat) (a b : Nat → Sys2Proof.Machine.Num) (ta tb : Sys2Proof.Machine.Num) : Sys2Proof.Machine.Num :=
    match (ta.mul tb).mul ((List.range k).foldl (fun acc n => acc.add ((a n).mul (b n))) (.fin false 0 0)) with
    | .fin n m e => if m = 0 then .fin false 0 0 else .fin n m e
    | v => v
  let scale (c : Cell) (x : Tok) : Sys2Proof.Machine.Num :=
    match x.tag with | some g => fp32.decode (Tab.get 0 c.g g.tscale.toNat).toNat | none => .fin false 1 0
  let step (c d : Cell) (k : Nat) (a b : Nat → Nat → Sys2Proof.Machine.Num) (ta tb : Sys2Proof.Machine.Num) : Prop :=
    ∀ x < 16, ∀ y < 16, Tab.get 0 d.acc (16 * x + y) =
      BitVec.ofNat 32 (fp32.arith ((fp32.decode (Tab.get 0 c.acc (16 * x + y)).toNat).add (sum k (a x) (b y) ta tb)))
  (∀ (s : State) (r : RingId) (p : StripeId) (j : ColId) f pd fmt t1 t0 o (a : Tok), s.focus = .cell r p j → s.fabric r = some f →
    Fires (.mma pd fmt t1 t0) s o → o.l = some (.tok a) →
    let c := f.cell p j
    let d := c.wdesc
    let k := fmt.lane.perLane
    let fa := readFmt fmt.lane a
    let base := sliceKey r (j.val * 0x180000)
    let b : Tok := { data := BitVec.ofNat 512 (s.load (base + c.accPtr.w) 64), valid := 0xFFFF
                     side := if d.getLsbD 27 then BitVec.ofNat 64 (s.load (base + c.accPtr.s) 8) else 0
                     tag := some { fmt := BitVec.ofNat 4 fmt.code, bscale := d.getLsbD 27, spare := d.getLsbD 26 } }
    let tb := if d.getLsbD 25 then fp32.decode (Tab.get 0 c.g (d.extractLsb' 22 3).toNat).toNat else .fin false 1 0
    let formats : Prop := fa ≠ .int32 ∧ fa.perLane = k ∧ (d.getLsbD 27 = true → fmt.code = 3 ∨ fmt.code = 4 ∨ fmt.code = 5) ∧
      (d.getLsbD 26 = true → fmt.code = 5 ∧ d.getLsbD 27 = true)
    let inside : Prop := c.accPtr.w + 64 ≤ 0x180000 ∧ (d.getLsbD 27 = true → c.accPtr.s + 8 ≤ 0x180000)
    (formats → inside →
      ∃ (t u : State), ∃ g, Does (.mma pd fmt t1 t0) s t ∧ t = u.deliver (.mma pd fmt t1 t0) (.tok a) ∧ t.fabric r = some g ∧
        (g.cell p j).accPtr.w = c.accPtr.w + 64 ∧ (g.cell p j).accPtr.s = (if d.getLsbD 27 then c.accPtr.s + 8 else c.accPtr.s) ∧
        (g.cell p j).accPtr.row = c.accPtr.row ∧ (g.cell p j).sacc = c.sacc ∧ (g.cell p j).wdesc = d ∧ SameMemory s t ∧
        step c (g.cell p j) k (value fmt a k) (value fmt b k) (scale c a) tb) ∧
    (¬formats → Traps (.mma pd fmt t1 t0) s 0x02) ∧ (formats → ¬inside → Traps (.mma pd fmt t1 t0) s 0x0D)) ∧
  (∀ (s : State) (r : RingId) (p : StripeId) (j : ColId) f pd fmt t1 t0 o (a b : Tok), s.focus = .cell r p j → s.fabric r = some f →
    Fires (.mmat pd fmt t1 t0) s o → o.l = some (.tok a) → o.r = some (.tok b) →
    let c := f.cell p j
    let fa := readFmt fmt.lane a
    let fb := readFmt fmt.lane b
    let k := fa.perLane
    (fa ≠ .int32 → fb ≠ .int32 → k = fb.perLane →
      ∃ (t u : State), ∃ g, Does (.mmat pd fmt t1 t0) s t ∧ t = u.deliver (.mmat pd fmt t1 t0) (.tok a) ∧ t.fabric r = some g ∧ (g.cell p j).accPtr = c.accPtr ∧
        (g.cell p j).wdesc = c.wdesc ∧ SameMemory s t ∧ step c (g.cell p j) k (value fmt a k) (value fmt b k) (scale c a) (scale c b)) ∧
    ((fa = .int32 ∨ fb = .int32 ∨ k ≠ fb.perLane) → Traps (.mmat pd fmt t1 t0) s 0x02))) ∧
  ((∀ (s : State) (r : RingId) (p : StripeId) (j : ColId) f pd b o, s.focus = .cell r p j → s.fabric r = some f → Fires (.mzero pd b) s o →
    ∃ t g, Does (.mzero pd b) s t ∧ t.fabric r = some g ∧ (∀ n, Tab.get 0 ((g.cell p j).bank b) n = 0) ∧ ((g.cell p j).ptr b).row = 0 ∧
      ((g.cell p j).ptr b).w = ((f.cell p j).ptr b).w ∧ ((g.cell p j).ptr b).s = ((f.cell p j).ptr b).s ∧
      (∀ z, z ≠ b → (g.cell p j).bank z = (f.cell p j).bank z ∧ (g.cell p j).ptr z = (f.cell p j).ptr z)) ∧
  (∀ (s : State) (r : RingId) (p : StripeId) (j : ColId) f pd o, s.focus = .cell r p j → s.fabric r = some f → Fires (.mswap pd) s o →
    ∃ t g, Does (.mswap pd) s t ∧ t.fabric r = some g ∧ (g.cell p j).acc = (f.cell p j).sacc ∧ (g.cell p j).sacc = (f.cell p j).acc ∧
      (g.cell p j).accPtr = (f.cell p j).saccPtr ∧ (g.cell p j).saccPtr = (f.cell p j).accPtr) ∧
  (∀ (s : State) (r : RingId) (p : StripeId) (j : ColId) f pd b o (a : Tok), s.focus = .cell r p j → s.fabric r = some f → Fires (.mload pd b) s o → o.l = some (.tok a) →
    ∃ t g, Does (.mload pd b) s t ∧ t.fabric r = some g ∧ ((g.cell p j).ptr b).row = (((f.cell p j).ptr b).row + 1) % 16 ∧
      ∀ x < 16, ∀ y < 16, Tab.get 0 ((g.cell p j).bank b) (16 * x + y) =
        if x = ((f.cell p j).ptr b).row then (if a.ok y then a.lane y else 0) else Tab.get 0 ((f.cell p j).bank b) (16 * x + y)) ∧
  (∀ (s : State) (r : RingId) (p : StripeId) (j : ColId) f pd b clr t1 t0 o (a : Tok), s.focus = .cell r p j → s.fabric r = some f → (f.cell p j).drain = none →
    Fires (.mdrain pd b clr t1 t0) s o → o.l = some (.tok a) →
    ∃ (t u : State), ∃ g d, Does (.mdrain pd b clr t1 t0) s t ∧
      t = u.deliver (.mdrain pd b clr t1 t0) (.tok { data := lanesOf fun y => Tab.get 0 ((f.cell p j).bank b) y, valid := 0xFFFF }) ∧
      t.fabric r = some g ∧ (g.cell p j).drain = some d ∧ d.row = 1 ∧ d.bank = b ∧ d.clear = clr ∧ d.punct = a.punct ∧ d.node = s.focusIdx ∧
      d.rows = (List.range 16).map fun x => lanesOf fun y => Tab.get 0 ((f.cell p j).bank b) (16 * x + y)) ∧
  (∀ (s : State) (r : RingId) (p : StripeId) (j : ColId) f pd b clr t1 t0 d v row, s.focus = .cell r p j → s.fabric r = some f → (f.cell p j).drain = some d → d.node = s.focusIdx →
    s.view s.focus = some v → d.waits = [] → s.targetsFree s.focus s.focusIdx (.mdrain pd b clr t1 t0) = true → d.rows[d.row]? = some row →
    ∃ (t u : State), ∃ g, Does (.mdrain pd b clr t1 t0) s t ∧
      t = u.deliver (.mdrain pd b clr t1 t0) (.tok { data := row, valid := 0xFFFF, punct := if d.row = 15 then maxPunct 1 d.punct else 0 }) ∧
      t.fabric r = some g ∧ (d.row < 15 → (g.cell p j).drain = some { d with row := d.row + 1 }) ∧ (15 ≤ d.row → (g.cell p j).drain = none) ∧
      (15 ≤ d.row → d.clear = true → ((g.cell p j).ptr d.bank).row = 0 ∧ ∀ n, Tab.get 0 ((g.cell p j).bank d.bank) n = 0) ∧
      ((d.row < 15 ∨ d.clear = false) → (g.cell p j).bank d.bank = (f.cell p j).bank d.bank)) ∧
  (∀ (s : State) (r : RingId) (p : StripeId) (j : ColId) f pd b clr t1 t0 d v row, s.focus = .cell r p j → s.fabric r = some f → (f.cell p j).drain = some d → d.node = s.focusIdx →
    s.view s.focus = some v → d.rows[d.row]? = some row → d.row < 15 →
    let i : Instr := .mdrain pd b clr t1 t0
    let out : Val := .tok { data := row, valid := 0xFFFF }
    let keep (x : Drain) : State := s.modCell r p j fun c => { c with drain := some x }
    (d.waits = [] → s.targetFree s.focus s.focusIdx i t0 = true → s.targetFree s.focus s.focusIdx i t1 = false →
      Does i s ((keep { d with waits := [t1] }).deliverTo s.focus t0 out)) ∧
    (d.waits = [] → s.targetFree s.focus s.focusIdx i t0 = false → s.targetFree s.focus s.focusIdx i t1 = true →
      Does i s ((keep { d with waits := [t0] }).deliverTo s.focus t1 out)) ∧
    (∀ a, d.waits = [a] → s.targetFree s.focus s.focusIdx i a = true → Does i s ((keep { d with row := d.row + 1, waits := [] }).deliverTo s.focus a out)) ∧
    (∀ a, d.waits = [a] → s.targetFree s.focus s.focusIdx i a = false → Does i s s)) ∧
  (∀ (s : State) (r : RingId) (p : StripeId) (j : ColId) f pd o (a : Tok), s.focus = .cell r p j → s.fabric r = some f → Fires (.mscale pd) s o → o.l = some (.tok a) →
    let ok := (a.lane 0).toNat / 2 ^ 28 = 0 ∧ (a.lane 0).toNat % 2 ^ 22 = 0
    (a.ok 0 = true → ok → ∃ t g, Does (.mscale pd) s t ∧ t.fabric r = some g ∧ (g.cell p j).wdesc = a.lane 0) ∧
    (a.ok 0 = false → ∃ t g, Does (.mscale pd) s t ∧ t.fabric r = some g ∧ (g.cell p j).wdesc = (f.cell p j).wdesc ∧ t = s.consume (.mscale pd)) ∧
    (a.ok 0 = true → ¬ok → Traps (.mscale pd) s 0x02)) ∧
  (∀ (s : State) (r : RingId) (p : StripeId) (j : ColId) f pd b o (a : Tok), s.focus = .cell r p j → s.fabric r = some f → Fires (.mwaddr pd b) s o → o.l = some (.tok a) →
    let q := (f.cell p j).ptr b
    let w := if a.ok 0 then (a.lane 0).toNat else q.w
    let z := if a.ok 1 then (a.lane 1).toNat else q.s
    (w % 64 = 0 → z % 8 = 0 → (a.ok 0 = true → w < 0x180000) → (a.ok 1 = true → z < 0x180000) →
      ∃ t g, Does (.mwaddr pd b) s t ∧ t.fabric r = some g ∧ ((g.cell p j).ptr b).w = w ∧ ((g.cell p j).ptr b).s = z ∧ ((g.cell p j).ptr b).row = q.row) ∧
    ((w % 64 ≠ 0 ∨ z % 8 ≠ 0) → Traps (.mwaddr pd b) s 0x0C) ∧
    (w % 64 = 0 → z % 8 = 0 → (a.ok 0 = true ∧ 0x180000 ≤ w ∨ a.ok 1 = true ∧ 0x180000 ≤ z) → Traps (.mwaddr pd b) s 0x0D)))

/-- R175, R176, R184, R191, R192, R369 to R374: OUT puts its token, with a channel and no tag, at the tail of its port's link; the cell and pass
registers; and the filet islands' windows and results. A full pass register or pass entry raises cause 0x1A. -/
def Obligations.CellRegisters : Prop :=
  let sent (ch : BitVec 5) (a : Tok) : Entry := .tok { a with chan := ch, tag := none }
  let held (b a : Tok) : Prop := b.data = a.data ∧ b.valid = a.valid ∧ b.punct = a.punct ∧ b.side = a.side ∧ b.tag = none
  (∀ (s : State) (r : RingId) (p : StripeId) (j : ColId) f c pd port ch o (a : Tok), s.focus = .cell r p j → s.fabric r = some f → f.config p j = some c →
    Fires (.out pd port ch) s o → o.l = some (.tok a) →
    let s1 := ((s.consume (.out pd port ch)).modCell r p j (·.portUsed port (s.cycle r))).send (sent ch a) (s.outDest r f p j c port)
    (port = .left ∨ port = .right → Does (.out pd port ch) s s1) ∧ (port = .down → Does (.out pd port ch) s (s1.countToken r p true)) ∧
    (port = .edge → Does (.out pd port ch) s ((s1.countToken r p true).flowOut r))) ∧
  (∀ (s : State) (r : RingId) (p : StripeId) (j : ColId) f c pd port ch o (a : Tok) (q k : Nat) (to' : InPort), s.focus = .cell r p j → s.fabric r = some f →
    f.config p j = some c → Fires (.out pd port ch) s o → o.l = some (.tok a) →
    (port = .right ∧ q = p ∧ k = j.val + 1 ∧ to' = .left ∧ j.val < 31 ∨ port = .left ∧ q = p ∧ k + 1 = j.val ∧ to' = .right ∨
      port = .down ∧ f.scroll = false ∧ q = (p + 1) % f.p ∧ k = j ∧ to' = .up) →
    ∃ t g, Does (.out pd port ch) s t ∧ t.fabric r = some g ∧ (g.cell q k).fifo to' = (f.cell q k).fifo to' ++ [sent ch a] ∧ SameMemory s t) ∧
  (∀ (s : State) (r : RingId) (p : StripeId) (j : ColId) f pd port ch, s.focus = .cell r p j → s.fabric r = some f →
    (f.cell p j).portOpen port (s.cycle r) = false → s.ready (.out pd port ch) = .wait) ∧
  (∀ (s : State) (r : RingId) (p : StripeId) (j : ColId) f n t1 t0 o, s.focus = .cell r p j → s.fabric r = some f → Fires (.crd n t1 t0) s o →
    ∃ c : CReg, c = Tab.get {} (f.cell p j).cAt n.toNat ∧ Delivers (.crd n t1 t0) s (.tok { data := c.data, valid := c.valid })) ∧
  (∀ (c : Cell) ws m, (c.activate ws m).cAt = m.c ∧ (c.activate ws m).c = m.c) ∧
  (∀ (s : State) (r : RingId) (p : StripeId) (j : ColId) f n t1 t0 o (a : Tok), s.focus = .cell r p j → s.fabric r = some f → Fires (.cwr n t1 t0) s o → o.l = some (.tok a) →
    ∃ (t u : State), ∃ g, Does (.cwr n t1 t0) s t ∧ t = u.deliver (.cwr n t1 t0) (.tok a) ∧ t.fabric r = some g ∧
      Tab.get {} (g.cell p j).c n.toNat = { data := a.data, valid := a.valid } ∧ (g.cell p j).cAt = (f.cell p j).cAt ∧
      ∀ k, k ≠ n.toNat → Tab.get {} (g.cell p j).c k = Tab.get {} (f.cell p j).c k) ∧
  (∀ (s : State) (r : RingId) (p : StripeId) (j : ColId) f n t1 t0 o (a b : Tok), s.focus = .cell r p j → s.fabric r = some f → Fires (.prd n t1 t0) s o → o.l = some (.tok a) →
    f.passReg.look (passKey (f.above p) j n.toNat) = some b →
    Does (.prd n t1 t0) s (((s.modFabric r fun g => { g with passReg := g.passReg.del (passKey (f.above p) j n.toNat) }).consume
      (.prd n t1 t0)).deliver (.prd n t1 t0) (.tok b))) ∧
  (∀ (s : State) (r : RingId) (p : StripeId) (j : ColId) f n t1 t0 o (a : Tok) k key h, s.focus = .cell r p j → s.fabric r = some f → Fires (.pwr n t1 t0) s o →
    o.l = some (.tok a) → s.passDest { r := r, p := p, j := j, cell := f.cell p j } f n.toNat = .reg k key → s.fabric k = some h →
    (h.passReg.look key = none → ∃ (t u : State), ∃ g b, Does (.pwr n t1 t0) s t ∧ t = u.deliver (.pwr n t1 t0) (.tok a) ∧ t.fabric k = some g ∧
      g.passReg.look key = some b ∧ held b a ∧ SameMemory s t) ∧
    ((h.passReg.look key).isSome = true → Traps (.pwr n t1 t0) s 0x1A)) ∧
  (∀ (s : State) (r : RingId) (p : StripeId) (j : ColId) f n t1 t0 o (a : Tok) k i m key h, s.focus = .cell r p j → s.fabric r = some f → Fires (.pwr n t1 t0) s o →
    o.l = some (.tok a) → s.passDest { r := r, p := p, j := j, cell := f.cell p j } f n.toNat = .entry k i m key → s.fabric k = some h →
    (h.passEntry.look key = none → ∃ (t u : State), ∃ g b, Does (.pwr n t1 t0) s t ∧ t = u.deliver (.pwr n t1 t0) (.tok a) ∧ t.fabric k = some g ∧
      g.passEntry.look key = some b ∧ held b a) ∧
    ((h.passEntry.look key).isSome = true → Traps (.pwr n t1 t0) s 0x1A)) ∧
  (∀ (s : State) (r : RingId) (p : StripeId) (j : ColId) f (n : BitVec 2), s.fabric r = some f →
    (f.scroll = false → s.passDest { r := r, p := p, j := j, cell := f.cell p j } f n.toNat = .reg r ((32 * p.val + j.val) * 4 + n.toNat)) ∧
    (f.scroll = true → f.nextRing = r → 0 < f.p → f.inWindow ((f.stripe p).a + 1) = false →
      s.passDest { r := r, p := p, j := j, cell := f.cell p j } f n.toNat = .entry r j n.toNat (4 * wrapKey ((f.stripe p).a + 1) j + n.toNat))) ∧
  (∀ (s : State) (r : RingId) (p : StripeId) (j : ColId) f k pd t1 t0 o (a : Tok), s.focus = .cell r p j → s.fabric r = some f → Fires (.fbits pd k t1 t0) s o → o.l = some (.tok a) →
    let now := s.cycle r
    let bits : Word := (if a.ok (2 * k.toNat + 1) then a.lane (2 * k.toNat + 1) else 0) ++ (if a.ok (2 * k.toNat) then a.lane (2 * k.toNat) else 0)
    ∃ (t u : State), ∃ g, Does (.fbits pd k t1 t0) s t ∧
      t = (u.deliverTo s.focus t0 (.tok a) false (now + 2)).deliverTo s.focus t1 (.tok a) false (now + 2) ∧ t.fabric r = some g ∧
      (g.cell p j).xAt (now + 2) = bits ∧
      ((f.cell p j).xs.Pairwise (fun x y => x.1 ≤ y.1) → (g.cell p j).xAt now = (f.cell p j).xAt now ∧
        (g.cell p j).xAt (now + 1) = (f.cell p j).xAt (now + 1))) ∧
  (∀ (s : State) (r : RingId) (p : StripeId) (j : ColId) f k pd t1 t0 o (a : Tok), s.focus = .cell r p j → s.fabric r = some f → Fires (.fget pd k t1 t0) s o → o.l = some (.tok a) →
    ∃ t : Tok, Delivers (.fget pd k t1 t0) s (.tok t) ∧ Plain t a.punct ∧ (∀ i < 16, t.ok i = decide (i = 2 * k.toNat ∨ i = 2 * k.toNat + 1)) ∧
      t.lane (2 * k.toNat + 1) ++ t.lane (2 * k.toNat) =
        islandResult (f.islands.get [] (8 * (f.stripe p).word.vstripe.toNat + j.val / 4)) ((f.cell p (j.val / 4 * 4)).xAt (s.cycle r))
          ((f.cell p (j.val / 4 * 4 + 1)).xAt (s.cycle r)) ((f.cell p (j.val / 4 * 4 + 2)).xAt (s.cycle r))
          ((f.cell p (j.val / 4 * 4 + 3)).xAt (s.cycle r))) ∧
  (∀ (tables : List (BitVec 16)) (x0 x1 x2 x3 : Word),
    let lut (n : Nat) (a b c d : Bool) : Bool :=
      (tables.getD n 0).getLsbD ((if a then 1 else 0) + (if b then 2 else 0) + (if c then 4 else 0) + (if d then 8 else 0))
    ∃ y : Nat → Word, islandResult tables x0 x1 x2 x3 = y 3 ∧
      (∀ k < 64, (y 0).getLsbD k = lut k (x0.getLsbD k) (x1.getLsbD k) (x2.getLsbD k) (x3.getLsbD k)) ∧
      ∀ l < 3, ∀ k < 64,
        let d := 4 ^ l
        let b := k - k / d % 4 * d
        (y (l + 1)).getLsbD k = lut (64 * (l + 1) + k) ((y l).getLsbD b) ((y l).getLsbD (b + d)) ((y l).getLsbD (b + 2 * d)) ((y l).getLsbD (b + 3 * d)))

/-! ## The sequencer's words -/

/-- R300, R301, R380, R386: an exit sets where the block leads: BR and CALL to the block at four bytes an offset, CALL with the address past the
block to return to, RET to the last return address, DONE to the end of the task. A second exit, a full or an empty stack raises its cause. TRAP and
BRK take causes 0x3C and 0x39, with the block's header address, and the code in VA. -/
def Obligations.Exits : Prop :=
  (let exitIs (s t : State) (r : RingId) (b : Blk) (e : Exit) : Prop :=
    ∃ c, (t.ring r).seqr.blk = some c ∧ c.exit = some e ∧ c.addr = b.addr ∧ c.words = b.words ∧ c.items = b.items ∧
      (t.ring r).seqr.pc = (s.ring r).seqr.pc
  ∀ (s : State) (r : RingId) b pd o, s.focus = .seq r → (s.ring r).seqr.blk = some b →
    (b.exit = none →
      (∀ off, Fires (.br pd off) s o → ∃ t, Does (.br pd off) s t ∧ exitIs s t r b (.to (b.addr + BitVec.ofInt 64 (4 * off.toInt)))) ∧
      (∀ off, Fires (.call pd off) s o → (s.ring r).seqr.stack.length < 32 →
        ∃ t, Does (.call pd off) s t ∧ exitIs s t r b (.call (b.addr + BitVec.ofInt 64 (4 * off.toInt)) b.past)) ∧
      (∀ off, Fires (.call pd off) s o → 32 ≤ (s.ring r).seqr.stack.length → Traps (.call pd off) s 0x38) ∧
      (∀ l a, Fires (.ret pd) s o → (s.ring r).seqr.stack = l ++ [a] → ∃ t, Does (.ret pd) s t ∧ exitIs s t r b (.ret a)) ∧
      (Fires (.ret pd) s o → (s.ring r).seqr.stack = [] → Traps (.ret pd) s 0x38) ∧
      (Fires (.done pd) s o → ∃ t, Does (.done pd) s t ∧ exitIs s t r b .done)) ∧
    (b.exit.isSome = true →
      (∀ off, Fires (.br pd off) s o → Traps (.br pd off) s 0x04) ∧ (∀ off, Fires (.call pd off) s o → Traps (.call pd off) s 0x04) ∧
      (Fires (.ret pd) s o → Traps (.ret pd) s 0x04) ∧ (Fires (.done pd) s o → Traps (.done pd) s 0x04))) ∧
  (∀ (s : State) (r : RingId) o pd (b : Blk) (t : Task), s.focus = .seq r → (s.ring r).cur = some t → (s.ring r).seqr.blk = some b →
    (s.ctx t.ctx).halted = false →
    (∀ code, Fires (.trap pd code) s o → ∃ u, Does (.trap pd code) s u ∧ (u.ctx t.ctx).halted = true ∧
      ((u.ctx t.ctx).fault.get {} r).cause = 0x3C ∧ ((u.ctx t.ctx).fault.get {} r).block = b.addr ∧
      ((u.ctx t.ctx).fault.get {} r).va = code.setWidth 64 ∧ (u.ring r).seqr.blk = none ∧ (u.ring r).seqr.pc = b.addr) ∧
    (∀ code, Fires (.brk pd code) s o → ∃ u, Does (.brk pd code) s u ∧ (u.ctx t.ctx).halted = true ∧
      ((u.ctx t.ctx).fault.get {} r).cause = 0x39 ∧ ((u.ctx t.ctx).fault.get {} r).block = b.addr ∧
      ((u.ctx t.ctx).fault.get {} r).va = code.setWidth 64 ∧ (u.ring r).seqr.blk = none ∧ (u.ring r).seqr.pc = b.addr))

/-- R381: READ and READV deliver a register as it stands before the block, a v register as an untagged token without punctuation; a WRITE
is recorded for the commit, and one of a token beyond v7 raises cause 0x05. -/
def Obligations.RegisterWords : Prop :=
  (∀ s (r : RingId) n t1 t0 o, s.focus = .seq r → Fires (.read n t1 t0) s o →
    Delivers (.read n t1 t0) s (.sc (Tab.get 0 (s.ring r).seqr.x n.toNat))) ∧
  (∀ s (r : RingId) n t1 t0 o v, s.focus = .seq r → Fires (.readv n t1 t0) s o → v = Tab.get {} (s.ring r).seqr.v n.toNat →
    Delivers (.readv n t1 t0) s (.tok { data := VReg.data v, valid := VReg.valid v })) ∧
  (∀ s n o x, Fires (.write n) s o → o.l = some (.sc x) → Records (.write n) s (.write n (.sc x))) ∧
  (∀ s n o x, Fires (.write n) s o → o.l = some (.tok x) → n.toNat < 8 → Records (.write n) s (.write n (.tok x))) ∧
  (∀ s n o x, Fires (.write n) s o → o.l = some (.tok x) → 8 ≤ n.toNat → Traps (.write n) s 0x05)

/-- R383, R385, R386: FORK records its image, which must be 64-byte aligned; RDV gives the cycles of a completed fork, or 0 for a free handle, and
frees the handle at the block's commit; WAIT delivers 0, once its cycles have passed since the check of its block and not before. -/
def Obligations.ForkRdvWait : Prop :=
  ((∀ s pd h sn m o x, Fires (.fork pd h sn m) s o → o.l = some (.sc x) → x.toNat % 64 = 0 → Records (.fork pd h sn m) s (.fork h x)) ∧
  (∀ s pd h sn m o x, Fires (.fork pd h sn m) s o → o.l = some (.sc x) → x.toNat % 64 ≠ 0 → Does (.fork pd h sn m) s (s.failWord 0x0C (some x))) ∧
  (∀ s pd h sn m o x, Fires (.fork pd h sn m) s o → o.l = some (.tok x) → Traps (.fork pd h sn m) s 0x05) ∧
  (∀ s (r : RingId) b pd h t0 o, s.focus = .seq r → (s.ring r).seqr.blk = some b → Fires (.rdv pd h t0) s o →
    Does (.rdv pd h t0) s (((s.consume (.rdv pd h t0)).deliver (.rdv pd h t0)
        (.sc (match Tab.get .free (s.ring r).seqr.handles h.toNat with
          | .complete _ n => if b.freed.contains h then 0 else BitVec.ofNat 64 (min n (2 ^ 32 - 1))
          | _ => 0))).modSeqr r
      fun q => { q with blk := q.blk.map fun b => { b with freed := h :: b.freed } })) ∧
  (∀ s (r : RingId) b pd h t0 o op n, s.focus = .seq r → (s.ring r).seqr.blk = some b → b.freed.contains h = false → Fires (.rdv pd h t0) s o →
    Tab.get .free (s.ring r).seqr.handles h.toNat = Handle.complete op n →
    ∃ t c, Does (.rdv pd h t0) s t ∧ t = ((s.consume (.rdv pd h t0)).deliver (.rdv pd h t0) (.sc (BitVec.ofNat 64 (min n (2 ^ 32 - 1))))).modSeqr r
      (fun q => { q with blk := q.blk.map fun b => { b with freed := h :: b.freed } }) ∧ (t.ring r).seqr.blk = some c ∧ c.freed = h :: b.freed) ∧
  (∀ s (r : RingId) pd h t0 o, s.focus = .seq r → Fires (.rdv pd h t0) s o → Tab.get .free (s.ring r).seqr.handles h.toNat = Handle.free →
    ∃ t, Does (.rdv pd h t0) s t ∧ t = ((s.consume (.rdv pd h t0)).deliver (.rdv pd h t0) (.sc 0)).modSeqr r
      fun q => { q with blk := q.blk.map fun b => { b with freed := h :: b.freed } }) ∧
  (∀ s pd n t0 o, Fires (.wait pd n t0) s o → Delivers (.wait pd n t0) s (.sc 0))) ∧
  (∀ (s : State) (r : RingId) t b pd n, s.focus = .seq r → s.running r = some t → (s.ring r).seqr.blk = some b →
    (s.cycle r + 1 < b.since + n.toNat ∨ s.cycle r < b.since → pd = .always → Does (.wait pd n .null) s s) ∧
    (b.since + n.toNat ≤ s.cycle r + 1 → b.since ≤ s.cycle r → pd = .always → (s.node s.focus s.focusIdx).fired = false → (s.node s.focus s.focusIdx).dead = false →
      (s.node s.focus s.focusIdx).tokenP = false → s.issues s.focus s.focusIdx (.wait pd n .null) = true → Delivers (.wait pd n .null) s (.sc 0)))

/-- R108, R172, R195, R378, R382, R386, R396 to R398, R400: YIELD, ERET, SYSW and TLBINV become commit items; the privileged ones raise cause 0x08
in a task at user level; a write of a read-only register raises 0x08, and one of a reserved index, with a reserved field or with a field out of its range
0x02; the size of a TLBINV is judged before the level, in the order of its description (log 97). -/
def Obligations.PrivilegeAndSystemWrites : Prop :=
  ∀ (s : State) (r : RingId) o pd, s.focus = .seq r →
    (∀ e, Fires (.yield pd e) s o → Records (.yield pd e) s (.yield e)) ∧
    (Fires (.eret pd) s o → (s.ring r).seqr.priv = true → Records (.eret pd) s .eret) ∧
    (Fires (.eret pd) s o → (s.ring r).seqr.priv = false → Traps (.eret pd) s 0x08) ∧
    (∀ (n : BitVec 13) x, Fires (.sysw pd n) s o → o.l = some (.sc x) →
      (n.toNat < 0x008 ∨ (0x009 ≤ n.toNat ∧ n.toNat ≤ 0x00E) ∨ (0x010 ≤ n.toNat ∧ n.toNat ≤ 0x023) → Traps (.sysw pd n) s 0x08) ∧
      (n.toNat = 0x00F ∨ (0x025 ≤ n.toNat ∧ n.toNat ≤ 0x02F) ∨ 0x039 ≤ n.toNat → Traps (.sysw pd n) s 0x02) ∧
      (n = 0x008 → if x.toNat < 2 ^ 16 then Records (.sysw pd n) s (.sysw n x) else Traps (.sysw pd n) s 0x02) ∧
      (n = 0x024 → (s.ring r).seqr.priv = false → Traps (.sysw pd n) s 0x08) ∧
      (n = 0x024 → (s.ring r).seqr.priv = true →
        let target := x.toNat / 2 ^ 57 % 8
        let unit := x.toNat / 2 ^ 48 % 2 ^ 9
        if x.toNat / 2 ^ 60 % 4 = 0 ∧ x.toNat / 2 ^ 9 % 2 ^ 23 = 0 ∧ target ≤ 4 ∧ (target = 0 → unit < 16) ∧ (target = 1 → unit < 8) ∧ (target = 4 → unit < 16)
        then Records (.sysw pd n) s (.sysw n x) else Traps (.sysw pd n) s 0x02) ∧
      (n = 0x030 → if x.toNat < 8 then Records (.sysw pd n) s (.sysw n x) else Traps (.sysw pd n) s 0x02) ∧
      (0x031 ≤ n.toNat → n.toNat ≤ 0x038 →
        if x.toNat < 2 ^ 59 ∧ (x.toNat % 256 ≤ 0x0D ∨ x.toNat % 256 = 0xFF) then Records (.sysw pd n) s (.sysw n x) else Traps (.sysw pd n) s 0x02)) ∧
    (∀ (n : BitVec 13) x, Fires (.sysw pd n) s o → o.l = some (.tok x) → Traps (.sysw pd n) s 0x05) ∧
    (∀ sn m a n, Fires (.tlbinv pd sn m) s o → o.l = some (.sc a) → o.r = some (.sc n) →
      (4 ≤ n.toNat → Traps (.tlbinv pd sn m) s 0x02) ∧ (n.toNat < 4 → (s.ring r).seqr.priv = false → Traps (.tlbinv pd sn m) s 0x08) ∧
      (n.toNat < 4 → (s.ring r).seqr.priv = true → Records (.tlbinv pd sn m) s (.tlbinv a (n.setWidth 2))))

/-- R45, R65, R109, R142, R153, R159, R172, R195, R243, R396 to R399: what every system register gives as it is read, that a reserved index reads zero,
the cause of a supervisor register at user level, ground time, the feature words and the counters. -/
def Obligations.SystemReads : Prop :=
  ∀ (s : State) (r : RingId) (t : Task) o pd t0, s.focus = .seq r → (s.ring r).cur = some t →
    (∀ n : BitVec 13, Fires (.sysr pd n t0) s o → (n.toNat < 0x020 ∨ 0x025 ≤ n.toNat ∨ (s.ring r).seqr.priv = true) →
      Delivers (.sysr pd n t0) s (.sc (s.sysRead r t n.toNat))) ∧
    (∀ n : BitVec 13, Fires (.sysr pd n t0) s o → 0x020 ≤ n.toNat → n.toNat ≤ 0x024 → (s.ring r).seqr.priv = false → Traps (.sysr pd n t0) s 0x08) ∧
    s.sysRead r t 0x000 = BitVec.ofNat 64 t.ctx.val ∧ s.sysRead r t 0x001 = (if (s.ring r).seqr.priv then 1 else 0) ∧
    s.sysRead r t 0x002 = BitVec.ofNat 64 (r.val + 2 ^ 16 * Config.chip.toNat) ∧
    s.sysRead r t 0x003 = (s.ctx t.ctx).touched.setWidth 64 ∧ s.sysRead r t 0x004 = t.tile.setWidth 64 ∧ s.sysRead r t 0x005 = t.count.setWidth 64 ∧
    s.sysRead r t 0x006 = t.arg ∧ s.sysRead r t 0x007 = (s.ring r).stripes.setWidth 64 ∧
    s.sysRead r t 0x008 = (s.ring r).seqr.poolPart.setWidth 64 ∧
    s.sysRead r t 0x009 = (if (s.ring r).slice.req then BitVec.ofNat 64 (2 ^ 32 * (s.remain r % 2 ^ 25) + 1) else 0) ∧
    ((s.ring r).slice.remainAt = none → s.remain r = (s.ring r).slice.remain) ∧
    (∀ n, (s.ring r).slice.remainAt = some n → s.remain r = (s.ring r).slice.remain - (s.cycle r - n)) ∧
    s.sysRead r t 0x00A = BitVec.ofNat 64 (2 ^ (t.yclass + 8)) ∧
    s.sysRead r t 0x00B = ((s.die (r.val / 4)).allow.get 0 (r.val % 4)).setWidth 64 ∧
    s.sysRead r t 0x00C = s.dev.window.setWidth 64 ∧ s.sysRead r t 0x00D = (if s.dev.flush then 1 else 0) ∧
    s.sysRead r t 0x00E = BitVec.ofNat 64 (2 ^ 32 * (Tab.get 0 (s.ring r).srCycles t.ctx.val).toNat + (if (s.ring r).forcedLast then 2 else 0) +
      if (s.ring r).slice.raised then 1 else 0) ∧
    s.sysRead r t 0x00F = 0 ∧
    (∀ n < 8, s.sysRead r t (0x010 + n) = (Tab.get 0 (s.ring r).seqr.issued n).setWidth 64 ∧
      s.sysRead r t (0x018 + n) = (Tab.get 0 (s.ring r).seqr.done n).setWidth 64) ∧
    s.sysRead r t 0x020 = ((s.ctx t.ctx).fault.get {} r).cause ∧ s.sysRead r t 0x021 = ((s.ctx t.ctx).fault.get {} r).block ∧
    s.sysRead r t 0x022 = ((s.ctx t.ctx).fault.get {} r).va ∧ s.sysRead r t 0x023 = ((s.ctx t.ctx).fault.get {} r).engine ∧
    s.sysRead r t 0x024 = (s.ring r).errInject ∧ (∀ n, 0x025 ≤ n → n ≤ 0x02F → s.sysRead r t n = 0) ∧
    s.sysRead r t 0x030 = BitVec.ofNat 64 ((if (s.ring r).seqr.perf.step then 4 else 0) + if (s.ring r).seqr.perf.enable then 1 else 0) ∧
    (∀ n < 8, s.sysRead r t (0x031 + n) = BitVec.ofNat 64 ((Tab.get 0 (s.ring r).seqr.perf.waddr n).toNat * 256 + (Tab.get 0 (s.ring r).seqr.perf.event n).toNat)) ∧
    (∀ n, 0x039 ≤ n → s.sysRead r t n = 0) ∧
    (Fires (.gtime pd t0) s o → Delivers (.gtime pd t0) s (.sc s.gt)) ∧
    (Fires (.feat pd .version t0) s o → Delivers (.feat pd .version t0) s (.sc 2)) ∧
    (Fires (.feat pd .devId t0) s o → Delivers (.feat pd .devId t0) s (.sc devId)) ∧
    (Fires (.feat pd .chip t0) s o → Delivers (.feat pd .chip t0) s (.sc (Config.chip.setWidth 64))) ∧
    (Fires (.feat pd .live t0) s o → Delivers (.feat pd .live t0) s (.sc (s.dev.live.setWidth 64))) ∧
    (∀ n, Fires (.perf pd n t0) s o → Delivers (.perf pd n t0) s (.sc (Tab.get 0 (s.ring r).seqr.perf.count n.toNat)))

/-! ## Memory operations as they fire -/

/-- R388: the checks of an access in their order: an atomic's space, a word that io does not take, the space's limit, alignment, in space g the
translation and its rights, a watched sector, and the format of a word for the aperture; and where a byte that passes lies. The limit is judged on the
access's first byte (log 53), a watch sees loads, stores and atomics alone. -/
def Obligations.AccessChecks : Prop :=
  ∀ (s : State) (r : RingId) (t : Task) (q : Req) (l : Word),
    (q.atomic = true → (q.sp = .w ∨ q.sp = .io) → s.access r t q l = .fail s 0x0F) ∧
    (q.atomic = false → q.sp = .io → q.io = none → s.access r t q l = .fail s 0x11) ∧
    (q.sp = .p → 2 ^ 24 ≤ l.toNat → s.access r t q l = .fail s 0x0D) ∧
    (q.atomic = false → q.sp = .w → 0x3000000 ≤ l.toNat → s.access r t q l = .fail s 0x0D) ∧
    (q.sp = .g → 2 ^ 57 ≤ l.toNat → s.access r t q l = .fail s 0x0D) ∧
    (q.atomic = false → q.sp = .io → q.io.isSome = true → 0x100 ≤ l.toNat → s.access r t q l = .fail s 0x0D) ∧
    (q.sp = .p → l.toNat < 2 ^ 24 → l.toNat % q.n ≠ 0 → s.access r t q l = .fail s 0x0C) ∧
    (q.atomic = false → q.sp = .w → l.toNat < 0x3000000 → l.toNat % q.n ≠ 0 → s.access r t q l = .fail s 0x0C) ∧
    (q.atomic = false → q.sp = .io → q.io.isSome = true → l.toNat < 0x100 → l.toNat % q.n ≠ 0 → s.access r t q l = .fail s 0x0C) ∧
    (q.sp = .p → l.toNat < 2 ^ 24 → l.toNat % q.n = 0 → ∃ a, s.access r t q l = .pass s a ∧ a.va = l ∧ a.n = q.n ∧ a.home = .pool ∧
      a.key = poolKey r l.toNat) ∧
    (q.atomic = false → q.sp = .w → l.toNat < 0x3000000 → l.toNat % q.n = 0 → ∃ a, s.access r t q l = .pass s a ∧ a.va = l ∧ a.home = .slice ∧
      a.key = sliceKey r l.toNat) ∧
    (q.sp = .g → l.toNat < 2 ^ 57 → l.toNat % q.n ≠ 0 → s.access r t q l = .fail s 0x0C) ∧
    (q.sp = .g → l.toNat < 2 ^ 57 → l.toNat % q.n = 0 → s.lookup r t.ctx l q.use = .miss → s.access r t q l = .miss) ∧
    (∀ c, q.sp = .g → l.toNat < 2 ^ 57 → l.toNat % q.n = 0 → s.lookup r t.ctx l q.use = .cause c → s.access r t q l = .fail s c) ∧
    (∀ s1 a, Passes s r t q l s1 a → s.access r t q l = .pass s1 a) ∧
    (∀ key home s1, q.sp = .g → l.toNat < 2 ^ 57 → l.toNat % q.n = 0 → s.lookup r t.ctx l q.use = .place key home → s1 = s.reached r t.ctx l home →
      q.watch = true → (s.ring r).seqr.perf.watches l = true →
      s.access r t q l = .fail (s1.modSeqr r fun z => { z with perf := z.perf.watched l }) 0x3B) ∧
    (∀ v, q.atomic = false → q.sp = .io → q.n = 8 → q.io = some v → l.toNat < 0x100 → l.toNat % 8 = 0 → apertureOk l v = false →
      s.access r t q l = .fail s 0x11)

/-- R114, R240, R241, R294, R387 to R389: a load that its checks pass issues at once: one operation joins the ring, on the load's strand, with a
snapshot of exactly the operations that its strand and mask hold; one whose checks fail raises the cause, and names its address; one whose
translation misses asks for it and stays unfired. -/
def Obligations.Loads : Prop :=
  (let issues (i : Instr) (sp : Space) (n : Nat) (sn : Strand) (m : SMask) (excl : Bool) (t0 : Target) : Prop :=
    ∀ (s s1 : State) (r : RingId) (t : Task) (b : Blk) o l a, s.focus = .seq r → (s.ring r).cur = some t → (s.ring r).seqr.blk = some b →
      Fires i s o → o.l = some (.sc l) → Passes s r t { sp := sp, n := n, use := .read } l s1 a →
      ∃ u op, Does i s u ∧ (u.ring r).seqr.ops = (s.ring r).seqr.ops ++ [op] ∧ op.work = .load a s.focusIdx t0 ∧ op.strand = sn ∧ op.mask = m ∧
        op.excl = excl ∧ op.committed = false ∧ op.stage = .queued ∧ op.ctx = t.ctx ∧
        (∀ k, k ∈ op.snap ↔ ∃ y ∈ (s.ring r).seqr.ops, y.id = k ∧ (m.getLsbD y.strand.toNat ∨ (y.strand = sn ∧ (excl ∨ y.excl))))
  (∀ pd sp sn m t0, issues (.ld8 pd sp sn m t0) sp 1 sn m false t0) ∧ (∀ pd sp sn m t0, issues (.ld16 pd sp sn m t0) sp 2 sn m false t0) ∧
  (∀ pd sp sn m t0, issues (.ld32 pd sp sn m t0) sp 4 sn m false t0) ∧ (∀ pd sp sn m t0, issues (.ld64 pd sp sn m t0) sp 8 sn m false t0) ∧
  (∀ pd sp sn m t0, issues (.ldt pd sp sn m t0) sp 64 sn m false t0) ∧ (∀ pd sp sn m t0, issues (.ldx64 pd sp sn m t0) sp 8 sn m true t0)) ∧
  (let both (i : Instr) (sp : Space) (n : Nat) : Prop :=
    ∀ (s : State) (r : RingId) (t : Task) o l, s.focus = .seq r → (s.ring r).cur = some t → Fires i s o → o.l = some (.sc l) →
      (∀ s1 c, s.access r t { sp := sp, n := n, use := .read } l = .fail s1 c → Does i s (s1.trapSeq r c l)) ∧
      (s.access r t { sp := sp, n := n, use := .read } l = .miss → Does i s (s.miss r t.ctx l .read .sequencer (s.blockVa r)))
  (∀ pd sp sn m t0, both (.ld8 pd sp sn m t0) sp 1) ∧ (∀ pd sp sn m t0, both (.ld16 pd sp sn m t0) sp 2) ∧
  (∀ pd sp sn m t0, both (.ld32 pd sp sn m t0) sp 4) ∧ (∀ pd sp sn m t0, both (.ld64 pd sp sn m t0) sp 8) ∧
  (∀ pd sp sn m t0, both (.ldt pd sp sn m t0) sp 64) ∧ (∀ pd sp sn m t0, both (.ldx64 pd sp sn m t0) sp 8))

/-- R210, R378, R387, R390, R391: a store, an atomic or PREF that its checks pass becomes a commit item with its access and operands; an ST64
to io starts a shuttle; and the new value of each integer atomic from the old value and its operands. -/
def Obligations.StoresAndAtomics : Prop :=
  (let store (i : Instr) (sp : Space) (n : Nat) : Prop :=
    ∀ (s s1 : State) (r : RingId) (t : Task) o l x a, s.focus = .seq r → (s.ring r).cur = some t → Fires i s o → o.l = some (.sc l) →
      o.r = some (.sc x) → Passes s r t { sp := sp, n := n, use := .write, io := if n = 8 then some x else none } l s1 a →
      Does i s (s1.pushItem i (.store a (x.setWidth 512) 0xFFFF))
  let atomic (i : Instr) (k : AtomKind) (sp : Space) : Prop :=
    ∀ (s s1 : State) (r : RingId) (t : Task) o l x a, s.focus = .seq r → (s.ring r).cur = some t → Fires i s o → o.l = some (.sc l) →
      o.r = some (.sc x) → Passes s r t { sp := sp, n := k.bytes, use := .write, atomic := true } l s1 a →
      Does i s (s1.pushItem i (.atomic k a x (match o.t with | some (.sc y) => y | _ => 0)))
  (∀ pd sp sn m, store (.st8 pd sp sn m) sp 1) ∧ (∀ pd sp sn m, store (.st16 pd sp sn m) sp 2) ∧ (∀ pd sp sn m, store (.st32 pd sp sn m) sp 4) ∧
  (∀ pd sp sn m, store (.st64 pd sp sn m) sp 8) ∧
  (∀ (s : State) (r : RingId) (t : Task) pd sn m o l x, s.focus = .seq r → (s.ring r).cur = some t → Fires (.st64 pd .io sn m) s o →
    o.l = some (.sc l) → o.r = some (.sc x) → l.toNat < 0x100 → l.toNat % 16 = 0 → x.toNat / 2 ^ 14 % 4 = 0 → x.toNat / 2 ^ 16 % 64 = 0 →
    Records (.st64 pd .io sn m) s (.aperture (Fin.ofNat 16 (l.toNat / 16)) x)) ∧
  (∀ (s s1 : State) (r : RingId) (t : Task) pd sp sn m o l (x : Tok) a, s.focus = .seq r → (s.ring r).cur = some t → Fires (.stt pd sp sn m) s o →
    o.l = some (.sc l) → o.r = some (.tok x) → Passes s r t { sp := sp, n := 64, use := .write } l s1 a →
    Does (.stt pd sp sn m) s (s1.pushItem (.stt pd sp sn m) (.store a x.data x.valid))) ∧
  (∀ s pd sn m o l x, Fires (.pref pd sn m) s o → o.l = some (.sc l) → o.r = some (.sc x) →
    Records (.pref pd sn m) s (.pref (l &&& 0x1FFFFFFFFFFFFFF) (x.toNat % 2 ^ 48) (x.getLsbD 63))) ∧
  (∀ pd sp sn m t0, atomic (.aadd pd sp sn m t0) .add sp ∧ atomic (.amin pd sp sn m t0) .min sp ∧ atomic (.amax pd sp sn m t0) .max sp ∧
    atomic (.aminu pd sp sn m t0) .minu sp ∧ atomic (.amaxu pd sp sn m t0) .maxu sp ∧ atomic (.aand pd sp sn m t0) .and sp ∧
    atomic (.aor pd sp sn m t0) .or sp ∧ atomic (.axor pd sp sn m t0) .xor sp ∧ atomic (.axchg pd sp sn m t0) .xchg sp ∧
    atomic (.afadd pd sp sn m t0) .fadd sp ∧ atomic (.afmax pd sp sn m t0) .fmax sp) ∧
  (∀ (s s1 : State) (r : RingId) (t : Task) pd sp sn m t0 o l x y a, s.focus = .seq r → (s.ring r).cur = some t → Fires (.acas pd sp sn m t0) s o →
    o.l = some (.sc l) → o.r = some (.sc x) → o.t = some (.sc y) → Passes s r t { sp := sp, n := 8, use := .write, atomic := true } l s1 a →
    Does (.acas pd sp sn m t0) s (s1.pushItem (.acas pd sp sn m t0) (.atomic .cas a x y)))) ∧
  (∀ old b c : Word,
    AtomKind.add.apply old b c = old + b ∧ AtomKind.and.apply old b c = old &&& b ∧ AtomKind.or.apply old b c = old ||| b ∧
    AtomKind.xor.apply old b c = old ^^^ b ∧ AtomKind.xchg.apply old b c = b ∧ AtomKind.cas.apply old b c = (if old = b then c else old) ∧
    (AtomKind.min.apply old b c).toInt = min old.toInt b.toInt ∧ (AtomKind.max.apply old b c).toInt = max old.toInt b.toInt ∧
    (AtomKind.minu.apply old b c).toNat = min old.toNat b.toNat ∧ (AtomKind.maxu.apply old b c).toNat = max old.toNat b.toNat ∧
    let lo (x : Word) : Nat := x.toNat % 2 ^ 32
    AtomKind.fadd.apply old b c = BitVec.ofNat 64 (fp32.arith ((fp32.decode (lo old)).add (fp32.decode (lo b)))) ∧
    AtomKind.fmax.apply old b c = BitVec.ofNat 64 (if fp32.decode (lo old) = .nan ∨ fp32.decode (lo b) = .nan then 0x7FC00000
      else if orderKey fp32 (lo old) < orderKey fp32 (lo b) then lo b else lo old))

/-- R220, R392, R394: the knot and eyelet words check their numbers and fields as they fire, with causes 0x26 and 0x02; then the adds, waits,
reservations, declarations and releases are commit items, and KREAD and LZSTAT issue at once. -/
def Obligations.KnotAndEyeletWords : Prop :=
  ((∀ (s : State) (r : RingId) o pd sn m (k : Word) t0, s.focus = .seq r → o.l = some (.sc k) → Fires (.kread pd sn m t0) s o →
    if k.toNat < 64 then Does (.kread pd sn m t0) s (s.issueValue (.kread pd sn m t0) (.kread (k.setWidth 6) s.focusIdx t0))
    else Traps (.kread pd sn m t0) s 0x26) ∧
  ∀ (s : State) (r : RingId) o pd sn m (k n : Word), s.focus = .seq r → o.l = some (.sc k) → o.r = some (.sc n) →
    (k.toNat < 64 → n.toNat < 2 ^ 32 →
      (Fires (.kadd pd sn m) s o → Records (.kadd pd sn m) s (.kadd (k.setWidth 6) (n.setWidth 32))) ∧
      (∀ e t0, Fires (.kwait pd e sn m t0) s o → Records (.kwait pd e sn m t0) s (.kwait (k.setWidth 6) e n)) ∧
      (∀ e t0, Fires (.ktry pd e sn m t0) s o → Records (.ktry pd e sn m t0) s (.ktry (k.setWidth 6) e n))) ∧
    (64 ≤ k.toNat →
      (Fires (.kadd pd sn m) s o → Traps (.kadd pd sn m) s 0x26) ∧ (∀ e t0, Fires (.kwait pd e sn m t0) s o → Traps (.kwait pd e sn m t0) s 0x26) ∧
      (∀ e t0, Fires (.ktry pd e sn m t0) s o → Traps (.ktry pd e sn m t0) s 0x26) ∧ (∀ t0, Fires (.kread pd sn m t0) s o → Traps (.kread pd sn m t0) s 0x26) ∧
      (∀ t, o.t = some (.sc t) → Fires (.kinit pd sn m) s o → Traps (.kinit pd sn m) s 0x26)) ∧
    (k.toNat < 64 → 2 ^ 32 ≤ n.toNat →
      (Fires (.kadd pd sn m) s o → Traps (.kadd pd sn m) s 0x02) ∧ (∀ e t0, Fires (.kwait pd e sn m t0) s o → Traps (.kwait pd e sn m t0) s 0x02) ∧
      (∀ e t0, Fires (.ktry pd e sn m t0) s o → Traps (.ktry pd e sn m t0) s 0x02)) ∧
    (∀ t, o.t = some (.sc t) → k.toNat < 64 → (2 ^ 35 ≤ n.toNat ∨ 2 ^ 32 ≤ t.toNat) → Fires (.kinit pd sn m) s o → Traps (.kinit pd sn m) s 0x02) ∧
    (∀ t, o.t = some (.sc t) → k.toNat < 64 → n.toNat < 2 ^ 35 → t.toNat < 2 ^ 32 → (n.getLsbD 34 = true → t ≠ 0) → Fires (.kinit pd sn m) s o →
      Records (.kinit pd sn m) s (.kinit (k.setWidth 6) n t)) ∧
    (∀ t, o.t = some (.sc t) → k.toNat < 64 → n.getLsbD 34 = true → t = 0 → Fires (.kinit pd sn m) s o → Traps (.kinit pd sn m) s 0x02) ∧
    (∀ t0, k.toNat < 64 → Fires (.kread pd sn m t0) s o → Does (.kread pd sn m t0) s (s.issueValue (.kread pd sn m t0) (.kread (k.setWidth 6) s.focusIdx t0)))) ∧
  ((∀ (s : State) (r : RingId) o pd sn m (a : Word) t0, s.focus = .seq r → o.l = some (.sc a) →
    (Fires (.lzstat pd sn m t0) s o → if a &&& ~~~0x3F0F = 0 then
      Does (.lzstat pd sn m t0) s (s.issueValue (.lzstat pd sn m t0) (.lzstat (a.setWidth 4) (some ((a >>> 8).setWidth 6)) s.focusIdx t0))
      else Traps (.lzstat pd sn m t0) s 0x02) ∧
    (Fires (.lzstatZone pd sn m t0) s o → if a &&& ~~~0x3F0F = 0 then
      Does (.lzstatZone pd sn m t0) s (s.issueValue (.lzstatZone pd sn m t0) (.lzstat (a.setWidth 4) none s.focusIdx t0))
      else Traps (.lzstatZone pd sn m t0) s 0x02)) ∧
  ∀ (s : State) (r : RingId) o pd sn m (a b : Word), s.focus = .seq r → o.l = some (.sc a) → o.r = some (.sc b) →
    (∀ t0, a &&& ~~~0x0F1FFFFF = 0 → b.toNat < 2 ^ 16 → Fires (.lzresv pd sn m t0) s o → Records (.lzresv pd sn m t0) s (.resv a b)) ∧
    (∀ t0, (a &&& ~~~0x0F1FFFFF ≠ 0 ∨ 2 ^ 16 ≤ b.toNat) → Fires (.lzresv pd sn m t0) s o → Traps (.lzresv pd sn m t0) s 0x02) ∧
    (b = 0 → Fires (.lzresvDeclare pd sn m) s o → Records (.lzresvDeclare pd sn m) s (.declare a)) ∧
    (b ≠ 0 → Fires (.lzresvDeclare pd sn m) s o → Traps (.lzresvDeclare pd sn m) s 0x02) ∧
    (a &&& ~~~0x3F0F = 0 → b.toNat < 2 → Fires (.lzrel pd sn m) s o →
      Records (.lzrel pd sn m) s (.release (a.setWidth 4) ((a >>> 8).setWidth 6) (decide (b = 1)))) ∧
    ((a &&& ~~~0x3F0F ≠ 0 ∨ 2 ≤ b.toNat) → Fires (.lzrel pd sn m) s o → Traps (.lzrel pd sn m) s 0x02) ∧
    (a &&& ~~~0xF = 0 → b = 0 → Fires (.lzrelRetire pd sn m) s o → Records (.lzrelRetire pd sn m) s (.retire (a.setWidth 4))) ∧
    ((a &&& ~~~0xF ≠ 0 ∨ b ≠ 0) → Fires (.lzrelRetire pd sn m) s o → Traps (.lzrelRetire pd sn m) s 0x02) ∧
    (∀ t0, a &&& ~~~0x3F0F = 0 → Fires (.lzstat pd sn m t0) s o →
      Does (.lzstat pd sn m t0) s (s.issueValue (.lzstat pd sn m t0) (.lzstat (a.setWidth 4) (some ((a >>> 8).setWidth 6)) s.focusIdx t0))) ∧
    (∀ t0, a &&& ~~~0x3F0F = 0 → Fires (.lzstatZone pd sn m t0) s o →
      Does (.lzstatZone pd sn m t0) s (s.issueValue (.lzstatZone pd sn m t0) (.lzstat (a.setWidth 4) none s.focusIdx t0))) ∧
    (∀ t0, a &&& ~~~0x3F0F ≠ 0 → Fires (.lzstat pd sn m t0) s o → Traps (.lzstat pd sn m t0) s 0x02))

/-- R378, R395: ENQ judges its address as a read of 128 bytes and then its queue, and records both; INGR records a program channel from 4 to 15, EGR
a token with 24 bits of A. -/
def Obligations.HostQueueWords : Prop :=
  (∀ (s s1 : State) (r : RingId) (t : Task) pd sn m t0 o l q a, s.focus = .seq r → (s.ring r).cur = some t → Fires (.enq pd sn m t0) s o →
    o.l = some (.sc l) → o.r = some (.sc q) → Passes s r t { sp := .g, n := 128, use := .read, watch := false } l s1 a →
    (q.toNat < 4 → Does (.enq pd sn m t0) s (s1.pushItem (.enq pd sn m t0) (.enq a (q.setWidth 2)))) ∧
    (4 ≤ q.toNat → Does (.enq pd sn m t0) s (s1.failWord 0x02))) ∧
  (∀ (s s1 : State) (r : RingId) (t : Task) pd sn m t0 o l q c, s.focus = .seq r → (s.ring r).cur = some t → Fires (.enq pd sn m t0) s o →
    o.l = some (.sc l) → o.r = some (.sc q) → s.access r t { sp := .g, n := 128, use := .read, watch := false } l = .fail s1 c →
    Does (.enq pd sn m t0) s (s1.trapSeq r c l)) ∧
  (∀ s pd sn m t0 o l, Fires (.ingr pd sn m t0) s o → o.l = some (.sc l) → 4 ≤ l.toNat → l.toNat < 16 →
    Records (.ingr pd sn m t0) s (.ingr (l.setWidth 4))) ∧
  (∀ s pd sn m t0 o l, Fires (.ingr pd sn m t0) s o → o.l = some (.sc l) → (l.toNat < 4 ∨ 16 ≤ l.toNat) → Traps (.ingr pd sn m t0) s 0x02) ∧
  (∀ s pd sn m o (x : Tok) a, Fires (.egr pd sn m) s o → o.l = some (.tok x) → o.r = some (.sc a) → a.toNat < 2 ^ 24 →
    Records (.egr pd sn m) s (.egr x a)) ∧
  (∀ s pd sn m o (x : Tok) a, Fires (.egr pd sn m) s o → o.l = some (.tok x) → o.r = some (.sc a) → 2 ^ 24 ≤ a.toNat → Traps (.egr pd sn m) s 0x02) ∧
  (∀ s pd sn m o x, Fires (.egr pd sn m) s o → o.l = some (.sc x) → Traps (.egr pd sn m) s 0x05)

/-! ## Taking a cause, blocks and translation -/

/-- R154 to R159, R173, R86: a cause of the class info posts its record and nothing else; the first other cause halts its context, writes the four fault
registers of its ring (those of no ring where the dispatcher takes it) and the first stop record, clears the block of every ring of the context, leaves
a record without cause of every other sequencer that stops, and sets DIVERGED where the context replays; a later one stands in the record of its engine,
or joins the stop records, and the fault registers stay. A context that is being torn down posts no record. That all rings stop in one step is the
model's choice (log 6), and so is how RETRY is told (log 53). -/
def Obligations.TakingCauses : Prop :=
  ∀ (s : State) (c : CtxId) (r : RingId) (e : Engine) (k : Cause) (block va : Word),
    (causeClass k = .none → s.raise c r e k block va = s) ∧
    (causeClass k = .info → s.raise c r e k block va = s.postFault c (e.ringNo r) k block va) ∧
    ((s.ctx c).closing = true → s.postFault c (e.ringNo r) k block va = s) ∧
    ((s.ctx c).closing = false → s.postFault c (e.ringNo r) k block va =
      s.postCtx c 0x03 (BitVec.ofNat 32 (k.toNat + 256 * e.ringNo r)) (bytesLE 8 block.toNat ++ bytesLE 8 va.toNat)) ∧
    (causeClass k ≠ .info → causeClass k ≠ .none → (s.ctx c).halted = false →
      let t := s.raise c r e k block va
      (t.ctx c).halted = true ∧ (t.ctx c).haltClass = causeClass k ∧ SameMemory s t ∧
      (e ≠ .dispatcher → (t.ctx c).fault.get {} r =
        { cause := k.setWidth 64, block := block, va := va, engine := BitVec.ofNat 64 (e.code.toNat + 256 * r.val) }) ∧
      (e = .dispatcher → (t.ctx c).fault = (s.ctx c).fault) ∧
      (∀ q : RingId, (∃ u, (s.ring q).cur = some u ∧ u.ctx = c) → q ≠ r ∨ e ≠ .sequencer →
        ∃ x ∈ (t.ctx c).stops, x.engine = Engine.sequencer.code ∧ x.ring.toNat = q.val ∧ x.cause = 0 ∧ x.primary = false) ∧
      (∀ x, (t.ctx c).stops.head? = some x → x.primary = true ∧ x.cause = k ∧ x.block = block ∧ x.va = va ∧ x.engine = e.code ∧
        x.retry = (accessCause e k || (k == 0x02 && s.walkFails (ringDie r) c va k))) ∧
      (t.ctx c).stops ≠ [] ∧ (∀ q : RingId, (∃ u, (s.ring q).cur = some u ∧ u.ctx = c) → (t.ring q).seqr.blk = none) ∧
      (s.dev.repActive = true → s.dev.repCtx = c → t.dev.repDiverged = true)) ∧
    (causeClass k ≠ .info → causeClass k ≠ .none → (s.ctx c).halted = true →
      let t := s.raise c r e k block va
      (t.ctx c).halted = true ∧ (t.ctx c).fault = (s.ctx c).fault ∧ SameMemory s t ∧ t.rings = s.rings ∧
      (t.ctx c).haltClass = (s.ctx c).haltClass.max (causeClass k) ∧ (s.dev.repActive = true → s.dev.repCtx = c → t.dev.repDiverged = true) ∧
      let rests (x : StopRec) : Bool := x.engine == e.code && x.ring.toNat == e.ringNo r && x.cause == 0
      ((s.ctx c).stops.any rests = false → (t.ctx c).stops = (s.ctx c).stops ++ [s.stopRec c e r k false block va]) ∧
      ((s.ctx c).stops.any rests = true → (t.ctx c).stops = (s.ctx c).stops.map fun x => if rests x then s.stopRec c e r k false block va else x))

/-- R220 to R223, R237, R242, R247, R294, R300, R378 to R383, R386, R393, R394, R397, R398: a fetched block stands at the task's next address; a block of
WRITEs commits, each register then holds what its WRITE took and the others what they held; the exits; what the commit of one item does, for every
kind of item: WRITE, SYSW and ERET take effect, a YIELD without a request does nothing, PREF performs, and a knot word performs where its snapshot is
empty and it has no marker round to make; every other word with a strand becomes the youngest operation, behind exactly those that its strand and
mask hold; FORK takes its handle; which causes are judged in that cycle; and a deferred value lands in its register. -/
def Obligations.BlocksComeAndGo : Prop :=
  ((∀ (s s1 : State) (r : RingId) t b, s.running r = some t → t.lead = r → (s.ring r).seqr.blk = none → (s.ring r).seqr.yielded = none →
    (s.ring r).seqr.stepDue = false → (s.ring r).seqr.ending = false → (fetchBlock r t.ctx (s.ring r).seqr.pc).go s = (.ok b, s1) →
    ∃ u, Does (.blockFetch r) s u ∧ (u.ring r).seqr.blk = some b ∧ b.addr = (s.ring r).seqr.pc ∧ b.exit = none ∧ b.items = [] ∧ SameMemory s u ∧
      (u.ring r).seqr.x = (s.ring r).seqr.x) ∧
  (∀ (s s1 : State) (r : RingId) t c va, s.running r = some t → t.lead = r → (s.ring r).seqr.blk = none → (s.ring r).seqr.yielded = none →
    (s.ring r).seqr.stepDue = false → (s.ring r).seqr.ending = false → (fetchBlock r t.ctx (s.ring r).seqr.pc).go s = (.error (c, va), s1) →
    Does (.blockFetch r) s (s1.trapOn r .sequencer c (s.ring r).seqr.pc va)) ∧
  (∀ (s : State) (r : RingId) t, s.running r = some t → t.lead = r → (s.ring r).seqr.blk = none → (s.ring r).seqr.yielded = none →
    (s.ring r).seqr.stepDue = false → (s.ring r).seqr.ending = false → (s.ring r).seqr.pc.toNat % 4 ≠ 0 →
    Does (.blockFetch r) s (s.trapOn r .sequencer 0x0C (s.ring r).seqr.pc (s.ring r).seqr.pc)) ∧
  (∀ (s : State) (r : RingId) t b a, s.running r = some t → (s.ring r).seqr.blk = some b → (s.ring r).seqr.allSettled b = true →
    (∀ o ∈ (s.ring r).seqr.ops, o.committed = true) → (s.ring r).seqr.yielded = none → (s.ring r).seqr.perf.step = false → b.exit = some (.to a) →
    b.freed = [] → (b.items.map (·.idx)).Nodup →
    (∀ it ∈ b.items, it.idx < b.words.length ∧ it.strand = none ∧ it.ret = none ∧ ∃ n x, it.work = .write n (.sc x)) →
    (∀ i ∈ b.items, ∀ k ∈ b.items, ∀ n x y, i.work = .write n (.sc x) → k.work = .write n (.sc y) → i = k) →
    ∃ u, Does (.blockCommit r) s u ∧ (u.ring r).seqr.pc = a ∧ (u.ring r).seqr.blk = none ∧ SameMemory s u ∧ (u.ring r).seqr.stack = (s.ring r).seqr.stack ∧
      (∀ it ∈ b.items, ∀ n x, it.work = .write n (.sc x) → Tab.get 0 (u.ring r).seqr.x n.toNat = x ∧ (u.ring r).seqr.pending.look n.toNat = none) ∧
      (∀ k, (∀ it ∈ b.items, ∀ n x, it.work = .write n (.sc x) → n.toNat ≠ k) → Tab.get 0 (u.ring r).seqr.x k = Tab.get 0 (s.ring r).seqr.x k)) ∧
  (∀ (s : State) (r : RingId) t b e, s.running r = some t → (s.ring r).seqr.blk = some b → (s.ring r).seqr.allSettled b = true →
    (∀ o ∈ (s.ring r).seqr.ops, o.committed = true) → (s.ring r).seqr.yielded = none → (s.ring r).seqr.perf.step = false → b.exit = some e →
    b.freed = [] → b.items = [] →
    ∃ u, Does (.blockCommit r) s u ∧ (u.ring r).seqr.blk = none ∧ SameMemory s u ∧
      (∀ a back, e = .call a back → (u.ring r).seqr.pc = a ∧ (u.ring r).seqr.stack = (s.ring r).seqr.stack ++ [back] ∧ Tab.get 0 (u.ring r).seqr.x 62 = back) ∧
      (∀ a, e = .ret a → (u.ring r).seqr.pc = a ∧ (u.ring r).seqr.stack = (s.ring r).seqr.stack.dropLast ∧ (u.ring r).seqr.x = (s.ring r).seqr.x) ∧
      (e = .done → t.lead = r → (s.ring r).seqr.forksOut = false → (u.ring r).cur = none ∧ (u.ring r).slice = {} ∧ ∀ o ∈ (u.ring r).seqr.ops, o.old = true)) ∧
  (∀ (s : State) (r : RingId) t b, s.running r = some t → (s.ring r).seqr.blk = some b → (s.ring r).seqr.allSettled b = true →
    (∀ o ∈ (s.ring r).seqr.ops, o.committed = true) → b.exit = none → Does (.blockCommit r) s (s.trapSeq r 0x04 b.addr)) ∧
  (∀ (s : State) (r : RingId) (n : BitVec 6) v, (s.ring r).seqr.landing.look n.toNat = some v →
    Does (.deferredValueLand r n) s (s.modSeqr r fun q =>
      { q with x := q.x.put n.toNat v, pending := q.pending.del n.toNat, landing := q.landing.del n.toNat }))) ∧
  (let Commits (s : State) (r : RingId) (t : Task) (b : Blk) (it : Item) (a : Word) : Prop :=
    s.running r = some t ∧ (s.ring r).seqr.blk = some b ∧ (s.ring r).seqr.allSettled b = true ∧
      (∀ o ∈ (s.ring r).seqr.ops, o.committed = true ∧ o.id < (s.ring r).seqr.nextOp) ∧ (s.ring r).seqr.yielded = none ∧
      (s.ring r).seqr.perf.step = false ∧ b.exit = some (.to a) ∧ b.freed = [] ∧ b.vops = [] ∧ b.items = [it] ∧ it.idx < b.words.length ∧
      (∀ w reg, it.ret = some (w, reg) → w < b.words.length) ∧
      (s.ring r).seqr.knotHeld b = false ∧ s.knotTurns r b = true ∧ (s.ring r).seqr.roomFor b = true ∧
      (b.trapsOnError = true → ∃ n < s.cycle r, b.due = some n)
  let Leaves (s u : State) (r : RingId) (a : Word) : Prop :=
    Does (.blockCommit r) s u ∧ (u.ring r).seqr.pc = a ∧ (u.ring r).seqr.blk = none ∧ (u.ring r).seqr.stack = (s.ring r).seqr.stack ∧ SameMemory s u
  let Fails (s : State) (r : RingId) (it : Item) (c : Cause) : Prop := Does (.blockCommit r) s (s.trapSeq r c (s.wordVa r it.idx))
  let counts (s u : State) (r : RingId) (sn : Strand) : Prop :=
    (∀ n, Tab.get 0 (u.ring r).seqr.issued n = Tab.get 0 (s.ring r).seqr.issued n + if n = sn.toNat then 1 else 0)
  let Issues (s u : State) (r : RingId) (t : Task) (it : Item) (sn : Strand) (m : SMask) : Prop :=
    (∃ op : Op, (u.ring r).seqr.ops = (s.ring r).seqr.ops ++ [op] ∧ op.id = (s.ring r).seqr.nextOp ∧ op.work = it.work ∧ op.strand = sn ∧ op.mask = m ∧
      op.excl = true ∧ op.committed = true ∧ op.stage = .queued ∧ op.ctx = t.ctx ∧ op.ret = it.ret.map (·.2) ∧
      ∀ k, k ∈ op.snap ↔ ∃ y ∈ (s.ring r).seqr.ops, y.id = k ∧ (m.getLsbD y.strand.toNat ∨ y.strand = sn)) ∧
    counts s u r sn ∧ (u.ring r).seqr.done = (s.ring r).seqr.done ∧ (u.ring r).seqr.x = (s.ring r).seqr.x ∧
    ∀ w reg, it.ret = some (w, reg) → (u.ring r).seqr.pending.look reg.toNat = some (s.ring r).seqr.nextOp
  let Performs (s u : State) (r : RingId) (sn : Strand) : Prop :=
    counts s u r sn ∧ (∀ n, Tab.get 0 (u.ring r).seqr.done n = Tab.get 0 (s.ring r).seqr.done n + if n = sn.toNat then 1 else 0) ∧
      (u.ring r).seqr.ops = (s.ring r).seqr.ops
  let knotIs (s u : State) (r : RingId) (k : BitVec 6) (x : Knot) : Prop :=
    Tab.get {} (u.ring r).knots k.toNat = x ∧ ∀ n, n ≠ k.toNat → Tab.get {} (u.ring r).knots n = Tab.get {} (s.ring r).knots n
  (∀ (s : State) (r : RingId) t b it a, Commits s r t b it a → it.ret = none →
    (∀ n x, it.work = .write n (.tok x) → ∃ u, Leaves s u r a ∧
      Tab.get {} (u.ring r).seqr.v n.toNat = { data := x.data, valid := x.valid, side := x.side } ∧ (u.ring r).seqr.x = (s.ring r).seqr.x ∧
      ∀ k, k ≠ n.toNat → Tab.get {} (u.ring r).seqr.v k = Tab.get {} (s.ring r).seqr.v k) ∧
    (∀ v, it.work = .sysw 0x008 v → (∀ z, s.writePoolPart r (v.setWidth 16) = .ok z → ∃ u, Leaves s u r a ∧ (u.ring r).seqr.poolPart = v.setWidth 16) ∧
      ∀ c, s.writePoolPart r (v.setWidth 16) = .error c → Fails s r it c) ∧
    (∀ v, it.work = .sysw 0x024 v → ∃ u, Leaves s u r a ∧ (u.ring r).errInject = v &&& ~~~(1#64 <<< 62) ∧ (u.ring r).injectCount = 0) ∧
    (∀ v, it.work = .sysw 0x030 v → v.getLsbD 2 = false → ∃ u, Leaves s u r a ∧ (u.ring r).seqr.perf.enable = v.getLsbD 0 ∧
      (u.ring r).seqr.perf.step = false ∧ (v.getLsbD 1 = true → v.getLsbD 0 = false → ∀ n, Tab.get 0 (u.ring r).seqr.perf.count n = 0)) ∧
    (∀ (n : BitVec 13) v, it.work = .sysw n v → 0x031 ≤ n.toNat → n.toNat ≤ 0x038 → ∃ u, Leaves s u r a ∧
      Tab.get 0 (u.ring r).seqr.perf.event (n.toNat - 0x031) = v.setWidth 8 ∧
      Tab.get 0 (u.ring r).seqr.perf.waddr (n.toNat - 0x031) = v.extractLsb' 8 51) ∧
    (it.work = .eret → ∃ u, Leaves s u r a ∧ (u.ring r).seqr.priv = false) ∧
    (∀ n, it.work = .yield n → (s.ring r).slice.req = false → ∃ u, Leaves s u r a ∧ (u.ring r).seqr.yielded = none ∧ (u.ring r).saving = (s.ring r).saving)) ∧
  (∀ (s : State) (r : RingId) t b it a sn m, Commits s r t b it a → it.strand = some (sn, m) →
    ((match it.work with | .store .. | .atomic .. | .aperture .. | .resv .. | .enq .. | .ingr .. | .egr .. | .tlbinv .. => True | _ => False) →
      ∃ u, Leaves s u r a ∧ Issues s u r t it sn m) ∧
    (∀ h image, it.work = .fork h image →
      (Tab.get .free (s.ring r).seqr.handles h.toNat = Handle.free → ∃ u, Leaves s u r a ∧ Issues s u r t it sn m ∧
        Tab.get .free (u.ring r).seqr.handles h.toNat = Handle.outstanding (s.ring r).seqr.nextOp) ∧
      (Tab.get .free (s.ring r).seqr.handles h.toNat ≠ Handle.free → Fails s r it 0x02)) ∧
    (∀ va len only, it.work = .pref va len only → ∃ u, Leaves s u r a ∧ Performs s u r sn) ∧
    (∀ w, it.work = .declare w → (∀ z, s.declareZone r t.ctx w = .ok z → ∃ u, Leaves s u r a ∧ Issues s u r t it sn m) ∧
      ∀ c, s.declareZone r t.ctx w = .error c → Fails s r it c) ∧
    (∀ z, it.work = .retire z → (∀ y, s.retireZone r t.ctx z.toNat = .ok y → ∃ u, Leaves s u r a ∧ Issues s u r t it sn m) ∧
      ∀ c, s.retireZone r t.ctx z.toNat = .error c → Fails s r it c) ∧
    (∀ z n full, it.work = .release z n full →
      (∀ y, s.releaseSlot r t.ctx z.toNat n.toNat full = .ok y → ∃ u, Leaves s u r a ∧ Issues s u r t it sn m) ∧
      ∀ c, s.releaseSlot r t.ctx z.toNat n.toNat full = .error c → Fails s r it c)) ∧
  (∀ (s : State) (r : RingId) t b it a sn m, Commits s r t b it a → it.strand = some (sn, m) →
    let alone : Prop := (s.ring r).seqr.snapshot sn m true = [] ∧ (s.dev.flush = false ∨ m = 0)
    let knot (k : BitVec 6) : Knot := Tab.get {} (s.ring r).knots k.toNat
    (∀ k v target, it.work = .kinit k v target → (alone → ∃ u, Leaves s u r a ∧ Performs s u r sn ∧ knotIs s u r k
        { count := v.setWidth 32, phase := v.getLsbD 32, error := false, mode := v.getLsbD 34, target := target.setWidth 32 }) ∧
      (¬alone → ∃ u, Leaves s u r a ∧ Issues s u r t it sn m ∧ (u.ring r).knots = (s.ring r).knots)) ∧
    (∀ k n, it.work = .kadd k n → (∀ x, (knot k).add n.toNat = some x → (alone → ∃ u, Leaves s u r a ∧ Performs s u r sn ∧ knotIs s u r k x) ∧
        (¬alone → ∃ u, Leaves s u r a ∧ Issues s u r t it sn m ∧ (u.ring r).knots = (s.ring r).knots)) ∧
      ((knot k).add n.toNat = none → Fails s r it 0x28)) ∧
    (∀ k e operand, (it.work = .kwait k e operand ∨ it.work = .ktry k e operand) →
      let try' : Bool := match it.work with | .ktry .. => true | _ => false
      let sat : Prop := if (knot k).mode then (knot k).phase = operand.getLsbD 0 else operand.toNat ≤ (knot k).count.toNat
      (e = true → (knot k).error = true → Fails s r it 0x27) ∧
      ((e = false ∨ (knot k).error = false) → (knot k).mode = true → 2 ≤ operand.toNat → Fails s r it 0x02) ∧
      ((e = false ∨ (knot k).error = false) → ((knot k).mode = true → operand.toNat < 2) →
        (¬sat → try' = false → Does (.blockCommit r) s (s.setBlk r { b with due := none })) ∧
        (sat ∨ try' = true → alone → ∃ u, Leaves s u r a ∧ Performs s u r sn ∧
          (sat → knotIs s u r k { knot k with count := if (knot k).mode then (knot k).count else (knot k).count - operand.setWidth 32 }) ∧
          (¬sat → knotIs s u r k (knot k)) ∧
          ∀ w reg, it.ret = some (w, reg) → (u.ring r).seqr.pending.look reg.toNat = none ∧
            (sat → Tab.get 0 (u.ring r).seqr.x reg.toNat = (knot k).word ||| if try' then 1 <<< 63 else 0) ∧
            (¬sat → Tab.get 0 (u.ring r).seqr.x reg.toNat = (knot k).word)))) ∧
    (knot 0).word = BitVec.ofNat 64 ((knot 0).count.toNat + (if (knot 0).phase then 2 ^ 32 else 0) + (if (knot 0).error then 2 ^ 33 else 0) +
      if (knot 0).mode then 2 ^ 34 else 0)) ∧
  (∀ (s : State) (r : RingId) t b e, s.running r = some t → (s.ring r).seqr.blk = some b → b.exit = some e →
    ((s.ring r).seqr.knotHeld b = true ∨ s.knotTurns r b = false ∨ (s.ring r).seqr.roomFor b = false) → Does (.blockCommit r) s s) ∧
  (∀ (s : State) (r : RingId) b, (s.ring r).seqr.blk = some b → (s.ring r).seqr.allSettled b = false → Does (.blockCommit r) s s))

/-- R96, R109, R113 to R115: a walk touches the dies whose nodes it reads; its leaf enters the caches of its ring and its die, the entries it
followed enter its die's, and no miss of its page is left, or its cause is raised for the engine that asked; a shootdown takes every
translation of its range at once from the dies and from rings that do not run, and from the others at their points, the last of which
ends it. That the entries followed enter the die's walk cache, that a walk begins at the lowest of them that it holds, and that walks already under way
run on through a shootdown are the model's choice (log 43); a walk that a stack holds back goes on (R416). -/
def Obligations.TranslationsComeAndGo : Prop :=
  (∀ (s s1 : State) (r : RingId) k m w, (s.ring r).misses[k]? = some m → s.walking r m = true →
    s1 = s.modRing r (fun x => { x with misses := x.misses.filter fun n => !(n.ctx == m.ctx && n.va.toNat / 2 ^ 16 == m.va.toNat / 2 ^ 16) }) →
    w = s1.walk (ringDie r) m.ctx m.va →
    (∀ t a, w.res = .ok t → s1.through t (s.ring r).seqr.priv (if m.write then .write else .read) m.va = .ok a →
      ∃ u, Does (.translationWalkDone r k) s u ∧ (u.ring r).tlb.head? = some t ∧ (u.die (ringDie r)).tcache.head? = some t ∧
        (∀ n ∈ w.nodes, n ∈ (u.die (ringDie r)).wcache) ∧ (∀ d : DieId, .die d ∈ w.homes → (u.ctx m.ctx).touched.getLsbD d = true) ∧
        SameMemory s u ∧ (u.ring r).seqr = (s.ring r).seqr ∧
        (∀ n, n ∈ (u.ring r).misses ↔ n ∈ (s.ring r).misses ∧ ¬(n.ctx = m.ctx ∧ n.va.toNat / 2 ^ 16 = m.va.toNat / 2 ^ 16))) ∧
    (∀ c, c ≠ heldRead → (w.res = .error c ∨ ∃ t, w.res = .ok t ∧ s1.through t (s.ring r).seqr.priv (if m.write then .write else .read) m.va = .error c) →
      Does (.translationWalkDone r k) s
        (if s.served r = some m.ctx then (s1.touchAll m.ctx w.homes).raise m.ctx r m.engine c m.block m.va else s1.touchAll m.ctx w.homes)) ∧
    (w.res = .error heldRead → Does (.translationWalkDone r k) s s)) ∧
  (∀ (s : State) (r : RingId) k m, (s.ring r).misses[k]? = some m → s.walking r m = false → Does (.translationWalkDone r k) s s) ∧
  (∀ (s : State) (c : CtxId), s.dev.ready = true → (s.ctx c).shootBusy = false →
    ∃ u, Does (.shootdownGo c) s u ∧ SameMemory s u ∧
      (∀ d : DieId, (∀ t ∈ (u.die d).tcache, t.hit c (shootRange (s.ctx c).shootVa) = false) ∧
        ∀ n ∈ (u.die d).wcache, n.hit c (s.ctx c).shootVa = false) ∧
      (∀ r : RingId, s.dev.live.getLsbD (ringDie r) = true → s.runsRing r = false →
        (∀ t ∈ (u.ring r).tlb, t.hit c (shootRange (s.ctx c).shootVa) = false) ∧
        (∀ l ∈ (u.ring r).code, l.ctx = c → shotAt (s.ctx c).shootVa (64 * l.sector, 64) = false) ∧
        ∀ b ∈ (u.ring r).blocks, b.ctx = c → shotAt (s.ctx c).shootVa (b.addr.toNat, 4 * b.words.length) = true → b.stale = true) ∧
      ((u.ctx c).shootBusy = true ↔ ∃ r : RingId, s.runsRing r = true)) ∧
  (∀ (s : State) (c : CtxId), (s.ctx c).shootBusy = true → Does (.shootdownGo c) s s) ∧
  (∀ (s : State) (r : RingId) (c : CtxId), (s.ctx c).shootBusy = true → (s.ctx c).shootRings.contains r = true → (s.ctx c).shootOp = none →
    ∃ u, Does (.shootdownPoint r c) s u ∧ SameMemory s u ∧ (∀ t ∈ (u.ring r).tlb, t.hit c (shootRange (s.ctx c).shootRange) = false) ∧
      (∀ l ∈ (u.ring r).code, l.ctx = c → shotAt (s.ctx c).shootRange (64 * l.sector, 64) = false) ∧
      (∀ b ∈ (u.ring r).blocks, b.ctx = c → shotAt (s.ctx c).shootRange (b.addr.toNat, 4 * b.words.length) = true → b.stale = true) ∧
      (u.ctx c).shootRings = (s.ctx c).shootRings.filter (· != r) ∧
      ((u.ctx c).shootBusy = false ↔ (s.ctx c).shootRings.all (· == r) = true))

/-! ## Windows, pipes and the ordering machine -/

/-- R46 to R51: in window mode, at a window's boundary, a die has left, and its paths have sealed, every window before it, and a write that is sealed
and due becomes visible; a seal raises its channel's mark; a window unsealed in the second window after it is late, once; its notice posts
one record a context; 64 windows more lose the path, and what it has not sealed; in flush mode none of these happens, but to what was sent in window
mode (R254); what another chip sends waits in its path's pipe under its sender's window; and the order mode and the window exponent change as their
registers allow. That a write of GROUND_WINDOW sends an Announce on every port that is up rests on logs 34 and 76, and how a drain and late seals are
told on log 66. -/
def Obligations.WindowsAndModes : Prop :=
  (∀ (s : State) (d : DieId), (s.dev.flush = false ∨ ∃ x ∈ s.dev.pipes, x.windowed = true) →
    ∃ u, Does (.windowBoundary d) s u ∧ u.gt = s.gt ∧ s.curWindow ≤ (u.die d).left ∧
      ((∀ x ∈ s.dev.pipes, x.writes = []) → SameMemory s u ∧ ∀ x ∈ u.dev.pipes, x.path.src = .die d → s.curWindow ≤ x.sent) ∧
      (∀ x w cells o, s.dev.pipes = [x] → x.path.dst = .die d → x.writes = [w] → w.msg = .write cells → w.who = .shuttle o → x.lost = false → w.flush = false →
        x.isSealed w.window = true → w.window + 2 ≤ s.curWindow → (u.pipe x.path).writes = [] ∧ u.mem = (s.store cells).mem)) ∧
  (∀ (s : State) (d : DieId), s.dev.flush = true → (∀ x ∈ s.dev.pipes, x.windowed = false) → Does (.windowBoundary d) s s) ∧
  (∀ (s : State) (p : Path) (vc : BitVec 2) n, s.dev.flush = false → vc ≠ 2 → (s.pipe p).writes = [] → (s.pipe p).late = [] →
    s.curWindow < (s.pipe p).unsealed + 2 → ((pathDie? p.src).isSome = true → n < (s.pipe p).sent) →
    Does (.sealReceive p vc n) s (s.setPipe { s.pipe p with seals := (s.pipe p).seals.put vc.toNat (max ((s.pipe p).seals.get 0 vc.toNat) (n + 1)) })) ∧
  (∀ (s : State) (p : Path) (vc : BitVec 2) n, ((s.dev.flush = true ∧ (s.pipe p).windowed = false) ∨ vc = 2) → Does (.sealReceive p vc n) s s) ∧
  (∀ (s s1 : State) (p : Path), s.dev.flush = false → (s.pipe p).late = [] → (s.pipe p).lost = false → (s.pipe p).unsealed + 2 ≤ s.curWindow →
    s1 = s.setPipe { s.pipe p with late := [((s.pipe p).unsealed, (s.pipe p).senders (s.pipe p).unsealed)] } →
    Does (.sealLate p) s (match p.src with | .die _ => s1 | .chip c => s1.notify (.chip c) (.lateSeal p (s.pipe p).unsealed))) ∧
  (∀ (s : State) (p : Path), ((s.dev.flush = true ∧ (s.pipe p).windowed = false) ∨ (s.pipe p).lost = true) →
    Does (.sealLate p) s s ∧ Does (.sealTimeout p) s s) ∧
  (∀ (s : State) (p : Path) n l, (pathDie? p.src).isSome = true → (s.pipe p).noticed.contains n = false → (s.pipe p).late.find? (fun e => e.1 == n) = some (n, l) →
    Does (.lateSealNotice p n) s (l.foldl (fun s e => s.raise e.1 e.2 .sequencer 0x34 0 (BitVec.ofNat 64 n))
      (s.setPipe { s.pipe p with noticed := (s.pipe p).noticed ++ [n] }))) ∧
  (∀ (s : State) (p : Path), s.dev.flush = false → (s.pipe p).lost = false → (s.pipe p).unsealed + 66 ≤ s.curWindow →
    ∃ u, Does (.sealTimeout p) s u ∧ (u.pipe p).lost = true ∧ (∀ w ∈ (u.pipe p).writes, w.flush = false ∧ (s.pipe p).isSealed w.window = true) ∧
      (s.dev.arrived = [] → (∀ q, q ≠ p → (s.pipe q).writes = []) → (∀ w ∈ (s.pipe p).writes, s.due (s.pipe p) w = false) →
        ∀ w ∈ (s.pipe p).writes, (pathDie? p.src).isSome = true → w.msg.vc ≠ 2 → (w.flush = true ∨ (s.pipe p).isSealed w.window = false) →
          (u.ctx w.ctx).halted = true) ∧
      (s.dev.arrived = [] → (∀ q, (s.pipe q).writes = []) → SameMemory s u)) ∧
  (∀ (s : State) (chip : BitVec 16) (r : RingId) (b : EyeBeat) n, b.chip = chip → chip ≠ ownChip → s.zoneTurn r b.zone.toNat = true →
    ComesIn (.eyeletBeat r ⟨n, b⟩) s chip r n (.beat r b)) ∧
  (∀ (s : State) (v : Word), s.dev.ready = true → s.dev.modeNext = none → v.getLsbD 0 ≠ s.dev.flush →
    ∃ u, Does (.orderModeWrite v) s u ∧ u.dev.modeNext = some (v.getLsbD 0) ∧ u.dev.flush = s.dev.flush ∧
      ∀ p ∈ s.ownPaths, (s.pipe p).lost = false → (u.pipe p).marker = true ∧ (u.pipe p).gathered = false) ∧
  (∀ (s : State) (v : Word) m, s.dev.ready = true → s.dev.modeNext = some m →
    Does (.orderModeWrite v) s (s.modDev fun d => { d with modeNext := some (v.getLsbD 0) })) ∧
  (∀ (s : State) (v : Word), s.dev.modeNext = none → v.getLsbD 0 = s.dev.flush → Does (.orderModeWrite v) s s) ∧
  (∀ (s : State) (p : Path) c, p.src = .chip c → (s.pipe p).writes = [] →
    Does (.flushMarkerReceive p) s (s.gather p c) ∧
      ((s.liveRoutes c).length ≤ ((s.dev.gathers.find? fun e => e.1 == p).map (·.2)).getD 0 + 1 → (.chip c, .gathered p) ∈ (s.gather p c).dev.sent)) ∧
  (∀ (s : State) (p : Path) e, p.src = .die e → (s.pipe p).marker = true → (s.pipe p).writes = [] →
    Does (.flushMarkerReceive p) s (s.setPipe { s.pipe p with gathered := true })) ∧
  (∀ (s : State) (p : Path) e d w l r op, p.src = .die e → p.dst = .die d → (s.pipe p).writes = w :: l → w.msg = .marker r op →
    Does (.flushMarkerReceive p) s (s.setPipe { s.pipe p with writes := l })) ∧
  (∀ (s : State) m, s.dev.modeNext = some m → (∀ x ∈ s.dev.pipes, x.lost = true ∨ (x.writes = [] ∧ (x.marker = true → x.gathered = true))) →
    ∃ u, Does .orderModeSwitch s u ∧ u.dev.flush = m ∧ u.dev.modeNext = none ∧ u.gt = s.gt ∧
      ((m = true ∨ ∀ p : LinkId, (s.link p.val).wmismatch = false) → SameMemory s u ∧ ∀ x ∈ u.dev.pipes, x.lost = true)) ∧
  (∀ (s : State) m x, s.dev.modeNext = some m → x ∈ s.dev.pipes → x.lost = false → (x.writes ≠ [] ∨ (x.marker = true ∧ x.gathered = false)) →
    Does .orderModeSwitch s s) ∧
  (∀ (s : State) (v : Word), s.dev.ready = true → s.dev.flush = true → 7 ≤ v.toNat % 16 → v.toNat % 16 ≤ 13 →
    ∃ u, Does (.groundWindowWrite v) s u ∧ u.dev.window = v.setWidth 4 ∧ SameMemory s u ∧ u.gt = s.gt ∧
      ∀ p : LinkId, (s.link p.val).up = true → (.port p, .announce (v.setWidth 4)) ∈ u.dev.sent) ∧
  (∀ (s : State) (v : Word), (s.dev.flush = false ∨ v.toNat % 16 < 7 ∨ 13 < v.toNat % 16) → Does (.groundWindowWrite v) s s)

/-- R50, R240, R243, R245 to R247, R249, R387, R391, R395: an operation whose snapshot is empty performs at its home: a load delivers the bytes
there, a store writes its bytes and no others, an atomic its new value; it then leaves the ring and every snapshot and counts as done. In
flush mode its marker round comes first, and a write to another die performs with its acknowledgement; the mode is the one in which its snapshot
emptied (R254), and an atomic waits for a stack that takes no reads (R416). That an operation which outlives its task counts in DONE only while no task is
current is the model's choice (log 71). -/
def Obligations.OperationsPerform : Prop :=
  let ready (s : State) (r : RingId) (o : Op) (a : Acc) : Prop :=
    s.op? r o.id = some o ∧ o.snap = [] ∧ o.stage = .queued ∧ (o.mode ≠ some true ∨ o.mask = 0) ∧ o.work.remote? r = none ∧ a.key + a.n ≤ 2 ^ 53 ∧
      s.poisoned a.key a.n = false ∧ (∀ d, a.home = .die d → s.dev.live.getLsbD d = true ∧ (s.die d).hold = false)
  let leaves (s u : State) (r : RingId) (o : Op) : Prop :=
    (∀ z ∈ (u.ring r).seqr.ops, z.id ≠ o.id ∧ o.id ∉ z.snap) ∧
      Tab.get 0 (u.ring r).seqr.done o.strand.toNat = Tab.get 0 (s.ring r).seqr.done o.strand.toNat + (if o.committed && (!o.old || (s.ring r).cur.isNone) then 1 else 0)
  (∀ (s : State) (r : RingId) o a k t0, ready s r o a → o.work = .load a k t0 → ((s.ring r).errInject.getLsbD 63 = false ∨ a.key < poolKey r 0 ∨ poolKey r 0 + 2 ^ 24 ≤ a.key) →
    Does (.operationPerform r o.id) s ((s.finishOp r o.id).deliverTo (.seq r) t0
      (if a.n = 64 then .tok { data := BitVec.ofNat 512 (natLE (s.mem.bytes a.key 64)), valid := 0xFFFF }
       else .sc (BitVec.ofNat 64 (natLE (s.mem.bytes a.key a.n)))))) ∧
  (∀ (s : State) (r : RingId) o a data lanes, ready s r o a → o.work = .store a data lanes → a.n ≤ 64 →
    ∃ u, Does (.operationPerform r o.id) s u ∧ leaves s u r o ∧ ∀ x, u.mem.get x =
      if a.key ≤ x ∧ x < a.key + a.n ∧ lanes.getLsbD ((x - a.key) / 4) = true then data.extractLsb' (8 * (x - a.key)) 8 else s.mem.get x) ∧
  (∀ (s : State) (r : RingId) o a kind b c, ready s r o a → o.work = .atomic kind a b c → a.n = kind.bytes →
    ((s.ring r).errInject.getLsbD 63 = false ∨ a.key < poolKey r 0 ∨ poolKey r 0 + 2 ^ 24 ≤ a.key) →
    ∃ u, Does (.operationPerform r o.id) s u ∧ leaves s u r o ∧ ∀ x, u.mem.get x =
      if a.key ≤ x ∧ x < a.key + a.n then
        (kind.apply (BitVec.ofNat 64 (natLE (s.mem.bytes a.key a.n))) b c).extractLsb' (8 * (x - a.key)) 8
      else s.mem.get x) ∧
  (∀ (s : State) (r : RingId) o k n t0, s.op? r o.id = some o → o.snap = [] → o.stage = .queued → (o.mode ≠ some true ∨ o.mask = 0) →
    o.work = .kread k n t0 → Does (.operationPerform r o.id) s ((s.finishOp r o.id).deliverTo (.seq r) t0 (.sc ((s.ring r).knots.get {} k.toNat).word))) ∧
  (∀ (s : State) (r : RingId) o a, s.op? r o.id = some o → o.work.acc? = some a → o.snap ≠ [] → o.stage = .queued → Does (.operationPerform r o.id) s s) ∧
  (∀ (s : State) (r : RingId) o, s.op? r o.id = some o → o.snap = [] → o.stage = .queued → o.mode = some true → o.mask ≠ 0 →
    Does (.operationPerform r o.id) s ((s.modOp r o.id fun o => { o with stage := .flushing }).sendMarkers r o.ctx o.id)) ∧
  (∀ (s : State) (r : RingId) o d m, s.op? r o.id = some o → o.work.remote? r = some d → o.msg = some m → o.stage = .queued →
    (if o.snap = [] then o.mode ≠ some true ∨ o.mask = 0
     else s.dev.flush = false ∧ ∀ i ∈ o.snap, ∃ w ∈ (s.pipe { src := .die (ringDieId r), dst := .die d }).writes, w.writeOf r i = true) →
    (s.pipe { src := .die (ringDieId r), dst := .die d }).lost = false → s.dev.modeNext = none → s.dev.live.getLsbD d = true →
    Does (.pipeEnter r o.id) s
      ((s.enterAs { src := .die (ringDieId r), dst := .die d }
        { window := 0, ring := r, ctx := o.ctx, who := .sequencer, op := o.id, msg := m } (o.mode == some true)).modOp r o.id fun o => { o with stage := .piped s.curWindow })) ∧
  (∀ (s : State) (r : RingId) o d n w x, s.op? r o.id = some o → o.work.remote? r = some d → o.stage = .piped n →
    x = s.pipe { src := .die (ringDieId r), dst := .die d } →
    (x.writes.find? (fun w => w.writeOf r o.id && w.flush) = some w →
      (s.msgHeld w.msg = false → Does (.operationPerform r o.id) s ((s.setPipe { x with writes := x.writes.erase w }).applyMsg w true)) ∧
      (s.msgHeld w.msg = true → Does (.operationPerform r o.id) s s)) ∧
    (x.writes.find? (fun w => w.writeOf r o.id && w.flush) = none → Does (.operationPerform r o.id) s s)) ∧
  (∀ (s : State) (r : RingId) o stamp, s.op? r o.id = some o → (∀ a ∈ s.dev.acks, ¬(a.1 = r ∧ a.2.2 = o.id)) →
    (o.stage = .flushing → s.markersOut r o.id = false → Does (.visibilityAck r o.id ⟨stamp, none⟩) s (s.modOp r o.id fun o => { o with stage := .flushed })) ∧
    (o.stage = .flushing → s.markersOut r o.id = true → Does (.visibilityAck r o.id ⟨stamp, none⟩) s s) ∧
    (o.stage = .landed → ∃ u, Does (.visibilityAck r o.id ⟨stamp, none⟩) s u ∧ leaves s u r o ∧ SameMemory s u)) ∧
  (∀ (s : State) (r : RingId) op e stamp, s.dev.acks.find? (fun a => a.1 == r && a.2.2 == op) = some (r, e, op) →
    Does (.visibilityAck r op ⟨stamp, none⟩) s ((s.modDev fun d => { d with acks := d.acks.erase (r, e, op) }).enginePerforms r e)) ∧
  (∀ (s : State) (r : RingId) o, s.op? r o.id = some o → o.snap ≠ [] → o.stage = .queued → o.since + 2 ^ 24 ≤ s.counted r → s.fabricMoves r o = false →
    (s.served r).isSome = true → (s.ctx o.ctx).halted = false → Does (.strandErrorTimeout r o.id) s (s.raise o.ctx r .sequencer 0x10 (s.blockVa r) 0)) ∧
  (∀ (s : State) (r : RingId) o ch w l, s.op? r o.id = some o → o.work = .ingr ch → o.free = true → s.ingrAhead r o ch = false →
    (s.ctx o.ctx).halted = false → (s.ctx o.ctx).ingress.get [] ch.toNat = w :: l → s.dev.capOn = false →
    Does (.ingrTake r o.id) s ((s.modCtx o.ctx fun x => { x with ingress := x.ingress.put ch.toNat l }).finishOp r o.id w)) ∧
  (∀ (s : State) (r : RingId) o ch, s.op? r o.id = some o → o.work = .ingr ch → ((s.ctx o.ctx).halted = true ∨ o.free = false ∨
    s.ingrAhead r o ch = true ∨ (s.ctx o.ctx).ingress.get [] ch.toNat = []) → Does (.ingrTake r o.id) s s)

/-- R85 to R87: capture is switched on with an empty count, and again while it is on changes nothing; a consumed token of a captured context is written at its
place of the buffer, and a record that the buffer has no room for stops capture; a replay begins at its first record, takes a token record into its
channel, keeps a task record as the next start to fix, passes over a record of another context, diverges on a malformed stream (a KIND it does not
know, or a SEQ that does not ascend), at any place of it, and ends after its last record; a start whose inputs differ diverges. GO while a replay is
active is ignored by log 57, and that a record past the end of the host range is malformed is the model's choice (log 87). -/
def Obligations.CaptureAndReplay : Prop :=
  let num (s : State) : Nat := natLE (s.mem.bytes (s.dev.repBase.toNat + s.dev.repPos) 64)
  let seq (n : Nat) : BitVec 32 := BitVec.ofNat 32 (Sys2Proof.Machine.bitsOf n 32 32)
  let next (s : State) (n : Nat) : Prop :=
    s.dev.repActive = true ∧ s.dev.repPos < s.dev.repLen.toNat ∧ s.dev.repBase.toNat + s.dev.repPos + 64 ≤ 2 ^ 52 ∧ n = num s
  let ascends (s : State) (n : Nat) : Prop := ∀ l, s.dev.repLast = some l → l.toNat < (seq n).toNat
  let passed (s u : State) (n : Nat) : Prop :=
    u.dev.repPos = s.dev.repPos + 64 ∧ u.dev.repLast = some (seq n) ∧ SameMemory s u ∧
      u.dev.repActive = decide (s.dev.repPos + 64 < s.dev.repLen.toNat)
  let diverged (s u : State) : Prop :=
    u.dev.repDiverged = true ∧ u.dev.repActive = false ∧ SameMemory s u ∧ u.ctxs = s.ctxs ∧ u.rings = s.rings ∧
      (s.dev.repDiverged = false → u.dev.repStopped = some s.dev.repCtx)
  (∀ (s : State), s.dev.ready = true → s.dev.capOn = false →
    Does (.captureEnable true) s (s.modDev fun d => { d with capOn := true, capCount := 0, capBytes := 0, capStopped := false })) ∧
  (∀ (s : State), s.dev.ready = true → s.dev.capOn = true → Does (.captureEnable true) s s) ∧
  (∀ (s : State), s.dev.ready = true → Does (.captureEnable false) s (s.modDev fun d => { d with capOn := false })) ∧
  (∀ (s : State) (r : RingId) o ch w l, s.op? r o.id = some o → o.work = .ingr ch → o.free = true → s.ingrAhead r o ch = false →
    (s.ctx o.ctx).halted = false → (s.ctx o.ctx).ingress.get [] ch.toNat = w :: l → s.dev.capOn = true → s.dev.capCtx.getLsbD o.ctx = true →
    s.dev.capStopped = false →
    let at' : Nat := s.dev.capBase.toNat + 64 * s.dev.capCount
    (64 * (s.dev.capCount + 1) ≤ s.dev.capSize.toNat → hostBase ≤ at' → at' + 64 ≤ 2 ^ 52 →
      ∃ u, Does (.ingrTake r o.id) s u ∧ u.dev.capCount = s.dev.capCount + 1 ∧ u.dev.capBytes = s.dev.capBytes + 64 ∧
        (u.dev.capStopped = true ↔ s.dev.capSize.toNat < 64 * (s.dev.capCount + 2)) ∧
        u.mem.bytes at' 64 = bytesLE 2 1 ++ bytesLE 2 o.ctx.val ++ bytesLE 4 s.dev.capCount ++ bytesLE 8 s.gt.toNat ++ bytesLE 8 ch.toNat ++
          bytesLE 8 w.toNat ++ List.replicate 32 0 ∧
        ∀ a, (a < at' ∨ at' + 64 ≤ a) → u.mem.get a = s.mem.get a) ∧
    (s.dev.capSize.toNat < 64 * (s.dev.capCount + 1) →
      ∃ u, Does (.ingrTake r o.id) s u ∧ u.dev.capCount = s.dev.capCount ∧ u.dev.capStopped = true ∧ u.dev.capFull = true ∧ SameMemory s u)) ∧
  (∀ (s : State) (c : CtxId), s.dev.ready = true → s.dev.repActive = false → hostBase ≤ s.dev.repBase.toNat → s.dev.repBase.toNat < 2 ^ 52 →
    s.dev.repBase.toNat % 64 = 0 → s.dev.repLen.toNat % 64 = 0 →
    Does (.replayGo c) s (s.modDev fun d => { d with repActive := true, repCtx := c, repPos := 0, repLast := none, repFixed := [] })) ∧
  (∀ (s : State) (c : CtxId), (s.dev.repActive = true ∨ s.dev.repBase.toNat < hostBase ∨ 2 ^ 52 ≤ s.dev.repBase.toNat ∨ s.dev.repBase.toNat % 64 ≠ 0 ∨
    s.dev.repLen.toNat % 64 ≠ 0) → Does (.replayGo c) s s) ∧
  (∀ (s : State), s.dev.repActive = true → s.dev.repLen.toNat ≤ s.dev.repPos → Does .replayRecord s (s.modDev fun d => { d with repActive := false })) ∧
  (∀ (s : State), s.dev.repActive = false → Does .replayRecord s s) ∧
  (∀ (s : State), s.dev.repActive = true → s.dev.repPos < s.dev.repLen.toNat → 2 ^ 52 < s.dev.repBase.toNat + s.dev.repPos + 64 →
    ∃ u, Does .replayRecord s u ∧ diverged s u) ∧
  (∀ (s : State) n, next s n → Sys2Proof.Machine.bitsOf n 0 8 ≠ 1 → Sys2Proof.Machine.bitsOf n 0 8 ≠ 2 → ∃ u, Does .replayRecord s u ∧ diverged s u) ∧
  (∀ (s : State) n l, next s n → s.dev.repLast = some l → (seq n).toNat ≤ l.toNat → ∃ u, Does .replayRecord s u ∧ diverged s u) ∧
  (∀ (s : State) n, next s n → ascends s n → (Sys2Proof.Machine.bitsOf n 0 8 = 1 ∨ Sys2Proof.Machine.bitsOf n 0 8 = 2) →
    Sys2Proof.Machine.bitsOf n 16 16 ≠ s.dev.repCtx.val → ∃ u, Does .replayRecord s u ∧ passed s u n ∧ u.ctxs = s.ctxs ∧ u.dev.repFixed = s.dev.repFixed) ∧
  (∀ (s : State) n, next s n → ascends s n → Sys2Proof.Machine.bitsOf n 0 8 = 1 → Sys2Proof.Machine.bitsOf n 16 16 = s.dev.repCtx.val →
    let q := (s.ctx s.dev.repCtx).ingress.get [] (Sys2Proof.Machine.bitsOf n 128 4)
    (q.length < 64 → ∃ u, Does .replayRecord s u ∧ passed s u n ∧ (u.ctx s.dev.repCtx).ingress.get [] (Sys2Proof.Machine.bitsOf n 128 4) =
        q ++ [BitVec.ofNat 64 (Sys2Proof.Machine.bitsOf n 192 64)]) ∧
      (64 ≤ q.length → Does .replayRecord s s)) ∧
  (∀ (s : State) n, next s n → ascends s n → Sys2Proof.Machine.bitsOf n 0 8 = 2 → Sys2Proof.Machine.bitsOf n 16 16 = s.dev.repCtx.val →
    ∃ u f, Does .replayRecord s u ∧ passed s u n ∧ u.ctxs = s.ctxs ∧ u.dev.repFixed = s.dev.repFixed ++ [f] ∧
      f.record = Sys2Proof.Machine.bitsOf n 128 64 ∧ f.tile = BitVec.ofNat 32 (Sys2Proof.Machine.bitsOf n 192 32) ∧
      f.ring.val = Sys2Proof.Machine.bitsOf n 224 5 ∧ f.valid = BitVec.ofNat 4 (Sys2Proof.Machine.bitsOf n 232 4) ∧
      ∀ j < 4, f.crcs[j]? = some (BitVec.ofNat 32 (Sys2Proof.Machine.bitsOf n (256 + 32 * j) 32))) ∧
  (∀ (s : State) (r : RingId) g j a b, (s.ring r).staged = some g → g.tick = none → s.mayStart r g = true → s.replayDiffers r g.task = some (j, a, b) →
    ∃ u, Does (.taskStart r) s u ∧ u.dev.repDiverged = true ∧ SameMemory s u ∧ u.rings = s.rings ∧ u.dev.repFixed = s.dev.repFixed ∧
      u = (s.modDev Dev.diverged).postCtx g.task.ctx 0x08 (BitVec.ofNat 32 j)
        (bytesLE 8 (((s.ctx g.task.ctx).table.find? fun p => p.key == g.task.record).map (·.addr) |>.getD 0) ++ bytesLE 4 a.toNat ++ bytesLE 4 b.toNat))

/-! ## The dispatchers -/

/-- R76, R123, R125, R131 to R138: a launch token moves PROD, or is BAD; a placement takes, of the contexts with a candidate on the die, one with the
lowest pass value, and of its candidates one that none comes before: by effective priority, then by age of its record, then by its index; its ring is a
free one first, then one that holds more of its inputs, then one of a higher thermal allowance, then the lowest; a start gives the task its ring with
cleared registers; a complete record decrements each of its successors and retires. That a placement is counted by its die's dispatcher rests on log 101. -/
def Obligations.Dispatching : Prop :=
  let started (s u : State) (r : RingId) (t : Task) : Prop :=
    (u.ring r).cur = some { t with weight := (s.ctx t.ctx).weight } ∧ (u.ring r).staged = none ∧ (u.ring r).seqr.pc = t.entry ∧ (u.ring r).seqr.x = [] ∧
      (u.ring r).seqr.v = [] ∧ (u.ring r).seqr.stack = [] ∧ (u.ring r).seqr.priv = (s.ctx t.ctx).priv ∧ (u.ring r).stripes = (s.ctx t.ctx).stripes ∧
      (u.ring r).resident = some t.ctx ∧ (u.ring r).entered = true ∧ (u.ring r).residency = t.ins.filterMap (fun d => d.filter (·.keep)) ∧
      (u.ctx t.ctx).touched.getLsbD (ringDie r) = true ∧
      (u.die (ringDie r)).passOf t.ctx = (s.die (ringDie r)).passOf t.ctx + 65536 / max 1 (s.ctx t.ctx).weight.toNat ∧
      ((s.ring r).resident ≠ some t.ctx → (u.ring r).knots = [] ∧ ∀ i < 2 ^ 24, u.mem.get (poolKey r i) = 0) ∧
      ((s.ring r).resident = some t.ctx → SameMemory s u ∧ (u.ring r).knots = (s.ring r).knots)
  (∀ (s : State) (c : CtxId) (q : Fin 4) w l, (s.ctx c).enable = true → (s.ctx c).closing = false → (s.ctx c).halted = false → s.dev.capOn = false →
    (s.ctx c).unread = [] → (s.ctx c).ingress.get [] q.val = w :: l →
    let s1 := s.modCtx c fun x => { x with ingress := x.ingress.put q.val l }
    (w.toNat / 2 ^ 32 % 2 ^ 31 = 0 → (s.queue c q).on = true → (s.queue c q).owner = false →
      ((s.queue c q).prod - (s.queue c q).cons).toNat < (w.setWidth 32 - (s.queue c q).cons).toNat →
      (w.setWidth 32 - (s.queue c q).cons).toNat ≤ (s.queue c q).slots →
      ∃ u, Does (.launchConsume c q) s u ∧ (u.queue c q).prod = w.setWidth 32 ∧ (u.ctx c).ingress.get [] q.val = l ∧ SameMemory s u) ∧
    ((w.toNat / 2 ^ 32 % 2 ^ 31 ≠ 0 ∨ (s.queue c q).on = false ∨ (s.queue c q).owner = true ∨
        (w.setWidth 32 - (s.queue c q).cons).toNat ≤ ((s.queue c q).prod - (s.queue c q).cons).toNat ∨
        (s.queue c q).slots < (w.setWidth 32 - (s.queue c q).cons).toNat) →
      Does (.launchConsume c q) s (s1.badLaunch c q w))) ∧
  (∀ (s : State) (d : DieId), (s.dev.live.getLsbD d = false ∨ s.placeTurn d = false) → Does (.placement d) s s) ∧
  (∀ (s : State) (d : DieId) c k rings, s.dev.live.getLsbD d = true → s.placeTurn d = true →
    let s1 := ((List.finRange 64).foldl (fun s c => if s.dispatches c then s.settle c else s) ((dieRings d.val).foldl State.recall s)).lateGangs.passes d
    s1.cands d c = [(k, rings)] → (∀ o : CtxId, o ≠ c → s1.cands d o = []) → Does (.placement d) s (((s1.place c k rings).placed d).acted c)) ∧
  (∀ (s : State) c p n (rings : List Nat), (∀ q ∈ rings, q < 32) → rings ≠ [] → p.fields.ins.length ≤ 4 →
    let ins := p.fields.ins.filterMap fun d => d.map fun d => d.forTile p.fields n
    let busy (q : Nat) : Nat := if (s.ring q).cur.isNone ∧ (s.ring q).staged.isNone then 0 else 1
    let hits (q : Nat) : Nat := (ins.filter fun d => d.keep && (s.ring q).resident == some c &&
      (s.ring q).residency.any fun e => e.src == d.src && e.bytes == d.bytes && e.poff == d.poff).length
    let allow (q : Nat) : Nat := (s.thermAllow q).toNat / 32
    ∃ r : RingId, r.val ∈ rings ∧ s.place c (.index p n) rings = s.stage c p n r ∧
      (∀ q ∈ rings, q ≠ r.val → busy r < busy q ∨ (busy r = busy q ∧ (hits q < hits r ∨ (hits q = hits r ∧
        (min 8 (allow q) < min 8 (allow r) ∨ (min 8 (allow q) = min 8 (allow r) ∧ r.val < q)))))) ∧
      ∃ g, ((s.stage c p n r).ring r).staged = some g ∧ g.task = p.task c n r ∧ g.resumes = false ∧
        (∀ j < 4, g.need.contains j = true ↔ ∃ d, g.task.ins[j]? = some (some d) ∧ (s.ring r).matched c d = false)) ∧
  (∀ (s : State) c a b, s.before c a b = true ↔
    let prio (k : Cand) : Nat := min 3 (k.record.fields.prio + k.record.levels)
    prio b < prio a ∨ (prio a = prio b ∧ (s.age c a.record < s.age c b.record ∨ (s.age c a.record = s.age c b.record ∧ a.offset < b.offset)))) ∧
  (∀ (s : State) (d : DieId), s.dev.live.getLsbD d = true → s.placeTurn d = true →
    let s1 := ((List.finRange 64).foldl (fun s c => if s.dispatches c then s.settle c else s) ((dieRings d.val).foldl State.recall s)).lateGangs.passes d
    (Does (.placement d) s s1 ∧ ∀ c : CtxId, s1.cands d c = []) ∨
    ∃ c k rings, Does (.placement d) s (((s1.place c k rings).placed d).acted c) ∧ (k, rings) ∈ s1.cands d c ∧ (∀ o ∈ s1.cands d c, s1.before c o.1 k = false) ∧
      ∀ o : CtxId, s1.cands d o ≠ [] → (s1.die d).passOf c ≤ (s1.die d).passOf o) ∧
  (∀ (s : State) (r : RingId) (j : Fin 4) g d s1 keys, (s.ring r).staged = some g → g.task.ins[j.val]? = some (some d) → g.need.contains j.val = true →
    s.dispatches g.task.ctx = true → s.mayCopy r g d = true → (s.ring r).resident = some g.task.ctx → 4096 * d.poff + d.bytes ≤ 2 ^ 24 →
    (uncoreSectors (ringDie r) g.task.ctx (s.ctx g.task.ctx).priv (d.bytes / 64) d.src).go s = (.ok keys, s1) →
    ∃ u, Does (.prefetchComplete r j) s u ∧ (∀ h, (u.ring r).staged = some h → j.val ∉ h.need ∧ h.task = g.task) ∧ (u.ring r).staged.isSome = true ∧
      ∀ a, u.mem.get a =
        if h : poolKey r (4096 * d.poff) ≤ a ∧ (a - poolKey r (4096 * d.poff)) / 64 < keys.length then
          s.mem.get (keys[(a - poolKey r (4096 * d.poff)) / 64] + (a - poolKey r (4096 * d.poff)) % 64)
        else s.mem.get a) ∧
  (∀ (s : State) (r : RingId) g, (s.ring r).staged = some g → g.tick = none → s.mayStart r g = true → s.dev.repActive = false → s.dev.repFixed = [] →
    s.dev.capOn = false → g.task.span = 0 → g.task.lead = r → ∃ u, Does (.taskStart r) s u ∧ started s u r g.task) ∧
  (∀ (s s1 : State) (r : RingId) (j : Fin 4) g d e va p, (s.ring r).staged = some g → g.task.ins[j.val]? = some (some d) → g.need.contains j.val = true →
    s.dispatches g.task.ctx = true → s.mayCopy r g d = true → (s.ring r).resident = some g.task.ctx →
    (uncoreSectors (ringDie r) g.task.ctx (s.ctx g.task.ctx).priv (d.bytes / 64) d.src).go s = (.error (e, va), s1) →
    (s.ctx g.task.ctx).table.find? (fun p => p.key == g.task.record) = some p →
    (e = heldRead → Does (.prefetchComplete r j) s s) ∧ (e ≠ heldRead → Does (.prefetchComplete r j) s (s1.raise g.task.ctx r .prefetch e (BitVec.ofNat 64 p.addr) va))) ∧
  (∀ (s : State) (r : RingId) g t p, (s.ring r).staged = some g → g.tick = some t → t.toNat ≤ s.gt.toNat → s.dispatches g.task.ctx = true →
    (g.missed = true ∨ s.mayStart r g = false) → (s.ctx g.task.ctx).table.find? (fun p => p.key == g.task.record) = some p →
    Does (.gangStart r) s (s.recordTrap g.task.ctx 0x2D p.addr)) ∧
  (∀ (s : State) (r : RingId) g t, (s.ring r).staged = some g → g.tick = some t → t.toNat ≤ s.gt.toNat → g.missed = false → s.mayStart r g = true → s.dev.repActive = false →
    s.dev.repFixed = [] → s.dev.capOn = false → g.task.span = 0 → g.task.lead = r → ∃ u, Does (.gangStart r) s u ∧ started s u r g.task) ∧
  (∀ (s : State) (r : RingId) g t, (s.ring r).staged = some g → g.tick = some t → s.gt.toNat < t.toNat → Does (.gangStart r) s s) ∧
  (∀ (s : State) (c : CtxId) n p, (s.ctx c).table.find? (fun p => p.key == n) = some p → p.retired = false → p.complete = true → (s.ctx c).closing = false →
    (∀ e ∈ p.left, s.outstanding e.1 e.2 = false) → (∀ x ∈ p.fields.succs, s.waitHeld c x = false) →
    let wait (x : BitVec 2 × Nat) : Option Nat := s.recordKey ((s.queue c x.1.toNat).slotAddr x.2 + 0x20)
    ∃ u, Does (.recordComplete c n) s u ∧ (∀ q ∈ (u.ctx c).table, q.key = n → q.retired = true) ∧ (p.fields.succs = [] → SameMemory s u) ∧
      ((∀ x ∈ p.fields.succs, ∃ k, wait x = some k ∧ k + 4 ≤ 2 ^ 53 ∧ s.load k 4 ≠ 0) →
        p.fields.succs.Pairwise (fun x y => ∀ a b, wait x = some a → wait y = some b → a + 4 ≤ b ∨ b + 4 ≤ a) →
        (∀ x ∈ p.fields.succs, ∀ k, wait x = some k → u.load k 4 = s.load k 4 - 1) ∧
          ∀ a, (∀ x ∈ p.fields.succs, ∀ k, wait x = some k → a < k ∨ k + 4 ≤ a) → u.mem.get a = s.mem.get a) ∧
      (∀ x l, p.fields.succs = x :: l → (∀ k, wait x = some k → s.load k 4 = 0) → (u.ctx c).halted = true)) ∧
  (∀ (s : State) (c : CtxId) n p, (s.ctx c).table.find? (fun p => p.key == n) = some p → ((∃ e ∈ p.left, s.outstanding e.1 e.2 = true) ∨
    (∃ x ∈ p.fields.succs, s.waitHeld c x = true)) → Does (.recordComplete c n) s s) ∧
  (∀ (s : State) (c : CtxId) n p, (s.ctx c).table.find? (fun p => p.key == n) = some p → p.ready = true → (p.unsplit ≠ [] ∨ ∃ e ∈ p.shares, e.2 ≠ []) →
    p.priority < 3 → (p.levels + 1) * 2 ^ 20 ≤ (s.gt.toNat - p.readyAt) * 3 / 5 →
    Does (.priorityAging c n) s (s.modRec c n fun p => { p with levels := p.levels + 1 })) ∧
  (∀ (s : State) (r n : RingId) g t, (s.ring r).staged = some g → (s.ring r).cur = some t →
    (neighbours r).find? (fun k => (s.ring k).free && s.open k && s.allowed g.task.ctx k) = some n.val → (s.ring n).clearable g.task.ctx = true →
    g.migrate = true → g.moved = false → g.resumes = false → g.need = [] → g.since + 4096 ≤ s.cycle r → s.replays g.task.ctx = false →
    s.dispatches g.task.ctx = true →
    ∃ u h, Does (.migration r) s u ∧ (u.ring r).staged = none ∧ (u.ring r).cur = some t ∧ (u.ring n).staged = some h ∧ h.moved = true ∧
      h.task = { g.task with lead := n })

/-! ## Forks and the fabric -/

/-- R177, R183, R187, R209: a token enters the inlet of its channel with that channel's tag, or traps as too deep or as having none; a bypass cell passes
it down; a branch takes a port's next entry; and a run ends where every in-port has a boundary and the stripe is idle. -/
def Obligations.TokensMove : Prop :=
  (∀ (s : State) (r : RingId) (p : StripeId) (j : ColId) port f cfg t l, s.liveFabric r = some f → f.wraps = [] → (f.stripe p).ended = false →
    (f.stripe p).snapping = none → f.config p j = some cfg → (f.cell p j).fifo port = .tok t :: l →
    (t.punct.toNat ≤ f.hdr.d →
      (∀ sl k e, cfg.inlet t = some (sl, k) → cfg.chans[t.chan.toNat]? = some e → (Tab.get {} (f.cell p j).nodes k : Node).slot sl = none →
        (f.cell p j).winner cfg (sl, k) (s.cycle r) = some port →
        ∃ u g, Does (.tokenInlet r p j port) s u ∧ u.fabric r = some g ∧ (g.cell p j).fifo port = l ∧ SameMemory s u ∧
          (Tab.get {} (g.cell p j).nodes k : Node).slot sl = some { v := .tok { t with tag := some (tagOf e) } }) ∧
      (∀ sl k, cfg.inlet t = some (sl, k) → ((Tab.get {} (f.cell p j).nodes k : Node).slot sl).isSome = true → Does (.tokenInlet r p j port) s s) ∧
      (cfg.inlet t = none → cfg.masked t = false → Does (.tokenInlet r p j port) s ((s.trapFabric r 0x13).refill r))) ∧
    (f.hdr.d < t.punct.toNat → Does (.tokenInlet r p j port) s ((s.trapFabric r 0x18).refill r))) ∧
  (∀ (s : State) (r : RingId) (p : StripeId) (j : ColId) port f w l, s.liveFabric r = some f → f.wraps = [] → (f.stripe p).ended = false →
    (f.stripe p).snapping = none → f.hdr.period = false → (f.cell p j).fifo port = .marker w :: l →
    ((f.config p j).isSome = true → Does (.tokenInlet r p j port) s (s.trapFabric r 0x18)) ∧
    (f.config p j = none → (f.stripe p).word.valid = true → port = .up → Does (.bypassForward r p j) s (s.trapFabric r 0x18))) ∧
  (∀ (s : State) (r : RingId) (p : StripeId) (j : ColId) f t l, s.liveFabric r = some f → f.wraps = [] → (f.stripe p).ended = false →
    (f.stripe p).snapping = none → (f.stripe p).word.valid = true → f.config p j = none → (f.cell p j).up = .tok t :: l → t.punct.toNat ≤ f.hdr.d →
    s.hasRoom (s.downDest r f p j) = true → (f.cell p j).portOpen .down (s.cycle r) = true →
    Does (.bypassForward r p j) s
      (((((((s.modCell r p j fun c => (c.pop .up (s.cycle r)).portUsed .down (s.cycle r)).send (.tok t) (s.downDest r f p j)).countToken r p false).countToken r p true).moved r).refill r))) ∧
  (∀ (s : State) (r : RingId) (port : PortId) f o b e l p g cfg, s.liveFabric r = some f → (s.ring r).eng.inPorts.look port.val = some o → s.portDry r o = false →
    f.lead = r → f.op = o.op → o.next ≤ s.cycle r → o.branches = [b] → b.pos = 0 → o.fifo = e :: l → s.branchStripe o.vs b = some (p, g) → s.pastStop o b g = false →
    g.config p b.col = some cfg →
    edgeTakes (g.cell p b.col) cfg e = true →
    Does (.multicastTake r port) s (((s.send e (.inlet b.ring.val p b.col .edge)).moved b.ring.val).modEng r fun x =>
      { x with inPorts := x.inPorts.put port.val { o with next := s.cycle r + 1, fifo := l, branches := [{ b with run := match e with | .boundary => b.run + 1 | _ => b.run }] } })) ∧
  (∀ (s : State) (r : RingId) (port : PortId) f o, s.liveFabric r = some f → (s.ring r).eng.inPorts.look port.val = some o → s.portDry r o = false →
    s.cycle r < o.next → Does (.multicastTake r port) s s) ∧
  (∀ (s : State) (r : RingId) (p : StripeId) f, s.liveFabric r = some f → f.wraps = [] → f.scroll = true → (f.stripe p).word.valid = true →
    (f.stripe p).ended = false → (∀ g ∈ f.gates p true, runCloser ((f.cell p g.1).fifo g.2) = some none) → s.stripeIdle r p f = true →
    (f.passReg = [] → ∃ u g, Does (.runEnd r p) s u ∧ u.fabric r = some g ∧ (g.stripe p).ended = true ∧ (g.stripe p).closed = none ∧ SameMemory s u) ∧
    (∀ j < 32, ∀ k < 4, (f.passReg.look (passKey (f.above p) j k)).isSome = true → Does (.runEnd r p) s (s.trapFabric r 0x1A))) ∧
  (∀ (s : State) (r : RingId) (p : StripeId) f, s.liveFabric r = some f → f.wraps = [] → f.scroll = true → (f.stripe p).word.valid = true →
    (f.stripe p).ended = false → f.strayMarker p (f.gates p true) = true → Does (.runEnd r p) s (s.trapFabric r 0x18)) ∧
  (∀ (s : State) (r : RingId) (p : StripeId) f w, s.liveFabric r = some f → f.wraps = [] → f.scroll = true → (f.stripe p).word.valid = true →
    (f.stripe p).ended = false → f.hdr.period = true → f.clauses = [] → (∀ g ∈ f.gates p true, runCloser ((f.cell p g.1).fifo g.2) = some (some w)) →
    s.stripeIdle r p f = true → f.passReg = [] → f.lead = r →
    ∃ u g, Does (.runEnd r p) s u ∧ u.fabric r = some g ∧ (g.stripe p).ended = true ∧ (g.stripe p).closed = some w ∧
      ∀ a, ¬PortByte s a → u.mem.get a = s.mem.get a)

/-- R168, R185, R188 to R190, R192, R194: the oldest stripe takes its next configuration; a shadow bank fills from, and drains to, its slot; a stripe takes
a marker, writes its snapshot and passes the marker down every column, unless it is the last one, and into each out-port that it binds; and a pattern that
has rolled back starts again at its last complete wave: its walkers stand where they stood at it, its ports and links are empty, and its stripes hold the
snapshots of it, or at wave 0 the image's state. -/
def Obligations.StripesAndWaves : Prop :=
  let forwards (s u : State) (r : RingId) (p : Nat) (f g : Fabric) (w : Nat) : Prop :=
    ((p + 1) % f.p ≠ p → ∀ j < 32, (g.cell ((p + 1) % f.p) j).up = (f.cell ((p + 1) % f.p) j).up ++
      if (f.stripe p).word.vstripe.toNat + 1 = f.hdr.v then [] else [.marker w]) ∧
    ((∀ e ∈ f.cells, e.2.out = []) → s.fabricRings r = [r.val] → ∀ n ∈ f.boundOuts p, ∀ o, (s.ring r).eng.outPorts.look n = some o →
      ∃ o', (u.ring r).eng.outPorts.look n = some o' ∧ o'.fifo = o.fifo ++ [.marker w] ∧ o'.count = o.count)
  (∀ (s : State) (r : RingId) f, s.liveFabric r = some f → f.scroll = true → (f.stripe (f.oldest % f.p)).ended = true → f.shadowOk (f.oldest % f.p) = true →
    ∃ u g, Does (.reconfigure r) s u ∧ u.fabric r = some g ∧ g.oldest = f.oldest + 1 ∧ (g.stripe (f.oldest % f.p)).a = f.nextFor (f.oldest % f.p) ∧
      (g.stripe (f.oldest % f.p)).ended = false ∧ (g.stripe (f.oldest % f.p)).word = f.wordFor (f.vstripe (f.nextFor (f.oldest % f.p))) ∧ SameMemory s u) ∧
  (∀ (s : State) (r : RingId) (p : StripeId) f, s.liveFabric r = some f → f.scroll = true → p.val < f.p → (f.stripe p).shadow = .free →
    f.isStateful (f.vstripe (f.nextFor p)) = true → f.nextFor p < f.segCount →
    Does (.shadowFillStart r p) s
      ((s.modFabric r fun g => g.setStripe p { f.stripe p with shadow := .filling (f.nextFor p) (s.cycle r) }).moved r)) ∧
  (∀ (s : State) (r : RingId) (p : StripeId) f a c, s.liveFabric r = some f → (f.stripe p).shadow = .filling a c → c + 16 ≤ s.cycle r →
    Does (.shadowFillDone r p) s ((s.modFabric r fun g => g.setStripe p
      { f.stripe p with shadow := .loaded a, bank := s.readSlot r (saveUnit (s.partOf r) (f.rank (f.vstripe a))) }).moved r)) ∧
  (∀ (s : State) (r : RingId) (p : StripeId) f a c, s.liveFabric r = some f → (f.stripe p).shadow = .filling a c → s.cycle r < c + 16 →
    Does (.shadowFillDone r p) s s) ∧
  (∀ (s : State) (r : RingId) (p : StripeId) f a c, s.liveFabric r = some f → (f.stripe p).shadow = .draining a c none → c + 17 ≤ s.cycle r →
    ∃ u g, Does (.shadowDrainDone r p) s u ∧ u.fabric r = some g ∧ (g.stripe p).shadow = .free ∧
      u.mem = (s.writeSlot r (saveUnit (s.partOf r) (f.rank (f.vstripe a))) ((f.stripe p).bank.get {})).mem) ∧
  (∀ (s : State) (r : RingId) (p : StripeId) f a c w, s.liveFabric r = some f → (f.stripe p).shadow = .draining a c (some w) → c + 33 ≤ s.cycle r →
    ∃ u g, Does (.shadowDrainDone r p) s u ∧ u.fabric r = some g ∧ (g.stripe p).shadow = .free ∧
      u.mem = ((s.writeSlot r (saveUnit (s.partOf r) (f.rank (f.vstripe a))) ((f.stripe p).bank.get {})).writeSlot r
        (snapUnit (s.partOf r) (f.rank (f.vstripe a)) w) ((f.stripe p).bank.get {})).mem) ∧
  (∀ (s : State) (r : RingId) (p : StripeId) f w, s.liveFabric r = some f → f.scroll = false → (f.stripe p).word.valid = true → (f.stripe p).snapping = none →
    f.strayMarker p (f.markerGates p) = false → s.stripeIdle r p f = true → f.markerAt p = some w → f.lead = r → f.clauses = [] →
      ∃ u g, Does (.markerHandle r p) s u ∧ u.fabric r = some g ∧
        ((f.stripe p).word.stateful = true → (g.stripe p).snapping = some (w, s.cycle r) ∧ SameMemory s u) ∧
        ((f.stripe p).word.stateful = false → (g.stripe p).handled = w ∧ (g.stripe p).snapping = none ∧
          forwards s u r p f g w ∧ ∀ a, ¬PortByte s a → u.mem.get a = s.mem.get a)) ∧
  (∀ (s : State) (r : RingId) (p : StripeId) f, s.liveFabric r = some f → f.scroll = false → (f.stripe p).word.valid = true → (f.stripe p).snapping = none →
    f.strayMarker p (f.markerGates p) = true → Does (.markerHandle r p) s (s.trapFabric r 0x18)) ∧
  (∀ (s : State) (r : RingId) (p : StripeId) f w c, s.liveFabric r = some f → (f.stripe p).snapping = some (w, c) → c + 16 ≤ s.cycle r →
    ∃ u g, Does (.snapshotWritten r p) s u ∧ u.fabric r = some g ∧ (g.stripe p).snapping = none ∧ (g.stripe p).handled = w ∧
      (f.scroll = false → f.lead = r → forwards s u r p f g w) ∧ ∀ a, ¬PortByte s a →
        u.mem.get a = (s.writeSlot r (snapUnit (s.partOf r) (f.rank (f.stripe p).word.vstripe.toNat) w) fun j => (f.cell p j).image).mem.get a) ∧
  (∀ (s : State) (r : RingId) t f, s.running r = some t → s.fabric r = some f → f.rollback.isSome = true → f.lead = r →
    s.fabricRings r = [r.val] →
    ∃ u g, Does (.rollbackRestart r) s u ∧ u.fabric r = some g ∧ g.rollback = none ∧ g.markers = f.waveDone ∧ g.wraps = [] ∧ g.passReg = [] ∧
      g.passEntry = [] ∧ g.op = f.op ∧
      (∀ q x, (s.ring r).eng.inWalkers.look q = some x → x.op = f.op → ∃ y, (u.ring r).eng.inWalkers.look q = some y ∧
        y.n = x.marks.get 0 f.waveDone ∧ y.markers = f.waveDone ∧ y.stopped = false ∧ (y.done = true → y.n = x.total)) ∧
      (∀ q x, (s.ring r).eng.outWalkers.look q = some x → x.op = f.op → ∃ y, (u.ring r).eng.outWalkers.look q = some y ∧
        y.n = x.marks.get 0 f.waveDone ∧ y.markers = f.waveDone * ((s.ring r).eng.outPorts.look q).elim 1 (·.binders)) ∧
      (∀ q o, (s.ring r).eng.inPorts.look q = some o → o.op = f.op → ∃ y, (u.ring r).eng.inPorts.look q = some y ∧ y.fifo = []) ∧
      (∀ q o, (s.ring r).eng.outPorts.look q = some o → o.op = f.op → ∃ y, (u.ring r).eng.outPorts.look q = some y ∧ y.fifo = []) ∧
      (f.scroll = false → ∀ k < f.p, f.isStateful (f.vstripe k) = true → ∀ j < 32,
        let m : CellImage := if f.waveDone = 0 then f.initial (f.vstripe k) j
          else (s.readSlot r (snapUnit (s.partOf r) (f.rank (f.vstripe k)) f.waveDone)).get {} j
        (g.cell k j).acc = m.acc ∧ (g.cell k j).c = m.c ∧ (g.cell k j).g = m.g ∧ (g.cell k j).lfsr = m.lfsr ∧
          (g.cell k j).up = [] ∧ (g.cell k j).left = [] ∧ (g.cell k j).right = [] ∧ (g.cell k j).edge = []))

/-- R24, R198, R199, R248, R383: a fork whose names are held waits; else it is loaded and started, or takes its cause as the fabric's; a fabric that is
over leaves its ring and marks its fork; a fork that has not moved for 2^22 cycles stalls; and a fork that is done completes its handle. -/
def Obligations.ForksBeginAndEnd : Prop :=
  (∀ (s : State) (r : RingId) t o h image, s.running r = some t → t.lead = r → s.op? r o.id = some o → o.work = .fork h image → o.free = true → o.old = false →
    (∀ names s1, (readNames r t.ctx image).go s = (.ok names, s1) → ((s.ring r).clashes names || s.forkAhead r t.ctx o.id names) = true →
      Does (.forkAccept r o.id) s s) ∧
    ((∀ names s1, (readNames r t.ctx image).go s = (.ok names, s1) → ((s.ring r).clashes names || s.forkAhead r t.ctx o.id names) = false) →
      (∀ im init s1, (loadFork r t.ctx o.id t.span (s.ring r).seqr.poolPart (s.ring r).stripes.toNat image).go s = (.ok (im, init), s1) →
        ∃ u, Does (.forkAccept r o.id) s u ∧ u = s1.startFork r t o h image im init ∧
          ∃ k ∈ (u.ring r).eng.forks, k.op = o.id ∧ k.h = h ∧ k.image = image ∧ k.start = s1.cycle r ∧ k.fabric = im.fabric ∧ k.fabricDone = !im.fabric) ∧
      (∀ e s1, (loadFork r t.ctx o.id t.span (s.ring r).seqr.poolPart (s.ring r).stripes.toNat image).go s = (.error e, s1) →
        Does (.forkAccept r o.id) s (s1.raise o.ctx r .fabric e.1 image e.2)))) ∧
  (∀ (s : State) (r : RingId) f k, s.liveFabric r = some f → (s.ring r).eng.forks.find? (fun k => k.op == f.op) = some k → f.lead = r → k.waved = none →
    s.fabricOver r f = true → s.fabricRings r = [r.val] →
    ∃ u, Does (.fabricFinish r) s u ∧ u.fabric r = none ∧ ∀ k ∈ (u.ring r).eng.forks, k.op = f.op → k.fabricDone = true) ∧
  (∀ (s : State) (r : RingId) f k, s.liveFabric r = some f → (s.ring r).eng.forks.find? (fun k => k.op == f.op) = some k →
    (s.fabricOver r f = false ∨ k.waved.isSome = true) → Does (.fabricFinish r) s s) ∧
  (∀ (s : State) (r : RingId) k, (s.running r).isSome = true →
    (s.ring r).eng.forks.find? (fun k => k.waved.isNone && !(s.ring r).eng.forkOver k && s.forkMoved r k + 2 ^ 22 ≤ s.cycle r) = some k →
    Does (.fabricStall r) s (s.trapOn r .fabric 0x19 k.image 0)) ∧
  (∀ (s : State) (r : RingId), (∀ k ∈ (s.ring r).eng.forks, k.waved.isSome = true ∨ (s.ring r).eng.forkOver k = true ∨ s.cycle r < s.forkMoved r k + 2 ^ 22) →
    Does (.fabricStall r) s s) ∧
  (∀ (s : State) (r : RingId) (h : Fin 4) op k, Tab.get .free (s.ring r).seqr.handles h.val = Handle.outstanding op →
    (s.ring r).eng.forks.find? (fun k => k.op == op) = some k → (s.running r).isSome = true → (s.op? r op).isSome = true → k.fabricDone = true → k.starts = 0 →
    (∀ w ∈ (s.ring r).eng.inWalkers, w.2.op = op → w.2.done = true) → (∀ w ∈ (s.ring r).eng.outWalkers, w.2.op = op → w.2.done = true) →
    ∃ u, Does (.forkComplete r h) s u ∧
      Tab.get .free (u.ring r).seqr.handles h.val = Handle.complete op (min (s.cycle r - k.start) (2 ^ 32 - 1)) ∧
      (∀ x ∈ (u.ring r).eng.forks, x.op ≠ op) ∧ ∀ z ∈ (u.ring r).seqr.ops, z.id ≠ op ∧ op ∉ z.snap)

/-! ## Walkers, shuttles and eyelets -/

/-- R201, R205 to R208, R383: a walker reads the 64 bytes of its next point, and its scale word where it has an array of them, into its port and the
port's buffer; the walkers of a fork send their markers, which reach the ports beside theirs too (log 69); a walker writes the valid lanes of a
token at its next point or traps on another punctuation, and adds 1 to its knot when it is over; without a fabric a port feeds its namesake, and its fork
stops at its last marker once its ports are empty (log 105). A point's address is the base and the strides times the indices, the innermost fastest, and
its punctuation the number of innermost indices at their last value. -/
def Obligations.WalkersMove : Prop :=
  (∀ (x : Walker) n,
    let idx (k : Nat) : Nat := n / (x.counts.take k).prod % x.counts.getD k 1
    x.point n = x.base + BitVec.ofInt 64 ((List.range x.counts.length).map fun k => (idx k : Int) * x.strides.getD k 0).sum ∧
      nestPunct x.counts n = ((List.range x.counts.length).takeWhile fun k => idx k + 1 == x.counts.getD k 1).length ∧ x.total = x.counts.prod) ∧
  (∀ (s : State) (r : RingId) (n : PortId) t x o, s.running r = some t → (s.ring r).eng.inWalkers.look n.val = some x → (s.ring r).eng.inPorts.look n.val = some o →
    s.walkersRun r x.op = true → x.port = n → x.done = false → x.stopped = false → x.n < x.total → x.due = false → tokens o.fifo < o.cap →
    (∀ (s1 : State) key home side, s.engineAt r t.ctx x.space (x.point x.n) .read = .place s1 key home → s1.reaches home true = true →
      s.poisoned key 64 = false → (s.ring r).errInject.getLsbD 63 = false → s.scrolling r o.op = none → o.first + 64 * o.cap ≤ 2 ^ 24 →
      ((x.scalearr = false ∧ side = 0) ∨ (x.scalearr = true ∧ ∃ s2 k2 h2, s1.engineAt r t.ctx x.space (x.scaleAt x.n) .read = .place s2 k2 h2 ∧
        s2.reaches h2 true = true ∧ s.poisoned k2 8 = false ∧ side = BitVec.ofNat 64 (s.load k2 8))) →
      ∃ u y z k, Does (.walkerToken r n) s u ∧ (u.ring r).eng.inWalkers.look n.val = some y ∧ y = { x with n := x.n + 1 } ∧
        (u.ring r).eng.inPorts.look n.val = some z ∧ z.fifo = o.fifo ++ [.tok k] ∧ k.data = BitVec.ofNat 512 (s.load key 64) ∧
        k.valid = 0xFFFF ∧ k.punct = BitVec.ofNat 3 (nestPunct x.counts x.n) ∧ k.chan = x.chan ∧ k.side = side ∧
        ∀ a, u.mem.get a =
          let place := poolKey r (o.first + 64 * (o.count % o.cap))
          if within64 place a then k.data.extractLsb' (8 * (a - place)) 8 else s.mem.get a) ∧
    (∀ e va, s.engineAt r t.ctx x.space (x.point x.n) .read = .cause e va → Does (.walkerToken r n) s (s.trapOn r (.walker .inbound n) e x.desc va)) ∧
    (x.space = .p → 2 ^ 24 ≤ (x.point x.n).toNat → Does (.walkerToken r n) s (s.trapOn r (.walker .inbound n) 0x0D x.desc (x.point x.n)))) ∧
  (∀ (s : State) (r : RingId) (n : PortId) k x o, (s.ring r).eng.forks = [k] → (s.ring r).eng.inWalkers = [(n.val, x)] → x.op = k.op → x.port = n →
    (s.ring r).eng.inPorts.look n.val = some o → x.due = true → s.walkersRun r k.op = true → s.scrolling r k.op = none → s.waveWaits r k.op = false →
    ∃ u y z, Does (.periodMarker r) s u ∧ (u.ring r).eng.inWalkers.look n.val = some y ∧ y.markers = x.markers + 1 ∧ y.n = x.n ∧ SameMemory s u ∧
      y.stopped = ((s.ring r).slice.req && k.hdr.period) ∧ y.marks.get 0 (x.markers + 1) = x.n ∧ (u.ring r).eng.inPorts.look n.val = some z ∧
      z.fifo = o.fifo ++ [.marker (x.markers + 1)] ∧
      ∀ m (b : InPortSt), k.hdr.period = true → m ≠ n.val → (s.ring r).eng.inPorts.look m = some b → b.op = k.op →
        ∃ c, (u.ring r).eng.inPorts.look m = some c ∧ c.fifo = b.fifo ++ [.marker (x.markers + 1)]) ∧
  (∀ (s : State) (r : RingId) k w, (s.ring r).eng.forks = [k] → ((s.ring r).eng.inWalkers.map (·.1)).Nodup →
    (∀ e ∈ (s.ring r).eng.inWalkers, e.2.op = k.op → e.2.port.val = e.1 ∧ (e.2.period = 0 ∨ e.2.n = e.2.total ∨ e.2.due = true) ∧
      (e.2.due = true → e.2.markers + 1 = w)) → (∃ e ∈ (s.ring r).eng.inWalkers, e.2.op = k.op ∧ e.2.due = true) →
    s.walkersRun r k.op = true → s.scrolling r k.op = none → s.waveWaits r k.op = false →
    ∃ u, Does (.periodMarker r) s u ∧ SameMemory s u ∧
      (∀ n x, (s.ring r).eng.inWalkers.look n = some x → x.op = k.op → ∃ y, (u.ring r).eng.inWalkers.look n = some y ∧ y.n = x.n ∧
        (x.due = true → y.markers = w ∧ y.stopped = ((s.ring r).slice.req && k.hdr.period) ∧
          ∀ o, (s.ring r).eng.inPorts.look n = some o → ∃ z, (u.ring r).eng.inPorts.look n = some z ∧ z.fifo = o.fifo ++ [.marker w]) ∧
        (x.due = false → y.markers = x.markers ∧ y.stopped = x.stopped) ∧ (x.period ≠ 0 → y.marks.get 0 w = x.n)) ∧
      ∀ n (o : InPortSt), (s.ring r).eng.inPorts.look n = some o → o.op = k.op → k.hdr.period = true →
        ∃ z, (u.ring r).eng.inPorts.look n = some z ∧ z.fifo = o.fifo ++ [.marker w]) ∧
  (∀ (s : State) (r : RingId) k, (s.ring r).eng.forks = [k] → (s.running r).isSome = true → s.fabric r = none → k.fabric = false → k.waved = none →
    k.hdr.period = true → (s.ring r).eng.stands k.op = true → k.waves = (s.ring r).eng.sentMarkers k.op → markersReady ((s.ring r).eng.inOf k.op) = false →
    (∀ e ∈ (s.ring r).eng.inPorts, e.2.op = k.op → e.2.shuttle = true ∨ tokens e.2.fifo = 0) →
    ∃ u, Does (.periodMarker r) s u ∧ SameMemory s u ∧ (u.ring r).eng.forks = [{ k with waved := some k.waves }]) ∧
  (∀ (s : State) (r : RingId) (n : PortId) t x o k l, s.running r = some t → (s.ring r).eng.outWalkers.look n.val = some x →
    (s.ring r).eng.outPorts.look n.val = some o → s.walkersRun r x.op = true → x.port = n → o.fifo = .tok k :: l →
    (∀ (s1 : State) key home, x.n < x.total → k.punct.toNat = nestPunct x.counts x.n → x.scalearr = false →
      s.engineAt r t.ctx x.space (x.point x.n) .write = .place s1 key home → remoteDie r home = none → Unlocked s key →
      ∃ u y z m, Does (.walkerWrite r n) s u ∧ (u.ring r).eng.outWalkers.look n.val = some y ∧ y.n = x.n + 1 ∧
        (u.ring r).eng.outPorts.look n.val = some z ∧ z.fifo = l ++ m ∧ (s.edgeCells r = [] → m = []) ∧
        ∀ a, (¬ PortByte s a ∨ s.edgeCells r = []) → u.mem.get a =
          if within64 key a ∧ k.valid.getLsbD ((a - key) / 4) = true then k.data.extractLsb' (8 * (a - key)) 8 else s.mem.get a) ∧
    (x.total ≤ x.n ∨ k.punct.toNat ≠ nestPunct x.counts x.n →
      Does (.walkerWrite r n) s (((s.trapOn r (.walker .outbound n) 0x18 x.desc 0).flowOut r).waveCheck r))) ∧
  (∀ (s : State) (r : RingId) (n : PortId) t x o w l, s.running r = some t → (s.ring r).eng.outWalkers.look n.val = some x →
    (s.ring r).eng.outPorts.look n.val = some o → s.walkersRun r x.op = true → o.fifo = .marker w :: l →
    ∃ u y z, Does (.walkerWrite r n) s u ∧ (u.ring r).eng.outWalkers.look n.val = some y ∧ y.markers = x.markers + 1 ∧ y.n = x.n ∧
      (u.ring r).eng.outPorts.look n.val = some z ∧ z.fifo = l ∧ SameMemory s u) ∧
  (∀ (s : State) (r : RingId) d (n : PortId) x, (s.ring r).eng.walker d n.val = some x → x.done = false → s.walkersRun r x.op = true →
    (s.ring r).eng.walkerOver d x = true →
    (x.knot = none → Does (.walkerComplete r d n) s (s.modWalker r d n.val fun x => { x with done := true })) ∧
    (∀ k, x.knot = some k → s.addTurn r k.toNat (Engine.rank (.walker d n)) = true → Does (.walkerComplete r d n) s
      ((s.modWalker r d n.val fun x => { x with done := true }).knotAdd r k.toNat 1 x.error (.walker d n) x.desc))) ∧
  (∀ (s : State) (r : RingId) (n : PortId) i o e l, (s.ring r).eng.inPorts.look n.val = some i → (s.ring r).eng.outPorts.look n.val = some o → i.fifo = e :: l →
    s.walkersRun r i.op = true → (s.ring r).eng.beyondStop i = false → i.op = o.op → (∃ k ∈ (s.ring r).eng.forks, k.op = i.op ∧ k.fabric = false) → (e.isTok = true → tokens o.fifo < o.cap) →
    ∃ u y z, Does (.portDirectFeed r n) s u ∧ (u.ring r).eng.inPorts.look n.val = some y ∧ y = { i with fifo := l } ∧
      (u.ring r).eng.outPorts.look n.val = some z ∧ z.fifo = o.fifo ++ [e] ∧
      ∀ a, ¬ within64 (poolKey r (o.first + 64 * (o.count % o.cap))) a → u.mem.get a = s.mem.get a)

/-- R210 to R217: a start joins its channel; the channel reads its command, which is checked; a beat moves its 64 bytes, filled, copied, reduced or
with its checksum, and no others; the command completes with its checksum compared; and the chain's end performs what started it before its adds,
or halts for an error that no knot shows; over a lost route a copy to an eyelet stops, with ERROR on its command's knot or LINK_LOST for its context,
and leaves its channel. An error met after the chain's last add is the model's choice (log 77), and so is that what started a copy which stopped at a lost
route never performs (log 99). -/
def Obligations.ShuttlesCopy : Prop :=
  (∀ (s : State) (r : RingId) o ch w, s.op? r o.id = some o → (s.served r).isSome = true → o.work = .aperture ch w → o.free = true →
    ((s.ring r).chan ch.val).queue.length < 8 →
    Does (.shuttleStart r o.id) s
      ((s.modChan r ch.val fun c => { c with queue := c.queue ++ [{ op := some o.id, fork := none, word := w }] }).modOp r o.id fun o =>
        { o with stage := .started })) ∧
  (∀ (s : State) (r : RingId) o h image k x, s.op? r o.id = some o → (s.served r).isSome = true → o.work = .fork h image →
    (s.ring r).eng.forks.find? (fun k => k.op == o.id) = some k → k.waiting.find? (fun x => ((s.ring r).chan x.1.val).queue.length < 8) = some x →
    Does (.shuttleStart r o.id) s
      ((s.modEng r fun e => { e with forks := e.forks.map fun k => if k.op == o.id then { k with waiting := k.waiting.erase x } else k }).pushStart r o.id x)) ∧
  (∀ (s : State) (r : RingId) c (ch : ChanId) run q, s.served r = some c →
    ((((s.ring r).chan ch.val).run = some run ∧ run.cmd = none ∧ run.finished = false ∧ ((s.ring r).chan ch.val).queue = q) ∨
      ∃ st, ((s.ring r).chan ch.val).run = none ∧ ((s.ring r).chan ch.val).queue = st :: q ∧ run = { start := st, template := st.word.setWidth 12 }) →
    (∀ (s1 : State) cmd, (readTemplate r c run).go s = (.ok cmd, s1) → Does (.shuttleCommandRead r ch) s (s1.modChan r ch.val fun _ =>
      { queue := q, run := some { run with cmd := some cmd, length := run.length + 1, beat := 0, crc := if run.length = 0 then cmd.carry else run.crc,
                                           knot := if cmd.knotv then some cmd.knot else run.knot } })) ∧
    (∀ (s1 : State) e, (readTemplate r c run).go s = (.error e, s1) →
      Does (.shuttleCommandRead r ch) s ((s1.modChan r ch.val fun _ => { queue := q, run := some run }).copyTrap r ch run e))) ∧
  (∀ (s : State) (r : RingId) c (ch : ChanId) run cmd, s.served r = some c → ((s.ring r).chan ch.val).run = some run → run.cmd = some cmd →
    run.beat < cmd.beats →
    let off (own : Bool) : Nat := if own then startOffset run.start.word else 0
    (∀ (s1 : State) dk dh sk, cmd.kind.toNat < 4 → cmd.dst.type.toNat < 3 → (s.ring r).errInject.getLsbD 63 = false →
      s.engineAt r c (endSpace cmd.dst.type) (cmd.dst.beatAt cmd run.beat (off (startOdst run.start.word))) .write = .place s1 dk dh →
      remoteDie r dh = none → Unlocked s dk →
      (cmd.kind ≠ 2 → cmd.src.type.toNat < 3 ∧ ∃ s2 sh, s1.engineAt r c (endSpace cmd.src.type)
          (cmd.src.beatAt cmd run.beat (off (startOsrc run.start.word))) .read = .place s2 sk sh ∧ s2.reaches sh true = true ∧ s.poisoned sk 64 = false) →
      (cmd.kind = 1 → s.poisoned dk 64 = false ∧ s.heldKey dk = false) →
      ∃ u d, Does (.shuttleBeat r ch) s u ∧ ((u.ring r).chan ch.val).run = some d ∧
        d = { run with beat := run.beat + 1, crc := if cmd.kind = 3 then crcRun run.crc (bytesLE 64 (s.load sk 64)) else run.crc } ∧
        ∀ a, u.mem.get a =
          if within64 dk a then
            (if cmd.kind = 2 then cmd.src.addr.extractLsb' (8 * ((a - dk) % 8)) 8
             else if cmd.kind = 1 then
               (reduceBeat cmd.rfmt (BitVec.ofNat 512 (s.load dk 64)) (BitVec.ofNat 512 (s.load sk 64))).extractLsb' (8 * (a - dk)) 8
             else s.mem.get (sk + (a - dk)))
          else s.mem.get a) ∧
    (∀ (s1 : State) o sk sh, cmd.dst.type = 3 → cmd.kind = 0 → cmd.src.type.toNat < 3 → (s.ring r).errInject.getLsbD 63 = false →
      (s.ring r).eng.inPorts.look cmd.dst.port = some o → tokens o.fifo < o.cap → s.scrolling r o.op = none →
      s.engineAt r c (endSpace cmd.src.type) (cmd.src.beatAt cmd run.beat (off (startOsrc run.start.word))) .read = .place s1 sk sh →
      s1.reaches sh true = true → s.poisoned sk 64 = false →
      ∃ u d z k, Does (.shuttleBeat r ch) s u ∧ ((u.ring r).chan ch.val).run = some d ∧ d = { run with beat := run.beat + 1 } ∧
        (u.ring r).eng.inPorts.look cmd.dst.port = some z ∧ z.fifo = o.fifo ++ [.tok k] ∧ k.data = BitVec.ofNat 512 (s.load sk 64) ∧ k.valid = 0xFFFF ∧
        ∀ a, ¬ within64 (poolKey r (o.first + 64 * (o.count % o.cap))) a → u.mem.get a = s.mem.get a) ∧
    (∀ o, cmd.dst.type = 3 → (s.ring r).eng.inPorts.look cmd.dst.port = some o → o.cap ≤ tokens o.fifo → Does (.shuttleBeat r ch) s s) ∧
    (cmd.dst.type = 4 → s.heldBack r (pathTo cmd.dst.chip cmd.dst.ring) = false → s.wayTo r (pathTo cmd.dst.chip cmd.dst.ring) = false →
      ∃ u d, Does (.shuttleBeat r ch) s u ∧ ((u.ring r).chan ch.val).run = some d ∧
        d = { run with stopped := true, finished := true, cmd := none, error := some (run.error.getD 0x33) } ∧
        (cmd.knotv = true → (Tab.get {} (u.ring r).knots cmd.knot.toNat : Knot).error = true ∧ u.ctxs = s.ctxs) ∧
        (cmd.knotv = false → (u.ctx c).halted = true ∧ (u.ring r).knots = (s.ring r).knots) ∧ SameMemory s u) ∧
    (∀ (s1 : State) sk sh, cmd.dst.type = 4 → cmd.kind = 0 → cmd.src.type.toNat < 3 → (s.ring r).errInject.getLsbD 63 = false →
      pathTo cmd.dst.chip cmd.dst.ring = .die (ringDieId r) →
      s.engineAt r c (endSpace cmd.src.type) (cmd.src.beatAt cmd run.beat (off (startOsrc run.start.word))) .read = .place s1 sk sh →
      s1.reaches sh true = true → s.poisoned sk 64 = false →
      ∃ u d b, Does (.shuttleBeat r ch) s u ∧ ((u.ring r).chan ch.val).run = some d ∧
        d = { run with beat := run.beat + 1, inFlight := run.inFlight + 1 } ∧ u.dev.arrived = s.dev.arrived ++ [.beat (Fin.ofNat 32 cmd.dst.ring) b] ∧
        b.chip = ownChip ∧ b.ring = r ∧ b.chan = ch ∧ b.zone = cmd.dst.zone.setWidth 4 ∧ b.slot = cmd.dst.slot.setWidth 6 ∧ b.gen = cmd.dst.gen ∧
        b.offset = (cmd.dst.beatAt cmd run.beat (off (startOdst run.start.word))).toNat ∧ b.data = BitVec.ofNat 512 (s.load sk 64) ∧ b.check = false ∧
        b.reduce = none ∧ b.bad = false ∧ SameMemory s u) ∧
    (∀ e va, cmd.dst.type.toNat < 3 →
      s.engineAt r c (endSpace cmd.dst.type) (cmd.dst.beatAt cmd run.beat (off (startOdst run.start.word))) .write = .cause e va →
      Does (.shuttleBeat r ch) s (s.copyTrap r ch run (e, va)))) ∧
  (∀ (s : State) (r : RingId) c (ch : ChanId) run cmd, s.served r = some c → ((s.ring r).chan ch.val).run = some run → run.cmd = some cmd →
    cmd.beats ≤ run.beat → run.inFlight = 0 → run.finished = false →
    let error : Option Cause :=
      if cmd.kind = 3 ∧ cmd.chain = false ∧ run.crc ^^^ BitVec.allOnes 32 ≠ cmd.expect then some (run.error.getD 0x27) else run.error
    let next : Copy := { run with cmd := none, template := if cmd.chain then cmd.next.setWidth 12 else run.template, finished := !cmd.chain, lastAdd := none }
    ((cmd.knotv = false ∨ cmd.bytecnt = false) → ∃ u, Does (.shuttleCommandComplete r ch) s u ∧ SameMemory s u ∧
      ((u.ring r).chan ch.val).run =
        some { next with error := error, chainKnot := if cmd.knotv then run.chainKnot ++ [cmd.knot] else run.chainKnot }) ∧
    (cmd.knotv = true → cmd.bytecnt = true → cmd.chain = true → s.copyTurn r ch cmd.knot = true → Does (.shuttleCommandComplete r ch) s
      ((s.modChan r ch.val fun k => { k with run := some { next with error := none } }).copyAdd r ch error (templateVa run.template.toNat) cmd.knot
        (cmd.count0 * cmd.count1 * cmd.count2))) ∧
    (cmd.knotv = true → cmd.bytecnt = true → cmd.chain = false → s.copyTurn r ch cmd.knot = true → Does (.shuttleCommandComplete r ch) s
      (s.modChan r ch.val fun k => { k with run := some { next with error := error, lastAdd := some (cmd.knot, cmd.count0 * cmd.count1 * cmd.count2) } }))) ∧
  (∀ (s : State) (r : RingId) c (ch : ChanId) run, s.served r = some c → ((s.ring r).chan ch.val).run = some run → run.finished = true → run.inFlight = 0 →
    run.stopped = false →
    let adds : List (BitVec 6 × Nat) := run.lastAdd.toList ++ run.chainKnot.map fun k => (k, 1)
    (∀ k ∈ adds, s.copyTurn r ch k.1 = true) →
    let free := s.modChan r ch.val fun c => { c with run := none }
    (∀ done : State, ((∃ op, run.start.op = some op ∧ done = free.finishOp r op) ∨
        (run.start.op = none ∧ ∃ op, run.start.fork = some op ∧ done = free.modEng r fun e =>
          { e with forks := e.forks.map fun k => if k.op == op then { k with starts := k.starts - 1 } else k })) →
      ((run.error = none ∨ adds ≠ []) →
        Does (.copyComplete r ch) s (done.copyAdds r ch run.error (templateVa run.template.toNat) adds)) ∧
      (run.error = none → adds = [] → Does (.copyComplete r ch) s done) ∧
      (∀ k, run.error.isSome = true → adds = [] → run.knot = some k → Does (.copyComplete r ch) s (done.knotError r k.toNat))) ∧
    (∀ e, run.error = some e → adds = [] → run.knot = none → Does (.copyComplete r ch) s (s.copyTrap r ch run (e, 0)))) ∧
  (∀ (s : State) (r : RingId) c (ch : ChanId) run, s.served r = some c → ((s.ring r).chan ch.val).run = some run → run.finished = true → run.inFlight = 0 →
    run.stopped = true →
    ∃ u, Does (.copyComplete r ch) s u ∧ ((u.ring r).chan ch.val).run = none ∧ (u.ring r).knots = (s.ring r).knots ∧ SameMemory s u ∧
      (∀ op, run.start.op = some op → ∀ o ∈ (s.ring r).seqr.ops, o.id = op → ∃ z ∈ (u.ring r).seqr.ops, z.id = op ∧ z.stage = .failed) ∧
      (u.ring r).seqr.done = (s.ring r).seqr.done) ∧
  (∀ (s : State) (l : List (BitVec 6 × Nat)) k n r ch e block, s.copyAdds r ch e block ((k, n) :: l) =
    (s.copyAdd r ch e block k n).copyAdds r ch none block l)

/-- R48, R227 to R237, R152: a request takes the lowest free slot of a live zone, and its answer goes back; a beat of the reservation's holder and
generation lands in the slot, which is full with its last byte; a bad verdict and a timeout tear a slot that has bytes; what met a saved zone is
repeated; and what another chip sends waits in the pipe of its path while windows apply. -/
def Obligations.EyeletArrivals : Prop :=
  (∀ (s s1 : State) (r : RingId) stamp (q : ResvReq), s.grantHeld r q = false → Visible s q.chip (.request r q) s1 →
    let z := (s.ring r).zone q.zone.toNat
    let asked := s1.modRing r fun x => { x with asked := x.asked.put q.zone.toNat (s1.cycle r) }
    ((s.ring r).standing q.zone.toNat = .live → s.dev.live.getLsbD (ringDie r) = true →
      (z.key ≠ q.key → Does (.reservationRequest r ⟨stamp, q⟩) s (asked.sendGrant r q resvError)) ∧
      (z.key = q.key → z.freeSlot = none → Does (.reservationRequest r ⟨stamp, q⟩) s (asked.sendGrant r q 0)) ∧
      (∀ k, z.key = q.key → z.freeSlot = some k →
        ∃ u, Does (.reservationRequest r ⟨stamp, q⟩) s u ∧ ((u.ring r).zone q.zone.toNat).slot k =
            { gen := (z.slot k).gen, state := .reserved, holder := q.chip, timer := s.cycle r } ∧
          (∀ n, n ≠ k → ((u.ring r).zone q.zone.toNat).slot n = z.slot n) ∧ SameMemory s u ∧
          (q.chip ≠ ownChip → u.dev.sent = s.dev.sent ++ [(.chip q.chip, .grant q.ring q.op (grantWord k (z.slot k).gen))]))) ∧
    ((s.ring r).standing q.zone.toNat = .saved → s.dev.live.getLsbD (ringDie r) = true →
      Does (.reservationRequest r ⟨stamp, q⟩) s (s1.modRing r fun x => { x with retries := x.retries ++ [.request r q] })) ∧
    (((s.ring r).standing q.zone.toNat = .none ∨ (s.ring r).standing q.zone.toNat = .absent ∨ s.dev.live.getLsbD (ringDie r) = false) →
      Does (.reservationRequest r ⟨stamp, q⟩) s (s1.sendGrant r q resvError))) ∧
  (∀ (s s1 : State) (r : RingId) o stamp target key v w, s.op? r o.id = some o → o.work = .resv target key → o.stage = .sent →
    (((∃ l, s.dev.answers = (r, o.id, w) :: l ∧ s1 = s.modDev fun d => { d with answers := l })) ∨
      (resvChip target ≠ ownChip ∧ s.dev.flush = true ∧ (s.dev.answers.any fun a => a.1 == r && a.2.1 == o.id) = false ∧ w = v &&& 0xFFFFFF ∧ s1 = s)) →
    ((o.ret.isSome = true ∨ w.getLsbD 22 = true) → Does (.reservationResult r o.id ⟨stamp, v⟩) s ((s1.unsend r o.id).finishOp r o.id (some w))) ∧
    (o.ret = none → w.getLsbD 22 = false → Does (.reservationResult r o.id ⟨stamp, v⟩) s
      (let done := (s1.unsend r o.id).finishOp r o.id (some w); done.raise o.ctx r .sequencer 0x22 (done.blockVa r) 0))) ∧
  (∀ (s s1 : State) (r : RingId) stamp (b : EyeBeat), s.zoneTurn r b.zone.toNat = true → Visible s b.chip (.beat r b) s1 →
    let z := (s.ring r).zone b.zone.toNat
    let e := z.slot b.slot.toNat
    let key := poolKey r (z.slotAt b.slot.toNat + b.offset)
    ((s.ring r).standing b.zone.toNat = .live → s.dev.live.getLsbD (ringDie r) = true →
      (z.refuses b.slot.toNat b.chip b.gen = false → b.offset + 64 ≤ z.slotBytes → b.reduce = none → b.bad = false →
        ∃ u, Does (.eyeletBeat r ⟨stamp, b⟩) s u ∧ (((u.ring r).zone b.zone.toNat).slot b.slot.toNat).arrived = e.arrived + 64 ∧
          (((u.ring r).zone b.zone.toNat).slot b.slot.toNat).state =
            (if e.arrived + 64 = z.slotBytes ∧ ((e.awaits = false ∧ b.check = false) ∨ e.good = true) then .full else .reserved) ∧
          ∀ a, u.mem.get a = if within64 key a then b.data.extractLsb' (8 * (a - key)) 8 else s.mem.get a) ∧
      (z.refuses b.slot.toNat b.chip b.gen = true → Does (.eyeletBeat r ⟨stamp, b⟩) s (s1.answerCopy r b.chip b.ring b.chan (some 0x23))) ∧
      (z.refuses b.slot.toNat b.chip b.gen = false → z.slotBytes < b.offset + 64 →
        Does (.eyeletBeat r ⟨stamp, b⟩) s (s1.answerCopy r b.chip b.ring b.chan (some 0x24)))) ∧
    ((s.ring r).standing b.zone.toNat = .saved → s.dev.live.getLsbD (ringDie r) = true →
      Does (.eyeletBeat r ⟨stamp, b⟩) s (s1.modRing r fun x => { x with retries := x.retries ++ [.beat r b] })) ∧
    (((s.ring r).standing b.zone.toNat = .none ∨ (s.ring r).standing b.zone.toNat = .absent ∨ s.dev.live.getLsbD (ringDie r) = false) →
      Does (.eyeletBeat r ⟨stamp, b⟩) s (s1.answerCopy r b.chip b.ring b.chan (some 0x23)))) ∧
  (∀ (s s1 : State) (r : RingId) stamp (v : EyeVerdict), s.zoneTurn r v.zone.toNat = true → Visible s v.chip (.verdict r v) s1 →
    let z := (s.ring r).zone v.zone.toNat
    ((s.ring r).standing v.zone.toNat = .live → s.dev.live.getLsbD (ringDie r) = true → z.refuses v.slot.toNat v.chip v.gen = false →
      ∃ u, Does (.checksumVerdict r ⟨stamp, v⟩) s u ∧ SameMemory s u ∧
        (((u.ring r).zone v.zone.toNat).slot v.slot.toNat).state =
          (if v.good = false then .torn else if (z.slot v.slot.toNat).arrived = z.slotBytes then .full else .reserved) ∧
        (v.good = false → (((u.ring r).zone v.zone.toNat).slot v.slot.toNat).gen = (z.slot v.slot.toNat).gen + 1 ∧
          (Tab.get {} (u.ring r).knots z.knot.toNat : Knot).error = true)) ∧
    ((s.ring r).standing v.zone.toNat = .saved → s.dev.live.getLsbD (ringDie r) = true →
      Does (.checksumVerdict r ⟨stamp, v⟩) s (s1.modRing r fun x => { x with retries := x.retries ++ [.verdict r v] })) ∧
    (((s.ring r).standing v.zone.toNat = .none ∨ (s.ring r).standing v.zone.toNat = .absent ∨ s.dev.live.getLsbD (ringDie r) = false) →
      Does (.checksumVerdict r ⟨stamp, v⟩) s (s1.answerCopy r v.chip v.ring v.chan none))) ∧
  (∀ (s : State) (r : RingId) stamp (b : EyeBeat), s.zoneTurn r b.zone.toNat = true → b.chip ≠ ownChip → s.dev.flush = true →
    s.dev.arrived.contains (.beat r b) = false → (∃ x ∈ s.dev.arrived, x.ring? = some r ∧ x.chip? = some b.chip) →
    Does (.eyeletBeat r ⟨stamp, b⟩) s (s.modDev fun d => { d with arrived := d.arrived ++ [.beat r b] })) ∧
  (∀ (s : State) (r : RingId) stamp q b v,
    (s.grantHeld r q = false → ComesIn (.reservationRequest r ⟨stamp, q⟩) s q.chip r stamp (.request r q)) ∧
    (s.zoneTurn r b.zone.toNat = true → ComesIn (.eyeletBeat r ⟨stamp, b⟩) s b.chip r stamp (.beat r b)) ∧
    (s.zoneTurn r v.zone.toNat = true → ComesIn (.checksumVerdict r ⟨stamp, v⟩) s v.chip r stamp (.verdict r v))) ∧
  (∀ (s : State) (r : RingId) (n : Fin 16) (k : Fin 64),
    let z := (s.ring r).zone n.val
    let e := z.slot k.val
    (s.ring r).standing n.val = .live → k.val < z.count → e.state = .reserved →
    (s.cycle r ≤ e.timer + 2 ^ z.tout.toNat → Does (.reservationTimeout r n k) s s) ∧
    (s.beatWaits r n.val = false → e.timer + 2 ^ z.tout.toNat < s.cycle r →
      (e.arrived = 0 → Does (.reservationTimeout r n k) s (s.modZone r n.val fun z => z.setSlot k.val { gen := e.gen + 1 })) ∧
      (e.arrived ≠ 0 →
        Does (.reservationTimeout r n k) s ((s.modZone r n.val fun z => z.setSlot k.val { e with state := .torn, gen := e.gen + 1 }).zoneError r n.val)))) ∧
  (∀ (s : State) (r : RingId),
    (∀ q l, (s.ring r).retries = .request r q :: l → (s.ring r).standing q.zone.toNat ≠ .saved → s.grantHeld r q = false →
      Does (.eyeletRetry r .request) s ((s.modRing r fun x => { x with retries := l }).request r q)) ∧
    (∀ b l, (s.ring r).retries = .beat r b :: l → (s.ring r).standing b.zone.toNat ≠ .saved → s.zoneTurn r b.zone.toNat = true →
      Does (.eyeletRetry r .beat) s ((s.modRing r fun x => { x with retries := l }).beat r b)) ∧
    (∀ v l, (s.ring r).retries = .verdict r v :: l → (s.ring r).standing v.zone.toNat ≠ .saved → s.zoneTurn r v.zone.toNat = true →
      Does (.eyeletRetry r .verdict) s ((s.modRing r fun x => { x with retries := l }).verdict r v)) ∧
    (∀ kind b v, (s.ring r).retries = [.verdict r v, .beat r b] → b.chip = v.chip → b.zone = v.zone → kind ≠ .verdict → Does (.eyeletRetry r kind) s s) ∧
    (∀ kind, (∀ m ∈ (s.ring r).retries, (s.ring r).standing m.zone = .saved) → Does (.eyeletRetry r kind) s s))

/-! ## Pre-emption -/

/-- R141 to R151: a slice's end requests pre-emption where another context waits, and else begins another slice; a save begins where its buffer holds
it, by yield with the table read at YIELD and by force at entry 0 with the block given up; it ends with the ring free and the task saved; and a
restore gives back registers, stack, knots, privilege and program counter as the record holds them; for a chained task on every ring of its span. The
record has its header of 96 bytes and its sections 1 to 5 in ascending order (R149), before those that are the device's own. -/
def Obligations.SavesAndRestores : Prop :=
  (∀ (s : State) (r : RingId) t, s.running r = some t → t.lead = r → (s.ring r).slice.req = false →
    (s.ring r).slice.start + (s.ring r).slice.len ≤ s.cycle r →
    ((∃ c k, c ≠ t.ctx ∧ k ∈ t.rings ∧ s.waitsFor k c = true) →
      ∃ u, Does (.sliceEnd r) s u ∧ (u.ring r).slice.req = true ∧ u.remain r = 2 ^ (t.yclass + 8) ∧ (u.ring r).seqr = (s.ring r).seqr ∧ SameMemory s u) ∧
    ((∀ c k, k ∈ t.rings → s.waitsFor k c = true → c = t.ctx) →
      ∃ u, Does (.sliceEnd r) s u ∧ (u.ring r).slice.req = false ∧ (u.ring r).slice.start = s.cycle r ∧
        (u.ring r).slice.len = max (65536 * max 1 t.weight.toNat) (2 * (Tab.get 0 (s.ring r).srCycles t.ctx.val : BitVec 32).toNat) ∧
        (u.ring r).seqr = (s.ring r).seqr)) ∧
  (∀ (s : State) (r : RingId) t, s.running r = some t → t.lead = r → (s.ring r).slice.req = true → s.remain r = 0 →
    (∀ f, s.fabric r = some f → f.rollback = none) →
    let s1 := (s.trapSeq r 0x2E 0).modSeqr r fun q => { q.discard with yielded := none, live := none }
    (∀ (s2 : State) l, (readLive r t 0).go s1 = (.ok l, s2) →
      (0x1100000 ≤ l.saveBytes → ∃ u, Does (.forcedSave r) s u ∧ (∀ k ∈ t.rings, (u.ring k).saving = some { forced := true, live := l, start := s.cycle r }) ∧
        (u.ring r).seqr.blk = none ∧ (u.ring r).seqr.x = (s.ring r).seqr.x ∧ SameMemory s u) ∧
      (l.saveBytes < 0x1100000 → Does (.forcedSave r) s (s2.trapSeq r 0x2F t.live))) ∧
    (∀ (s2 : State) c va, (readLive r t 0).go s1 = (.error (c, va), s2) →
      (c ≠ heldRead → Does (.forcedSave r) s (s2.trapSeq r c va)) ∧ (c = heldRead → Does (.forcedSave r) s s))) ∧
  (∀ (s : State) (r : RingId) t n, s.running r = some t → t.lead = r → (s.ring r).seqr.yielded = some n → (s.ring r).slice.req = true →
    (s.ring r).quiet = true →
    (∀ (s1 : State) l, (((s.ring r).seqr.live = some l ∧ s1 = s) ∨ ((s.ring r).seqr.live = none ∧ (readLive r t n.toNat).go s = (.ok l, s1))) →
      (s1.saveFits r t.ctx false l = true →
        ∃ u, Does (.yieldSave r) s u ∧ (∀ k ∈ t.rings, (u.ring k).saving = some { forced := false, live := l, start := s.cycle r }) ∧ SameMemory s u) ∧
      (s1.saveFits r t.ctx false l = false → Does (.yieldSave r) s (s1.trapSeq r 0x2F t.live))) ∧
    (∀ (s1 : State) c va, (s.ring r).seqr.live = none → (readLive r t n.toNat).go s = (.error (c, va), s1) →
      (c ≠ heldRead → Does (.yieldSave r) s (s1.trapSeq r c va)) ∧ (c = heldRead → Does (.yieldSave r) s s))) ∧
  (∀ (s s1 : State) (r : RingId) t v, s.saves r = some (t, v) → (v.forced = true → s.settled r = true) →
    let bytes := s.saveRecord r t v.forced v.live
    ((writeVirt r t.ctx (bytes.length / 64 + 2) v.live.saveVa bytes).go s = (.ok (), s1) →
      ∃ u k, Does (.saveComplete r) s u ∧ (∀ j ∈ t.rings, (u.ring j).cur = none ∧ (u.ring j).saving = none ∧ (u.ring j).seqr.blk = none) ∧
        (u.ring r).saved = (s1.ring r).saved ++ [k] ∧ k.task = t ∧ k.buffer = v.live.saveVa ∧ k.forced = v.forced ∧ u.mem = s1.mem) ∧
    (∀ c va, (writeVirt r t.ctx (bytes.length / 64 + 2) v.live.saveVa bytes).go s = (.error (c, va), s1) →
      Does (.saveComplete r) s (s1.trapSeq r c va))) ∧
  (∀ (s : State) (r : RingId) (t : Task) forced (l0 : Live),
    let x := s.ring r
    let q := x.seqr
    let l : Live := if forced then { l0 with xmask := BitVec.allOnes 64, vmask := BitVec.allOnes 8, kmask := BitVec.allOnes 64, ranges := [(0, 4096)] } else l0
    let sec (ty count : Nat) (d : List Byte) : List Byte :=
      bytesLE 4 ty ++ bytesLE 4 count ++ bytesLE 8 d.length ++ d ++ List.replicate ((64 - d.length % 64) % 64) 0
    let set (m n : Nat) : List Nat := (List.range n).filter fun i => m.testBit i
    let masked (ty m n : Nat) (item : Nat → List Byte) : List Byte :=
      if m = 0 then [] else sec ty (set m n).length (bytesLE 8 m ++ (set m n).flatMap item)
    let addr : Nat := match (s.ctx t.ctx).table.find? fun p => p.key == t.record with | some p => p.addr | none => 0
    ∃ own body, (forced = false → s.wavedForks r = [] → (∀ e ∈ x.zones, e.2.owner ≠ some t.ctx) → own = []) ∧
      body = masked 1 l.xmask.toNat 64 (fun i => bytesLE 8 (Tab.get 0 q.x i : Word).toNat) ++
        masked 2 l.vmask.toNat 8 (fun i => bytesLE 64 (Tab.get {} q.v i : VReg).data.toNat ++ bytesLE 2 (Tab.get {} q.v i : VReg).valid.toNat ++ List.replicate 14 0) ++
        masked 3 l.kmask.toNat 64 (fun i => bytesLE 8 (Tab.get {} x.knots i : Knot).word.toNat ++ bytesLE 4 (Tab.get {} x.knots i : Knot).target.toNat ++
          List.replicate 4 0) ++
        (l.ranges.flatMap fun p => sec 4 1 (bytesLE 4 p.1 ++ bytesLE 4 p.2 ++ List.replicate 8 0 ++ s.mem.bytes (poolKey r (4096 * p.1)) (4096 * p.2))) ++
        (if l.xmask.getLsbD 62 then sec 5 q.stack.length (bytesLE 8 q.stack.length ++ q.stack.flatMap fun a => bytesLE 8 a.toNat) else []) ++ own ∧
      s.saveRecord r t forced l0 =
        [1, if forced then 2 else 1, BitVec.ofNat 8 r, x.stripes.setWidth 8] ++ bytesLE 4 (96 + body.length) ++ bytesLE 8 q.pc.toNat ++
          bytesLE 8 addr ++ bytesLE 4 t.tile.toNat ++ bytesLE 4 (crc32c body).toNat ++ bytesLE 8 s.gt.toNat ++ bytesLE 8 q.poolPart.toNat ++
          ((List.range 8).flatMap fun i => bytesLE 2 (Tab.get 0 q.issued i : BitVec 16).toNat) ++
          ((List.range 8).flatMap fun i => bytesLE 2 (Tab.get 0 q.done i : BitVec 16).toNat) ++ [if q.priv then 1 else 0] ++ List.replicate 15 0 ++ body) ∧
  (∀ (s s1 s2 : State) (r : RingId) g v, (s.ring r).staged = some g → (s.ring r).saved.find? (fun v => v.task == g.task) = some v → g.resumes = true →
    g.task.lead = r → s.dispatches g.task.ctx = true →
    (∀ k ∈ g.task.rings, (s.ring k).cur = none ∧ (s.ring k).saving = none ∧ (k = r.val ∨ (s.ring k).staged = none) ∧ s.mayRun k = true ∧
      (s.die (ringDie k)).rst = .idle ∧ (s.ring k).clearable g.task.ctx = true) →
    s1 = (g.task.rings.foldl (fun s k => s.clearRing k g.task.ctx) s).modSeqr r (fun q => { q with priv := v.priv }) →
    (∀ h p, (readRecord r v).go s1 = (.ok (h, p), s2) → (∀ f ∈ (Tab.get {} v.engines r.val : Engines).forks, f.waved = none) →
      ∃ u, Does (.restore r g.task.ctx) s u ∧ (∀ k ∈ g.task.rings, (u.ring k).cur = some g.task ∧ (u.ring k).stripes = v.stripes) ∧
        (u.ring r).staged = none ∧ (u.ring r).seqr.x = p.x ∧ (u.ring r).seqr.v = p.v ∧
        (u.ring r).seqr.stack = p.stack ∧ (v.errors = [] → (u.ring r).knots = p.knots) ∧
        (u.ring r).seqr.pc = BitVec.ofNat 64 (Sys2Proof.Machine.bitsOf h 64 64) ∧ (u.ring r).seqr.priv = h.testBit 640 ∧
        (u.ring r).slice.start = s.cycle r) ∧
    (∀ e va, (readRecord r v).go s1 = (.error (e, va), s2) →
      (e ≠ heldRead → Does (.restore r g.task.ctx) s (s2.raise g.task.ctx r .sequencer e v.buffer va)) ∧ (e = heldRead → Does (.restore r g.task.ctx) s s)) ∧
    (∀ h p (s4 : State) image e va, (readRecord r v).go s1 = (.ok (h, p), s2) →
      (let old : Engines := Tab.get {} v.engines r.val
       ((s2.placeTask r v h p).startSlice r g.task).reforkAll r g.task old (old.forks.filter (·.waved.isSome))) = (s4, some (image, e, va)) →
      (e = heldRead → Does (.restore r g.task.ctx) s s) ∧ (e ≠ heldRead →
        Does (.restore r g.task.ctx) s ((s2.modCtx g.task.ctx fun x => { x with touched := (s4.ctx g.task.ctx).touched }).raise g.task.ctx r .fabric e image va))))

/-! ## Faults from outside, recovery and contexts -/

/-- R33 to R37, R69, R109, R118, R130, R155, R160 to R162: a lost die leaves LIVE and the shares of every record; a machine check of an engine traps with the
address that its record gives; contained recovery frees the context's rings and clears its halt; GO resumes only what it may; resets, which
lose the die where it is in use; and what the scrubber logs and marks. What of a ring and of a die an uncore reset sets back beside what R33 names,
and that saved tasks stay through a core reset, is the model's choice (logs 30 and 38), and so is that GO counts no time of a halt (log 2). -/
def Obligations.FaultsAndRecovery : Prop :=
  (∀ (s : State) (d : DieId), s.dev.live.getLsbD d = true →
    ∃ u, Does (.heartbeatTimeout d) s u ∧ u.dev.live.getLsbD d = false ∧ SameMemory s u ∧ (∀ e : DieId, e ≠ d → u.dev.live.getLsbD e = s.dev.live.getLsbD e) ∧
      (∀ c ∈ s.touchers d, (u.ctx c).halted = true) ∧ ∀ c < 64, ∀ p ∈ (u.ctx c).table, p.shares.look d.val = none) ∧
  (∀ (s : State) (r : RingId) t f, s.running r = some t → s.fabric r = some f →
    Does (.machineCheck (.fabric r)) s (s.raise t.ctx r .fabric 0x3F f.image 0)) ∧
  (∀ (s : State) (r : RingId) t site e a, s.running r = some t → (s.ring r).engines.find? (fun k => k.1 == e) = some (e, a) →
    ((site = .sequencer r ∧ e = .sequencer) ∨ (site = .fabric r ∧ e = .fabric) ∨ (∃ d p, site = .walker r d p ∧ e = .walker d p) ∨
      ∃ ch, site = .shuttle r ch ∧ e = .shuttle ch) →
    Does (.machineCheck site) s (s.raise t.ctx r e 0x3F a 0)) ∧
  (∀ (s : State) (d : DieId), Does (.machineCheck (.uncore d)) s (s.loseDie d)) ∧
  (∀ (s : State) (c : CtxId), (s.ctx c).halted = true → (s.ctx c).haltClass = .contained → (s.ctx c).closing = false →
    ((s.reissueTasks c (s.tasksOf c ++ (s.savedLost c).map (·.2.task))).ctx c).exhausted = false →
    (∃ r : RingId, s.allowed c r = true ∧ s.dev.live.getLsbD (ringDie r) = true) → s.dev.parked = 0 →
    ∃ u, Does (.containedRecovery c) s u ∧ (u.ctx c).halted = false ∧ (u.ctx c).stops = [] ∧ ∀ r ∈ s.taskRings c,
      (∀ t, (u.ring r).cur = some t → t.ctx ≠ c) ∧ (∀ g, (u.ring r).staged = some g → g.task.ctx ≠ c) ∧
        ((s.ring r).resident = some c → (u.ring r).resident = none ∧ (u.ring r).knots = [] ∧ ∀ i < 2 ^ 24, u.mem.get (poolKey r i) = 0)) ∧
  (∀ (s : State) (c : CtxId), (s.ctx c).halted = true → (s.ctx c).haltClass = .contained → (s.ctx c).closing = false →
    ((s.reissueTasks c (s.tasksOf c ++ (s.savedLost c).map (·.2.task))).ctx c).exhausted = true →
    Does (.containedRecovery c) s (s.modCtx c fun x => { x with haltClass := .halting })) ∧
  (∀ (s : State) (c : CtxId), s.dev.ready = true → (s.ctx c).halted = true → (∀ k ∈ (s.ctx c).stops, k.cause = 0 ∨ k.cause = 0x09 ∨ causeClass k.cause = .info) →
    ∃ u, Does (.resumeGo c) s u ∧ (u.ctx c).halted = false ∧ (u.ctx c).stops = [] ∧ (u.ctx c).refused = (s.ctx c).refused ∧ SameMemory s u ∧
      ∀ r : RingId, { (u.ring r).seqr with ops := [] } = { (s.ring r).seqr with ops := [] } ∧ (u.ring r).cur = (s.ring r).cur ∧
        (u.ring r).seqr.ops.map (fun o => { o with since := 0, heldAt := none }) = (s.ring r).seqr.ops.map fun o => { o with since := 0, heldAt := none }) ∧
  (∀ (s : State) (c : CtxId), s.dev.ready = true → ((s.ctx c).halted = false ∨ ∃ k ∈ (s.ctx c).stops, resumable k.cause = false) →
    Does (.resumeGo c) s (s.modCtx c fun x => { x with refused := true })) ∧
  (∀ (s : State) g, ∃ u, Does (.haltNotice g) s u ∧ SameMemory s u ∧
    ∀ c < 64, (s.gangIds c).contains g = true → ((s.ctx c).stops = [] ∨ (s.ctx c).halted = true) → (u.ctx c).halted = true) ∧
  (∀ (s : State) (d : DieId), s.dev.ready = true → (s.die d).rst = .idle →
    (s.onDie d = [] → ∃ u, Does (.dieCoreReset d) s u ∧ (u.die d).rst = .core ∧ (u.die d).tcache = (s.die d).tcache ∧ u.dev.live = s.dev.live ∧
      ∀ r ∈ dieRings d, (u.ring r).seqr.x = [] ∧ (u.ring r).knots = [] ∧ (u.ring r).resident = none ∧ (u.ring r).tlb = [] ∧ (u.ring r).eff = (s.ring r).eff ∧
        (u.ring r).saved = (s.ring r).saved ∧
        ((∀ k ∈ dieRings d, ∀ e ∈ (s.ring k).heldSlice, ∀ c ∈ e.1, poolRing? c.1 = none) → ∀ i < 2 ^ 24, u.mem.get (poolKey r i) = 0)) ∧
    (s.onDie d ≠ [] → s.dev.live.getLsbD d = true →
      ∃ u, Does (.dieCoreReset d) s u ∧ (u.die d).rst = .core ∧ u.dev.live.getLsbD d = false ∧ ∀ c ∈ s.onDie d, (u.ctx c).halted = true)) ∧
  (∀ (s : State) (d : DieId), s.dev.ready = true → (s.die d).rst = .idle →
    (s.onDie d = [] → (∀ c ∈ s.touchers d, s.resides c = false) →
      ∃ u, Does (.dieUncoreReset d) s u ∧ (u.die d).rst = .uncore ∧ (u.die d).tcache = [] ∧ u.dev.live = s.dev.live ∧
        (u.die d).pwr = .running ∧ (u.die d).park = false ∧ (u.die d).parkRefused = false ∧ (u.die d).parkNext = none ∧ u.dev.parked.getLsbD d = false ∧
        (∀ c, (u.die d).passOf c = 0) ∧ (u.die d).placedAt = none ∧
        ∀ r ∈ dieRings d, (u.ring r).cmd = 0 ∧ (u.ring r).eff = 0 ∧ (u.ring r).duty = 16 ∧ (u.ring r).busy = false ∧ (u.ring r).srCycles = []) ∧
    ((s.onDie d ≠ [] ∨ ∃ c ∈ s.touchers d, s.resides c = true) → s.dev.live.getLsbD d = true →
      ∃ u, Does (.dieUncoreReset d) s u ∧ (u.die d).rst = .uncore ∧ u.dev.live.getLsbD d = false ∧ ∀ c ∈ s.touchers d, (u.ctx c).halted = true)) ∧
  (∀ (s : State) (d : DieId), (s.die d).rst = .core → Does (.coreResetDone d) s (s.modDie d fun x => { x with rst := .idle })) ∧
  (∀ (s : State) (d : DieId) (b : Bool), (s.die d).rst = .uncore →
    ((b && s.svnOk d) = true → Does (.uncoreResetDone d b) s (s.modDie d fun x => { x with rst := .idle, firmwareOk := true })) ∧
    ((b && s.svnOk d) = false → Does (.uncoreResetDone d b) s ((s.modDie d fun x => { x with rst := .idle, firmwareOk := false }).loseDie d))) ∧
  (∀ (s : State) n d w, sectorDie n = some d → s.dev.live.getLsbD d = true →
    let log (h : SectorHealth) : State := s.modDev fun v => { v with eccLog := v.eccLog ++ [(n, h)] }
    (w ≠ .whole → Does (.scrub n .uncorrectable w) s ((log .uncorrectable).mark n)) ∧
    Does (.scrub n .uncorrectable .whole) s (log .uncorrectable) ∧
    Does (.scrub n .correctable w) s (log .correctable) ∧
    Does (.scrub n .good w) s s)

/-- R105, R106, R109, R119, R140: a context's configuration, its touched dies, its task queues, and how it is enabled, closes and is cleared. A
teardown that is written in the cycle of a placement or a start of the context takes effect in the next one, which is the model's choice (log 102). -/
def Obligations.ContextsOpenAndClose : Prop :=
  ∀ (s : State) (c : CtxId) (v : Word), s.dev.ready = true →
    Does (.ctxConfigWrite c .rings v) s (s.modCtx c fun x => { x with rings := v.setWidth 32 }) ∧
    Does (.ctxConfigWrite c .cfg v) s (s.modCtx c fun x =>
      { x with weight := v.extractLsb' 32 8, unsignedOk := v.getLsbD 9, priv := v.getLsbD 8,
               stripes := if 2 ≤ v.toNat / 2 ^ 16 % 32 ∧ v.toNat / 2 ^ 16 % 32 ≤ 16 then v.extractLsb' 16 5 else x.stripes }) ∧
    (s.hasTask c = false → Does (.ctxTouchedWrite c v) s (s.modCtx c fun x => { x with touched := x.touched &&& ~~~(v.setWidth 8) })) ∧
    (s.hasTask c = true → Does (.ctxTouchedWrite c v) s s) ∧
    (∀ q : Fin 4, s.queueIdle c q = true →
      Does (.taskQueueConfig c q .base v) s (s.modQueue c q fun k => { k with base := (v.extractLsb' 7 45).setWidth 64 <<< 7, prod := 0, cons := 0 }) ∧
      Does (.taskQueueConfig c q .ctl v) s (s.modQueue c q fun k => { k with owner := v.getLsbD 8, log2n := v.setWidth 5, prod := 0, cons := 0 })) ∧
    ((s.ctx c).closing = false → (s.ctx c).tearing = false → Does (.contextEnable c) s (s.modCtx c fun x => { x with enable := true })) ∧
    ((s.ctx c).closing = true ∨ (s.ctx c).tearing = true → Does (.contextEnable c) s s) ∧
    ((s.ctx c).enable = false → Does (.contextTeardown c) s s) ∧
    ((s.ctx c).enable = true → (s.ctx c).actedAt = some (p0Cycles s.gt.toNat) →
      Does (.contextTeardown c) s (s.modCtx c fun x => { x with tearing := true })) ∧
    ((s.ctx c).enable = true → (s.ctx c).actedAt ≠ some (p0Cycles s.gt.toNat) → ∃ u, Does (.contextTeardown c) s u ∧ (u.ctx c).enable = false ∧ (u.ctx c).closing = true ∧ (u.ctx c).unread = [] ∧ SameMemory s u ∧
      (∀ q < 4, (u.ctx c).ingress.look q = none) ∧ ∀ r ∈ s.runRings c, (u.ring r).seqr.blk = none) ∧
    ((s.ctx c).closing = true → s.enqOut c = false → ∃ u, Does (.teardownComplete c) s u ∧ (u.ctx c).closing = false ∧ (u.ctx c).halted = false ∧ (u.ctx c).table = [] ∧
      (u.ctx c).launches = [] ∧ (∀ r ∈ s.taskRings c, (∀ t, (u.ring r).cur = some t → t.ctx ≠ c) ∧ ∀ g, (u.ring r).staged = some g → g.task.ctx ≠ c) ∧
      (∀ r : RingId, ∀ z ∈ (u.ring r).zones, z.2.owner ≠ some c) ∧ ∀ d : DieId, (u.die d).passOf c = 0)

/-! ## Power and heat -/

/-- R54 to R66, R416: P-state commands and transitions, the package ceiling and its throttle, parking and unparking, refresh and thermal stops. Which
measurement of an excess is a first one, and how a command that names the state in use counts, is the model's choice (log 73), and so is that parked
rings keep their DUTY in relief, and that a die that is not live has no thermal stop (log 103). -/
def Obligations.PowerAndHeat : Prop :=
  (∀ (s : State) (r : RingId) (v : Word), s.dev.ready = true →
    (s.clocked r = true → (s.ring r).busy = false →
      Does (.pstateCommand r v) s (s.modRing r fun x => { x with cmd := v.setWidth 3, busy := v.setWidth 3 != x.eff })) ∧
    (s.clocked r = true → (s.ring r).busy = true → Does (.pstateCommand r v) s (s.modRing r fun x => { x with nextCmd := some (v.setWidth 3) })) ∧
    (s.clocked r = false → Does (.pstateCommand r v) s (s.modRing r fun x => { x with cmd := v.setWidth 3, nextCmd := none, busy := false }))) ∧
  (∀ (s : State) (r : RingId), (s.ring r).busy = true → s.clocked r = true →
    ∃ u, Does (.pstateTransitionDone r) s u ∧ (u.ring r).eff = (s.ring r).cmd ∧ (u.ring r).nextCmd = none ∧ (u.ring r).seqr = (s.ring r).seqr ∧
      (u.ring r).busy = ((s.ring r).nextCmd.getD (s.ring r).cmd != (s.ring r).cmd) ∧ u.cycle r = s.cycle r) ∧
  (∀ (s : State) (v : Word), s.dev.ready = true → Does (.ceilWrite v) s (s.modDev fun d => { d with ceilW := some (v.setWidth 11) })) ∧
  (∀ (s : State) (w : BitVec 16),
    let e := max 400 (min (match s.dev.ceilW with | some c => c.toNat | none => formWatts) formWatts)
    ∃ u, Does (.powerMeasure w) s u ∧ u.dev.powerW = w ∧ u.dev.throttling = decide (e < w.toNat) ∧
      (w.toNat ≤ e → u.rings = s.rings) ∧
      (e < w.toNat → (∀ r ∈ s.unparked, (s.ring r).duty = 2) → u.dev.ceilMiss = true ∧ u.rings = s.rings) ∧
      (e < w.toNat → (∃ r ∈ s.unparked, (s.ring r).duty ≠ 2) → s.dev.throttling = false →
        ∀ r ∈ s.unparked, (u.ring r).duty = max 2 ((s.ring r).duty * e / w.toNat)) ∧
      (e < w.toNat → (∃ r ∈ s.unparked, (s.ring r).duty ≠ 2) → s.dev.throttling = true →
        ∀ r ∈ s.unparked, (u.ring r).duty = max 2 ((s.ring r).duty - 2))) ∧
  (∀ (s : State) t, s.dev.lowSince = some t →
    (s.gt.toNat < t + 20000 → Does .dutyRelief s s) ∧
    (t + 20000 ≤ s.gt.toNat → ∃ u, Does .dutyRelief s u ∧ ∀ r ∈ s.unparked, (u.ring r).duty = min 16 ((s.ring r).duty + 1))) ∧
  (∀ (s : State) (d : DieId), s.dev.ready = true →
    ((s.die d).pwr = .running → s.onDie d = [] → s.heldBy d = [] → Does (.diePark d) s (s.modDie d fun x => { x with pwr := .parking, park := true })) ∧
    ((s.die d).pwr = .running → (s.onDie d ≠ [] ∨ s.heldBy d ≠ []) →
      Does (.diePark d) s (s.modDie d fun x => { x with parkRefused := true, park := false })) ∧
    ((s.die d).pwr = .parked → Does (.diePark d) s s ∧ Does (.dieUnpark d) s (s.modDie d fun x => { x with pwr := .unparking, park := false })) ∧
    ((s.die d).pwr = .running → Does (.dieUnpark d) s s) ∧
    ((s.die d).pwr = .parking ∨ (s.die d).pwr = .unparking → Does (.diePark d) s (s.modDie d fun x => { x with parkNext := some true }) ∧
      Does (.dieUnpark d) s (s.modDie d fun x => { x with parkNext := some false }))) ∧
  (∀ (s : State) (d : DieId), (s.die d).pwr = .parking →
    ∃ u, Does (.parkDone d) s u ∧ (u.die d).pwr = (if (s.die d).parkNext = some false then .unparking else .parked) ∧ u.dev.parked.getLsbD d = true ∧
      SameMemory s u ∧ ∀ r ∈ dieRings d, (u.ring r).busy = false ∧ (u.ring r).cmd = (s.ring r).nextCmd.getD (s.ring r).cmd) ∧
  (∀ (s : State) (d : DieId), (s.die d).pwr = .unparking → (s.die d).parkNext ≠ some true →
    ∃ u, Does (.unparkDone d) s u ∧ (u.die d).pwr = .running ∧ u.dev.parked.getLsbD d = false ∧ (u.die d).heldHost = [] ∧
      (∀ r ∈ dieRings d, (u.ring r).eff = (s.ring r).cmd) ∧ ((s.die d).heldHost = [] → SameMemory s u)) ∧
  (∀ (s : State) (d : DieId) (ts : List Nat) (tj hbm : BitVec 8), ts.length = 4 →
    ∃ u, Does (.thermAllowUpdate d ts tj hbm) s u ∧ (u.die d).tjC = tj ∧ (u.die d).hbmC = hbm ∧
      (∀ j < 4, (Tab.get 0 (u.die d).allow j : BitVec 8).toNat =
        let a := min 255 ((105 - ts.getD j 0) * 255 / 60)
        if j = 0 then min a (min 255 ((95 - hbm.toNat) * 255 / 30)) else a)) ∧
  (∀ (s : State) (d : DieId) (t : BitVec 8),
    (85 < t.toNat → (s.die d).refresh2x = false → Does (.hbmRefreshDouble d t) s (s.modDie d fun x => { x with hbmC := t, refresh2x := true, hold := true, holdFrom := s.gt.toNat })) ∧
    (t.toNat < 82 → (s.die d).refresh2x = true → Does (.hbmRefreshNormal d t) s (s.modDie d fun x => { x with hbmC := t, refresh2x := false, hold := true, holdFrom := s.gt.toNat })) ∧
    ((s.die d).hold = true → (s.die d).holdFrom + 3000 ≤ s.gt.toNat → Does (.refreshHoldEnd d) s (s.modDie d fun x => { x with hold := false })) ∧
    (((s.die d).hold = false ∨ s.gt.toNat < (s.die d).holdFrom + 3000) → Does (.refreshHoldEnd d) s s)) ∧
  (∀ (s : State) (d : DieId) (tj hbm : BitVec 8), s.dev.live.getLsbD d = true → (s.die d).tstop = false → (115 ≤ tj.toNat ∨ 100 ≤ hbm.toNat) →
    ∃ u, Does (.thermalStop d tj hbm) s u ∧ (u.die d).tstop = true ∧ SameMemory s u ∧ ∀ c ∈ s.touchers d, (u.ctx c).halted = true) ∧
  (∀ (s : State) (d : DieId) (tj hbm : BitVec 8), (tj.toNat < 115 ∧ hbm.toNat < 100) ∨ (s.die d).tstop = true ∨ s.dev.live.getLsbD d = false →
    Does (.thermalStop d tj hbm) s s) ∧
  (∀ (s : State) (d : DieId), s.dev.ready = true → ∃ u, Does (.tstopClear d) s u ∧
    (u.die d).tstop = ((s.die d).tstop && !(decide ((s.die d).tjC.toNat < 95) && decide ((s.die d).hbmC.toNat < 85))))

/-! ## Circuits, ports and ground time -/

/-- R25 to R29, R39 to R44, R70, R163, R235: a connection entry's states from request to rest; a flit is taken in sequence, dropped as a repeat, or asked
for again, and one for another chip goes on; and a port narrows, or is lost as every chip hears. What a release of a circuit that is up writes is
the model's choice (log 74). -/
def Obligations.CircuitsAndPorts : Prop :=
  (∀ (s : State) (n : Fin 64) (v : Word), s.dev.ready = true → (s.conn n).rests = true →
    ∃ u, Does (.circuitRequest n v) s u ∧ (u.conn n).valid = true ∧ (u.conn n).state = (if s.connBad n v then .rejected else .tuning) ∧
      (u.conn n).lambda = v.extractLsb' 32 16 ∧ (u.conn n).src = v.extractLsb' 16 8 ∧ (u.conn n).dst = v.extractLsb' 8 8 ∧
      ∀ k, k ≠ n.val → u.conn k = s.conn k) ∧
  (∀ (s : State) (n : Fin 64) (v : Word), s.dev.ready = true → (s.conn n).rests = false → Does (.circuitRequest n v) s s) ∧
  (∀ (s : State) (n : Fin 64) (v : Word), s.dev.ready = true →
    ((s.conn n).rests = true → Does (.circuitTeardown ⟨n, v⟩) s
      (s.setConn n { valid := false, state := .idle, lambda := v.extractLsb' 32 16, src := v.extractLsb' 16 8, dst := v.extractLsb' 8 8 })) ∧
    ((s.conn n).state = .up → Does (.circuitTeardown ⟨n, v⟩) s (s.setConn n { s.conn n with valid := false, state := .draining })) ∧
    ((s.conn n).state = .tuning ∨ (s.conn n).state = .draining → Does (.circuitTeardown ⟨n, v⟩) s s)) ∧
  (∀ (s : State) (n : Fin 64),
    ((s.conn n).state = .tuning → s.endFenced (s.conn n).src = false → s.endFenced (s.conn n).dst = false →
      Does (.tuningComplete n) s (s.setConn n { s.conn n with state := .up })) ∧
    (s.endFenced (s.conn n).src = true ∨ s.endFenced (s.conn n).dst = true → Does (.tuningComplete n) s s) ∧
    ((s.conn n).state = .tuning → Does (.tuningFail n) s (s.setConn n { s.conn n with state := .fault })) ∧
    ((s.conn n).state = .draining → (∀ x ∈ s.dev.pipes, ∀ w ∈ x.writes, w.via ≠ some n) →
      Does (.circuitDrained n) s (s.setConn n { s.conn n with state := .idle })) ∧
    ((∃ x ∈ s.dev.pipes, ∃ w ∈ x.writes, w.via = some n) → Does (.circuitDrained n) s s) ∧
    ((s.conn n).state = .up ∨ (s.conn n).state = .draining → ∃ u, Does (.circuitFault n) s u ∧ SameMemory s u ∧
      u.conn n = { s.conn n with state := .fault } ∧ (∀ x ∈ u.dev.pipes, ∀ w ∈ x.writes, w.via ≠ some n) ∧
      u.dev.pipes.map (fun x => (x.path, x.writes.map (·.msg))) = s.dev.pipes.map fun x => (x.path, x.writes.map (·.msg)))) ∧
  (∀ (s : State) (p : LinkId) (f : Flit) (bad : BitVec 64), (s.link p).up = true → (s.link p).failing bad = [] → ((s.link p).count bad).worn = [] →
    f.type ≠ .seal →
    ∃ u, Does (.flitReceive p f bad) s u ∧ SameMemory s u ∧ u.gt = s.gt ∧
      (crc64 (flitBytes f) = f.crc → f.type ≠ .idle → f.seq = (s.link p).recvSeq →
        (u.link p).recvSeq = (s.link p).recvSeq + 1 ∧ (u.link p).inbox = (s.link p).inbox ++ if f.dest = ownChip then [f] else []) ∧
      (crc64 (flitBytes f) ≠ f.crc ∨ f.type = .idle ∨ f.seq ≠ (s.link p).recvSeq →
        (u.link p).inbox = (s.link p).inbox ∧ (u.link p).recvSeq = (s.link p).recvSeq) ∧
      (crc64 (flitBytes f) ≠ f.crc → (s.link p).narrowing = none → (s.link p).waiting = 0 →
        ∃ g, (u.link p).wire = (s.link p).wire ++ [g] ∧ g.type = .idle ∧ g.nak = true ∧ g.ack = (s.link p).recvSeq - 1) ∧
      (crc64 (flitBytes f) = f.crc → f.seq ≠ (s.link p).recvSeq → f.nak = false → (s.link p).narrowing = none → (s.link p).waiting = 0 →
        ∃ g, (u.link p).wire = (s.link p).wire ++ [g] ∧ g.type = .idle ∧ g.ack = (s.link p).recvSeq - 1 ∧
          ((f.type = .idle ∨ 0x800 ≤ (s.link p).recvSeq - f.seq - 1) → g.nak = true)) ∧
      (crc64 (flitBytes f) = f.crc → f.type ≠ .idle → f.seq = (s.link p).recvSeq → f.dest ≠ ownChip →
        ∀ q, (s.routeOf f.dest).bind ownPort = some q → q ≠ p → (s.link q).up = true → (s.link q).narrowing = none → (s.link q).waiting = 0 →
          (s.link q).hasCredit f.vc = true → (s.link q).kept.length < 2048 →
          ∃ g, (u.link q).wire = (s.link q).wire ++ [g] ∧ g.vc = f.vc ∧ g.type = f.type ∧ g.window = f.window ∧ g.dest = f.dest ∧
            g.payload = f.payload ∧ g.seq = (s.link q).sendSeq)) ∧
  (∀ (s : State) (p : LinkId) (f : Flit) (bad : BitVec 64), (s.link p).up = true → (s.link p).failing bad = [] → ((s.link p).count bad).worn = [] →
    f.type = .seal → crc64 (flitBytes f) = f.crc → f.seq = (s.link p).recvSeq → f.vc ≠ 2 → s.dev.flush = false →
    ∃ u, Does (.flitReceive p f bad) s u ∧ (u.link p).recvSeq = (s.link p).recvSeq + 1 ∧
      (u.link p).sealIn.get 0 f.vc.toNat = max ((s.link p).sealIn.get 0 f.vc.toNat) (s.fullWindow f.window + 1)) ∧
  (∀ (s : State) (p : LinkId) (f : Flit) (bad : BitVec 64), (s.link p).up = false → Does (.flitReceive p f bad) s s) ∧
  (∀ (s : State) (p : LinkId) (w : Fin 16) n, (s.link p).up = true → (s.link p).group ≤ w.val → w.val < (s.link p).group + widthOf (s.link p).width →
    ({ s.link p with lambdaOk := (s.link p).lambdaOk &&& ~~~(1#16 <<< w.val) } : Link).narrower = some n →
    ∃ u, Does (.wavelengthFail p w) s u ∧ (u.link p).narrowing = some n ∧ (u.link p).lambdaOk.getLsbD w.val = false ∧ (u.link p).up = true) ∧
  (∀ (s : State) (p : LinkId) (w : Fin 16), (s.link p).up = true → (s.link p).group ≤ w.val → w.val < (s.link p).group + widthOf (s.link p).width →
    ({ s.link p with lambdaOk := (s.link p).lambdaOk &&& ~~~(1#16 <<< w.val) } : Link).narrower = none → (s.link p).lost = false →
    ∃ u, Does (.wavelengthFail p w) s u ∧ (u.link p).lost = true ∧ (u.link p).up = false ∧ (.all, .portLost p) ∈ u.dev.sent) ∧
  (∀ (s : State) (p : LinkId) w g, (s.link p).narrowing = some (w, g) →
    ∃ u, Does (.portNarrowDone p) s u ∧ (u.link p).width = w ∧ (u.link p).group = g ∧ (u.link p).narrowing = none ∧
      ((s.link p).up = true → ∃ m, (u.link p).wire = (s.link p).wire ++ (s.link p).kept ++ m)) ∧
  (∀ (s : State) (chip : BitVec 16) (p : LinkId), s.dev.lostPorts.contains (chip, p) = false →
    ∃ u, Does (.portLostNotice chip p) s u ∧ u.dev.lostPorts.contains (chip, p) = true ∧ 
      (s.dev.arrived = [] → (∀ x ∈ s.dev.pipes, x.writes = []) → SameMemory s u) ∧ u.gt = s.gt) ∧
  (∀ (s : State) (chip : BitVec 16) (p : LinkId), s.dev.lostPorts.contains (chip, p) = true → Does (.portLostNotice chip p) s s)

/-- R45, R47: Sync, its follow-up, the peer-delay exchange and Announce, with what goes on to the other ports and what goes back. Ground time moves to
the origin's time plus what lies on the way, and never back: that the clock steps at once and in forward direction alone is the model's choice (log
12), and so is when a round of messages leaves (log 76). -/
def Obligations.GroundTime : Prop :=
  (∀ (s : State) (p : LinkId) seq a, ∃ u, Does (.ptpSync p seq a) s u ∧ (u.link p).syncSeq = seq ∧ (u.link p).syncAt = a ∧ (u.link p).syncOut = s.gt ∧
    u.gt = s.gt ∧ SameMemory s u ∧ u.dev.sent = s.dev.sent ++ (s.otherPorts p).map fun q => (.port q, .sync seq)) ∧
  (∀ (s : State) (p : LinkId) seq o k, (s.link p).syncSeq = seq →
    let t := o + k + (s.link p).linkDelay + (s.gt - (s.link p).syncAt)
    ∃ u, Does (.ptpFollowUp p seq o k) s u ∧ u.gt = (if Config.grandmaster = false ∧ s.gt.toNat < t.toNat then t else s.gt) ∧ SameMemory s u ∧
      ((∀ c < 64, (s.ctx c).tearing = false) → ∀ r : RingId, (u.ring r).seqr = (s.ring r).seqr ∧ u.cycle r = s.cycle r) ∧
      u.dev.sent = s.dev.sent ++ (s.otherPorts p).map fun q =>
        (.port q, .followUp seq o (k + (s.link p).linkDelay + ((s.link p).syncOut - (s.link p).syncAt)))) ∧
  (∀ (s : State) (p : LinkId) seq o k, (s.link p).syncSeq ≠ seq → Does (.ptpFollowUp p seq o k) s s) ∧
  (∀ (s : State) (p : LinkId) seq a, ∃ u, Does (.ptpPdelayReq p seq a) s u ∧ u.gt = s.gt ∧ SameMemory s u ∧
    u.dev.sent = s.dev.sent ++ [(.port p, .delayResp seq a), (.port p, .delayFollowUp seq s.gt)]) ∧
  (∀ (s : State) (p : LinkId) seq q a, (s.link p).pdelaySeq = seq →
    Does (.ptpPdelayResp p seq q a) s (s.setLink p { s.link p with pdelayReqAt := q, pdelayRespAt := a })) ∧
  (∀ (s : State) (p : LinkId) seq w, (s.link p).pdelaySeq = seq →
    ∃ u, Does (.ptpPdelayRespFollowUp p seq w) s u ∧ (u.link p).pdelaySeq = seq + 1 ∧ u.gt = s.gt ∧
      (u.link p).linkDelay = BitVec.ofNat 64 ((((s.link p).pdelayRespAt - (s.link p).pdelaySent).toNat - (w - (s.link p).pdelayReqAt).toNat) / 2) ∧
      u.dev.sent = s.dev.sent ++ [(.port p, .delayReq (seq + 1)), (.port p, .announce s.dev.window)] ++
        if Config.grandmaster then [(.port p, .sync (seq + 1)), (.port p, .followUp (seq + 1) s.gt 0)] else []) ∧
  (∀ (s : State) (p : LinkId) (n : BitVec 4),
    ∃ u, Does (.announce p n) s u ∧ (u.link p).wmismatch = (n != s.dev.window) ∧
      ((s.dev.flush = true ∨ n = s.dev.window) → (u.link p).up = (s.link p).up ∧ (u.link p).lost = (s.link p).lost) ∧
      (s.dev.flush = false → n ≠ s.dev.window → (u.link p).lost = true))

/-! ## Bring-up and the host -/

/-- R67 to R70: power-good begins phase 1; the phases follow one another, fencing what fails, until DEV_READY; with no die left bring-up fails. -/
def Obligations.BringUp : Prop :=
  (∀ s : State, ∃ u, Does .powerGood s u ∧ u.dev.phase = 1 ∧ u.dev.ready = false ∧ u.dev.flush = true ∧ u.gt = s.gt ∧ u.dev.svnFuse = s.dev.svnFuse ∧
    u.rings = [] ∧ u.ctxs = [] ∧ u.dies = [] ∧ SameMemory s u) ∧
  (∀ (s : State) (m : BitVec 8) w, s.dev.ready = false → s.dev.bootFail = false →
    (s.dev.phase = 1 → (∃ d : DieId, m.getLsbD d = true ∧ s.svnOk d = true) →
      ∃ u, Does (.bootPhaseDone m w) s u ∧ u.dev.phase = 2 ∧ ∀ d : DieId, (u.die d).firmwareOk = (m.getLsbD d && s.svnOk d)) ∧
    (s.dev.phase = 1 → (∀ d : DieId, m.getLsbD d = true → s.svnOk d = false) →
      ∃ u, Does (.bootPhaseDone m w) s u ∧ u.dev.bootFail = true ∧ u.dev.phase = 1) ∧
    (s.dev.phase = 2 → (∃ d : DieId, m.getLsbD d = true ∧ (s.die d).firmwareOk = true ∧ s.dev.fenced.getLsbD d = false) →
      ∃ u, Does (.bootPhaseDone m w) s u ∧ u.dev.phase = 3 ∧ ∀ d : DieId,
        u.dev.live.getLsbD d = (m.getLsbD d && (s.die d).firmwareOk && !s.dev.fenced.getLsbD d) ∧ u.dev.fenced.getLsbD d = !u.dev.live.getLsbD d) ∧
    (s.dev.phase = 2 → (∀ d : DieId, m.getLsbD d = true → (s.die d).firmwareOk = true → s.dev.fenced.getLsbD d = true) →
      ∃ u, Does (.bootPhaseDone m w) s u ∧ u.dev.bootFail = true ∧ u.dev.phase = 2 ∧ u.dev.live = 0 ∧ u.dev.ready = false) ∧
    (s.dev.phase = 3 → ∃ u, Does (.bootPhaseDone m w) s u ∧ u.dev.phase = 4 ∧ u.dev.routes = w.routes ∧
      ∀ e ∈ w.ports, (u.link e.1).up = true ∧ (u.link e.1).lambdaOk = 0xFFFF) ∧
    (s.dev.phase = 4 → ∃ u, Does (.bootPhaseDone m w) s u ∧ u.dev.phase = 5 ∧
      ∀ a, u.mem.get a = if 2 ^ 51 ≤ a ∧ a < 2 ^ 52 then s.mem.get a else 0) ∧
    (s.dev.phase = 5 → ∃ u, Does (.bootPhaseDone m w) s u ∧ u.dev.phase = 6 ∧ u.dev.share = w.share.val ∧ u.dev.flush = true ∧
      ∀ d : DieId, d ∈ u.dev.striped ↔ s.dev.live.getLsbD d = true) ∧
    (s.dev.phase = 6 → Does (.bootPhaseDone m w) s (s.modDev fun v => { v with ready := true }))) ∧
  (∀ (s : State) (m : BitVec 8) w, s.dev.bootFail = true ∨ s.dev.ready = true → Does (.bootPhaseDone m w) s s) ∧
  (∀ (s : State) (d : DieId), s.dev.phase = 2 → Does (.dieAuthTimeout d) s (s.modDev fun v => { v with fenced := v.fenced ||| (1#8 <<< d.val) }))

/-- R69, R72, R74 to R79, R82, R84, R92: a token from the host joins its channel, or its error is recorded; the host reads and writes device memory; egress queues,
attestation, key slots and the SVN fuse; a register's offset leads to its
own move, and what the host reads at an offset that is no register's, and in the aperture window, is zero. -/
def Obligations.HostSide : Prop :=
  (∀ (s : State) (c : CtxId) n (l : List Byte),
    let err (o ch kind stray : Nat) : Prop := ∃ u, Does (.ingressWrite (4096 * c.val + o) l) s u ∧ (u.ctx c).ingress = (s.ctx c).ingress ∧
      (u.ctx c).egq = (s.ctx c).egq.post { kind := 0x04, ctx := BitVec.ofNat 16 c.val, a := BitVec.ofNat 32 (ch + 2 ^ 8 * kind + 2 ^ 16 * stray)
                                           b := (l ++ List.replicate 8 0).take 8 }
    (s.ctx c).enable = true → (s.dev.repActive = false ∨ s.dev.repCtx ≠ c) →
      (n < 16 → l.length = 8 → 64 ≤ ((s.ctx c).ingress.get [] n).length → err (8 * n) n 1 0) ∧
      (∀ o < 0x80, (l.length ≠ 8 ∨ o % 8 ≠ 0) → err o (o / 8) 0 0) ∧ (∀ o < 4096, 0x80 ≤ o → err o 0 0 1)) ∧
  (∀ (q : EgQueue) e,
    (q.room = true → q.held = [] → q.post e = { q with lines := q.lines ++ [(e, none)] }) ∧
    ((q.room = false ∨ q.held ≠ []) → q.held.length < 16 → q.post e = { q with held := q.held ++ [e] }) ∧
    ((q.room = false ∨ q.held ≠ []) → 16 ≤ q.held.length → (q.post e).lost = true ∧ (q.post e).lines = q.lines ∧ (q.post e).held = q.held)) ∧
  (∀ (s : State) (c : CtxId) n (l : List Byte), n < 16 → l.length = 8 → (s.ctx c).enable = true → (s.dev.repActive = false ∨ s.dev.repCtx ≠ c) →
    (((s.ctx c).ingress.get [] n).length < 64 → Does (.ingressWrite (4096 * c.val + 8 * n) l) s
      (s.modCtx c fun x => { x with ingress := x.ingress.put n (x.ingress.get [] n ++ [BitVec.ofNat 64 (natLE l)]) })) ∧
    (64 ≤ ((s.ctx c).ingress.get [] n).length → ∃ u, Does (.ingressWrite (4096 * c.val + 8 * n) l) s u ∧ (u.ctx c).ovf.getLsbD n = true ∧
      (u.ctx c).ingress = (s.ctx c).ingress)) ∧
  (∀ (s : State) (c : CtxId) o (l : List Byte), o < 4096 →
    ((s.ctx c).enable = false ∨ (s.dev.repActive = true ∧ s.dev.repCtx = c) → Does (.ingressWrite (4096 * c.val + o) l) s s) ∧
    ((s.ctx c).enable = true → (s.dev.repActive = false ∨ s.dev.repCtx ≠ c) →
      (0x80 ≤ o → ∃ u, Does (.ingressWrite (4096 * c.val + o) l) s u ∧ (u.ctx c).stray = true ∧ (u.ctx c).ingress = (s.ctx c).ingress) ∧
      (o < 0x80 → (l.length ≠ 8 ∨ o % 8 ≠ 0) →
        ∃ u, Does (.ingressWrite (4096 * c.val + o) l) s u ∧ (u.ctx c).bad.getLsbD (o / 8) = true ∧ (u.ctx c).ingress = (s.ctx c).ingress))) ∧
  (∀ (s : State) n d b, s.dev.ready = true → (∀ i < n, s.locate (b + i) = .ok (b + i, .die d) ∧ s.poison.contains (sectorOf (b + i)) = false) →
    (s.die d).hold = false → Does (.cxlMemRead b n) s (s.modDev fun v => { v with reads := v.reads ++ [some (s.mem.bytes b n)] })) ∧
  (∀ (s : State) n d b, s.dev.ready = true → 0 < n → s.locate b = .ok (b, .die d) → (s.die d).hold = true → Does (.cxlMemRead b n) s s) ∧
  (∀ (s : State) d b (l : List Byte), s.dev.ready = true → b + l.length ≤ 2 ^ 51 → (∀ i < l.length, s.locate (b + i) = .ok (b + i, .die d)) →
    ∃ u, Does (.cxlMemWrite b l) s u ∧ u.rings = s.rings ∧ ∀ a, u.mem.get a = if h : b ≤ a ∧ a - b < l.length then l[a - b] else s.mem.get a) ∧
  (∀ (s : State) b (l : List Byte) r, s.dev.ready = true → sliceRing? b = some r → s.dev.live.getLsbD (ringDie r) = true →
    (s.clocked r = true → Does (.cxlMemWrite b l) s (s.store (cellsAt b l))) ∧
    (s.clocked r = false → Does (.cxlMemWrite b l) s (s.modDie (ringDie r) fun x => { x with heldHost := x.heldHost ++ [cellsAt b l] }))) ∧
  (∀ (s : State) (q : QueueId) (v : Word), s.dev.ready = true →
    ∃ u, Does (.egqConfigWrite q .base v) s u ∧ (u.egq q).base = v &&& ~~~0x3F ∧ (u.egq q).prod = 0 ∧ (u.egq q).cons = 0 ∧ SameMemory s u) ∧
  (∀ (s : State) (q : QueueId) (v : Word), s.dev.ready = true →
    ∃ u, Does (.egqConfigWrite q .ctl v) s u ∧ (u.egq q).log2n = v.setWidth 5 ∧ (u.egq q).irqEn = v.getLsbD 8 ∧ (u.egq q).vector = v.extractLsb' 16 8 ∧
      (u.egq q).prod = 0 ∧ (u.egq q).cons = 0 ∧ SameMemory s u) ∧
  (∀ (s : State) (q : QueueId) (v : Word), s.dev.ready = true →
    ((v.setWidth 32 - (s.egq q).cons).toNat ≤ ((s.egq q).prod - (s.egq q).cons).toNat →
      ∃ u, Does (.egqConsWrite q v) s u ∧ (u.egq q).cons = v.setWidth 32 ∧ (u.egq q).prod = (s.egq q).prod) ∧
    (((s.egq q).prod - (s.egq q).cons).toNat < (v.setWidth 32 - (s.egq q).cons).toNat →
      ∃ u, Does (.egqConsWrite q v) s u ∧ u.egq q = s.egq q)) ∧
  (∀ (s : State) (q : QueueId) e t, (s.egq q).lines = (e, none) :: t → (s.egq q).usable = true →
    (2 ^ (s.egq q).log2n.toNat ≤ ((s.egq q).prod - (s.egq q).cons).toNat → Does (.egressRecordVisible q) s s) ∧
    (((s.egq q).prod - (s.egq q).cons).toNat < 2 ^ (s.egq q).log2n.toNat → ∃ u, Does (.egressRecordVisible q) s u ∧ (u.egq q).prod = (s.egq q).prod + 1 ∧ (u.egq q).lines = t ∧
      (∀ i < 64, u.mem.get ((s.egq q).base.toNat + 64 * ((s.egq q).prod.toNat % 2 ^ (s.egq q).log2n.toNat) + i) =
        (e.bytes (s.egq q).prod (s.egq q).log2n.toNat s.gt).getD i 0) ∧
      u.dev.irqs = s.dev.irqs ++ (match (s.egq q).raises q with
        | some v => if v < 65 ∧ (Tab.get {} s.dev.msix v : MsixEntry).masked = false then [BitVec.ofNat 8 v] else []
        | none => []))) ∧
  (∀ s : State, s.dev.ready = true → s.dev.attBusy = false → Does .attestGo s (s.modDev fun d => { d with attBusy := true })) ∧
  (∀ s : State, s.dev.attBusy = true → ∃ u, Does .attestDone s u ∧ u.dev.attBusy = false ∧
    (2 ^ 51 ≤ s.dev.attDest.toNat → s.dev.attDest.toNat + 4096 ≤ 2 ^ 52 → u.dev.attDone = true ∧
      (∀ i b, ((Config.report s.dev.report s.freeCtr).take 4096)[i]? = some b → u.mem.get (s.dev.attDest.toNat + i) = b) ∧
      ∀ a, (a < s.dev.attDest.toNat ∨ s.dev.attDest.toNat + 4096 ≤ a) → u.mem.get a = s.mem.get a) ∧
    ((s.dev.attDest.toNat < 2 ^ 51 ∨ 2 ^ 52 < s.dev.attDest.toNat + 4096) → u.dev.attErr = true ∧ SameMemory s u)) ∧
  (∀ (s : State) (k : Fin 16) (v : Word), s.dev.ready = true → (s.dev.keySlots.get {} k.val : KeySlot).valid = false →
    ∃ u, Does (.keySlotWrite k 48 v) s u ∧ (u.dev.keySlots.get {} k.val : KeySlot).valid = v.getLsbD 0 ∧
      (u.dev.keySlots.get {} k.val : KeySlot).hash = (s.dev.keySlots.get {} k.val : KeySlot).hash) ∧
  (∀ (s : State) (v : Word), s.dev.ready = true →
    (s.dev.svnFuse.toNat < v.toNat → v.toNat ≤ (Config.imageSvn s.master).toNat → Does (.fuseSvnWrite v) s (s.modDev fun d => { d with svnFuse := v })) ∧
    (v.toNat ≤ s.dev.svnFuse.toNat → Does (.fuseSvnWrite v) s s)) ∧
  (∀ (s : State) (v : Word), s.dev.ready = true →
    (∀ (c : CtxId),
      let own (o : Nat) (i : Instr) : Prop := exec (.registerWrite (0x10000 + 0x100 * c.val + o) v) s = exec i s
      own 0x08 (.egqConfigWrite (.ctx c) .base v) ∧ own 0x10 (.egqConfigWrite (.ctx c) .ctl v) ∧ own 0x20 (.egqConsWrite (.ctx c) v) ∧
      own 0x38 (.ctxConfigWrite c .rings v) ∧ own 0x48 (.ctxTouchedWrite c v) ∧ (v.getLsbD 0 = true → own 0x58 (.shootdownGo c)) ∧
      (v.getLsbD 0 = true → v.getLsbD 1 = false → own 0x60 (.resumeGo c)) ∧
      (∀ q : Fin 4, own (0x80 + 0x20 * q.val) (.taskQueueConfig c q .base v) ∧ own (0x88 + 0x20 * q.val) (.taskQueueConfig c q .ctl v)) ∧
      (∀ u, Does (.ctxConfigWrite c .cfg v) s u → exec (.registerWrite (0x10030 + 0x100 * c.val) v) s =
        exec (if v.getLsbD 0 then .contextEnable c else .contextTeardown c) u) ∧
      Does (.registerWrite (0x10000 + 0x100 * c.val) v) s (s.modCtx c fun x =>
        { x with stray := x.stray && !v.getLsbD 48, ovf := x.ovf &&& ~~~(v.extractLsb' 16 16), bad := x.bad &&& ~~~(v.setWidth 16) }) ∧
      ((s.ctx c).enable = false → Does (.registerWrite (0x10040 + 0x100 * c.val) v) s (s.modCtx c fun x =>
        { x with ptbase := v &&& 0xFFFFFFFFFF000 })) ∧
      ((s.ctx c).enable = true → Does (.registerWrite (0x10040 + 0x100 * c.val) v) s s) ∧
      Does (.registerWrite (0x10050 + 0x100 * c.val) v) s (s.modCtx c fun x => { x with shootVa := v &&& 0x1FFFFFFFFFF0003 }) ∧
      Does (.registerWrite (0x10068 + 0x100 * c.val) v) s (s.modCtx c fun x => { x with keys := v.setWidth 16 })) ∧
    (∀ (n : Fin 64), exec (.registerWrite (0x20000 + 8 * n.val) v) s = exec (if v.getLsbD 63 then .circuitRequest n v else .circuitTeardown ⟨n, v⟩) s) ∧
    exec (.registerWrite 0x40008 v) s = exec (.ceilWrite v) s ∧
    Does (.registerWrite 0x40010 v) s (s.modDev fun d => { d with ceilMiss := d.ceilMiss && !v.getLsbD 17 }) ∧
    (∀ (r : RingId), exec (.registerWrite (0x40100 + 8 * r.val) v) s = exec (.pstateCommand r v) s) ∧
    (∀ (d : DieId), exec (.registerWrite (0x40200 + 8 * d.val) v) s =
        exec (if v.getLsbD 0 then .diePark d else .dieUnpark d) (if v.getLsbD 1 then s.modDie d fun x => { x with parkRefused := false } else s) ∧
      (v.getLsbD 63 = true → exec (.registerWrite (0x40300 + 8 * d.val) v) s = exec (.tstopClear d) s) ∧
      (v.getLsbD 1 = true → exec (.registerWrite (0x40600 + 8 * d.val) v) s = exec (.dieUncoreReset d) s) ∧
      (v.getLsbD 1 = false → v.getLsbD 0 = true → exec (.registerWrite (0x40600 + 8 * d.val) v) s = exec (.dieCoreReset d) s)) ∧
    exec (.registerWrite 0x40400 v) s = exec (.fuseSvnWrite v) s ∧
    (∀ k < 4, Does (.registerWrite (0x40500 + 8 * k) v) s (s.modDev fun d => { d with nonce := d.nonce.put k v })) ∧
    Does (.registerWrite 0x40520 v) s (s.modDev fun d => { d with attDest := v &&& 0xFFFFFFFFFFFFF000 }) ∧
    (∀ u, u = s.modDev (fun d => { d with attDone := d.attDone && !v.getLsbD 2, attErr := d.attErr && !v.getLsbD 3 }) →
      (v.getLsbD 0 = false → Does (.registerWrite 0x40528 v) s u) ∧ (v.getLsbD 0 = true → exec (.registerWrite 0x40528 v) s = exec .attestGo u)) ∧
    (∀ (k : Fin 16) (o : Fin 8), exec (.registerWrite (0x40800 + 0x40 * k.val + 8 * o.val) v) s = exec (.keySlotWrite k (8 * o.val) v) s) ∧
    exec (.registerWrite 0x50008 v) s = exec (.egqConfigWrite .dev .base v) s ∧ exec (.registerWrite 0x50010 v) s = exec (.egqConfigWrite .dev .ctl v) s ∧
    exec (.registerWrite 0x50020 v) s = exec (.egqConsWrite .dev v) s ∧
    (∀ n < 65, s.dev.pba.getLsbD n = false →
      Does (.registerWrite (0x52000 + 16 * n) v) s (s.modDev fun d =>
        { d with msix := d.msix.put n { (d.msix.get {} n : MsixEntry) with addr := v } }) ∧
      Does (.registerWrite (0x52008 + 16 * n) v) s (s.modDev fun d =>
        { d with msix := d.msix.put n { (d.msix.get {} n : MsixEntry) with data := v.setWidth 32, masked := v.getLsbD 32 } })) ∧
    Does (.registerWrite 0x60000 v) s (s.modDev fun d => { d with capBase := v &&& 0xFFFFFFFFFFFFF000 }) ∧
    Does (.registerWrite 0x60008 v) s (s.modDev fun d => { d with capSize := v &&& 0xFFFFFFFFFFFFF000 }) ∧
    exec (.registerWrite 0x60010 v) s = exec (.captureEnable (v.getLsbD 0)) (s.modDev fun d => { d with capFull := d.capFull && !v.getLsbD 1 }) ∧
    Does (.registerWrite 0x60018 v) s (s.modDev fun d => { d with capCtx := v }) ∧
    (v.getLsbD 2 = false →
      ∀ (c : CtxId) u, c.val = (v.extractLsb' 8 6).toNat → u = s.modDev (fun d => { d with repCtx := c }) →
      (v.getLsbD 0 = true → exec (.registerWrite 0x60020 v) s = exec (.replayGo c) u) ∧ (v.getLsbD 0 = false → Does (.registerWrite 0x60020 v) s u)) ∧
    Does (.registerWrite 0x60028 v) s (s.modDev fun d => { d with repBase := v }) ∧
    Does (.registerWrite 0x60030 v) s (s.modDev fun d => { d with repLen := v }) ∧
    Does (.registerWrite 0x70000 v) s s) ∧
  (∀ (s : State) off (v : Word), s.dev.ready = false → Does (.registerWrite off v) s s) ∧
  (∀ (s : State) off, (off % 8 ≠ 0 ∨ 0x61000 ≤ off → s.readReg off = 0) ∧ s.readAperture off = 0) ∧
  (∀ s : State, s.readReg 0x30100 = s.gt ∧ (s.readReg 0x40010).getLsbD 16 = s.throttle)
end

