-- ==== Sys2Proof/Laws/Tab.lean ====
section
/-!
SUPPORT. Reading a table after an update.
-/

namespace Sys2Proof

variable {α : Type}

theorem Tab.get_put_same (d : α) (t : Tab α) (k : Nat) (v : α) : Tab.get d (Tab.put t k v) k = v := by
  induction t with
  | nil => simp [Tab.put, Tab.get]
  | cons e t ih =>
    obtain ⟨j, u⟩ := e
    simp only [Tab.put]
    split
    · simp [Tab.get, *]
    · split
      · simp [Tab.get]
      · rename_i h _
        simp [Tab.get, Ne.symm h, ih]

theorem Tab.get_put_other (d : α) (t : Tab α) {k n : Nat} (v : α) (h : n ≠ k) : Tab.get d (Tab.put t k v) n = Tab.get d t n := by
  induction t with
  | nil => simp [Tab.put, Tab.get, Ne.symm h]
  | cons e t ih =>
    obtain ⟨j, u⟩ := e
    simp only [Tab.put]
    split
    · rename_i hk
      subst hk
      simp [Tab.get, Ne.symm h]
    · split
      · simp [Tab.get, Ne.symm h]
      · simp [Tab.get, ih]

theorem Tab.get_put (d : α) (t : Tab α) (k n : Nat) (v : α) :
    Tab.get d (Tab.put t k v) n = if n = k then v else Tab.get d t n := by
  split
  · next h => subst h; exact Tab.get_put_same d t _ v
  · next h => exact Tab.get_put_other d t v h

theorem Tab.look_put_same (t : Tab α) (k : Nat) (v : α) : Tab.look (Tab.put t k v) k = some v := by
  induction t with
  | nil => simp [Tab.put, Tab.look]
  | cons e t ih =>
    obtain ⟨j, u⟩ := e
    simp only [Tab.put]
    split
    · simp [Tab.look, *]
    · split
      · simp [Tab.look]
      · rename_i h _
        simp [Tab.look, Ne.symm h, ih]

theorem Tab.look_put_other (t : Tab α) {k n : Nat} (v : α) (h : n ≠ k) : Tab.look (Tab.put t k v) n = Tab.look t n := by
  induction t with
  | nil => simp [Tab.put, Tab.look, Ne.symm h]
  | cons e t ih =>
    obtain ⟨j, u⟩ := e
    simp only [Tab.put]
    split
    · rename_i hk
      subst hk
      simp [Tab.look, Ne.symm h]
    · split
      · simp [Tab.look, Ne.symm h]
      · simp [Tab.look, ih]

theorem Tab.look_del_same (t : Tab α) (k : Nat) : Tab.look (Tab.del t k) k = none := by
  induction t with
  | nil => simp [Tab.del, Tab.look]
  | cons e t ih =>
    obtain ⟨j, u⟩ := e
    simp only [Tab.del, List.filter_cons] at ih ⊢
    split
    · rename_i h
      simp only [Tab.look, if_neg (bne_iff_ne.mp h), ih]
    · exact ih

end Sys2Proof
end

