-- ==== Sys2Proof/Laws/State.lean ====
section
/-!
SUPPORT. One lemma for each field and each update of the state, and what a ring, die or context is after an update.
-/

namespace Sys2Proof.Machine

variable (s : State)

/-! ## `State.setRing` -/

@[simp] theorem State.setRing_gt (r : Nat) (x : Ring) : (s.setRing r x).gt = s.gt := rfl
@[simp] theorem State.setRing_agenda (r : Nat) (x : Ring) : (s.setRing r x).agenda = s.agenda := rfl
@[simp] theorem State.setRing_focus (r : Nat) (x : Ring) : (s.setRing r x).focus = s.focus := rfl
@[simp] theorem State.setRing_focusIdx (r : Nat) (x : Ring) : (s.setRing r x).focusIdx = s.focusIdx := rfl
@[simp] theorem State.setRing_freeCtr (r : Nat) (x : Ring) : (s.setRing r x).freeCtr = s.freeCtr := rfl
@[simp] theorem State.setRing_mem (r : Nat) (x : Ring) : (s.setRing r x).mem = s.mem := rfl
@[simp] theorem State.setRing_poison (r : Nat) (x : Ring) : (s.setRing r x).poison = s.poison := rfl
@[simp] theorem State.setRing_dev (r : Nat) (x : Ring) : (s.setRing r x).dev = s.dev := rfl
@[simp] theorem State.setRing_dies (r : Nat) (x : Ring) : (s.setRing r x).dies = s.dies := rfl
@[simp] theorem State.setRing_ctxs (r : Nat) (x : Ring) : (s.setRing r x).ctxs = s.ctxs := rfl

/-! ## `State.setDie` -/

@[simp] theorem State.setDie_gt (d : Nat) (x : Die) : (s.setDie d x).gt = s.gt := rfl
@[simp] theorem State.setDie_agenda (d : Nat) (x : Die) : (s.setDie d x).agenda = s.agenda := rfl
@[simp] theorem State.setDie_focus (d : Nat) (x : Die) : (s.setDie d x).focus = s.focus := rfl
@[simp] theorem State.setDie_focusIdx (d : Nat) (x : Die) : (s.setDie d x).focusIdx = s.focusIdx := rfl
@[simp] theorem State.setDie_freeCtr (d : Nat) (x : Die) : (s.setDie d x).freeCtr = s.freeCtr := rfl
@[simp] theorem State.setDie_mem (d : Nat) (x : Die) : (s.setDie d x).mem = s.mem := rfl
@[simp] theorem State.setDie_poison (d : Nat) (x : Die) : (s.setDie d x).poison = s.poison := rfl
@[simp] theorem State.setDie_dev (d : Nat) (x : Die) : (s.setDie d x).dev = s.dev := rfl
@[simp] theorem State.setDie_rings (d : Nat) (x : Die) : (s.setDie d x).rings = s.rings := rfl
@[simp] theorem State.setDie_ctxs (d : Nat) (x : Die) : (s.setDie d x).ctxs = s.ctxs := rfl

/-! ## `State.setCtx` -/

@[simp] theorem State.setCtx_gt (c : Nat) (x : Ctx) : (s.setCtx c x).gt = s.gt := rfl
@[simp] theorem State.setCtx_agenda (c : Nat) (x : Ctx) : (s.setCtx c x).agenda = s.agenda := rfl
@[simp] theorem State.setCtx_focus (c : Nat) (x : Ctx) : (s.setCtx c x).focus = s.focus := rfl
@[simp] theorem State.setCtx_focusIdx (c : Nat) (x : Ctx) : (s.setCtx c x).focusIdx = s.focusIdx := rfl
@[simp] theorem State.setCtx_freeCtr (c : Nat) (x : Ctx) : (s.setCtx c x).freeCtr = s.freeCtr := rfl
@[simp] theorem State.setCtx_mem (c : Nat) (x : Ctx) : (s.setCtx c x).mem = s.mem := rfl
@[simp] theorem State.setCtx_poison (c : Nat) (x : Ctx) : (s.setCtx c x).poison = s.poison := rfl
@[simp] theorem State.setCtx_dev (c : Nat) (x : Ctx) : (s.setCtx c x).dev = s.dev := rfl
@[simp] theorem State.setCtx_dies (c : Nat) (x : Ctx) : (s.setCtx c x).dies = s.dies := rfl
@[simp] theorem State.setCtx_rings (c : Nat) (x : Ctx) : (s.setCtx c x).rings = s.rings := rfl

/-! ## `State.modRing` -/

@[simp] theorem State.modRing_gt (r : Nat) (f : Ring → Ring) : (s.modRing r f).gt = s.gt := rfl
@[simp] theorem State.modRing_agenda (r : Nat) (f : Ring → Ring) : (s.modRing r f).agenda = s.agenda := rfl
@[simp] theorem State.modRing_focus (r : Nat) (f : Ring → Ring) : (s.modRing r f).focus = s.focus := rfl
@[simp] theorem State.modRing_focusIdx (r : Nat) (f : Ring → Ring) : (s.modRing r f).focusIdx = s.focusIdx := rfl
@[simp] theorem State.modRing_freeCtr (r : Nat) (f : Ring → Ring) : (s.modRing r f).freeCtr = s.freeCtr := rfl
@[simp] theorem State.modRing_mem (r : Nat) (f : Ring → Ring) : (s.modRing r f).mem = s.mem := rfl
@[simp] theorem State.modRing_poison (r : Nat) (f : Ring → Ring) : (s.modRing r f).poison = s.poison := rfl
@[simp] theorem State.modRing_dev (r : Nat) (f : Ring → Ring) : (s.modRing r f).dev = s.dev := rfl
@[simp] theorem State.modRing_dies (r : Nat) (f : Ring → Ring) : (s.modRing r f).dies = s.dies := rfl
@[simp] theorem State.modRing_ctxs (r : Nat) (f : Ring → Ring) : (s.modRing r f).ctxs = s.ctxs := rfl

/-! ## `State.modDie` -/

@[simp] theorem State.modDie_gt (d : Nat) (f : Die → Die) : (s.modDie d f).gt = s.gt := rfl
@[simp] theorem State.modDie_agenda (d : Nat) (f : Die → Die) : (s.modDie d f).agenda = s.agenda := rfl
@[simp] theorem State.modDie_focus (d : Nat) (f : Die → Die) : (s.modDie d f).focus = s.focus := rfl
@[simp] theorem State.modDie_focusIdx (d : Nat) (f : Die → Die) : (s.modDie d f).focusIdx = s.focusIdx := rfl
@[simp] theorem State.modDie_freeCtr (d : Nat) (f : Die → Die) : (s.modDie d f).freeCtr = s.freeCtr := rfl
@[simp] theorem State.modDie_mem (d : Nat) (f : Die → Die) : (s.modDie d f).mem = s.mem := rfl
@[simp] theorem State.modDie_poison (d : Nat) (f : Die → Die) : (s.modDie d f).poison = s.poison := rfl
@[simp] theorem State.modDie_dev (d : Nat) (f : Die → Die) : (s.modDie d f).dev = s.dev := rfl
@[simp] theorem State.modDie_rings (d : Nat) (f : Die → Die) : (s.modDie d f).rings = s.rings := rfl
@[simp] theorem State.modDie_ctxs (d : Nat) (f : Die → Die) : (s.modDie d f).ctxs = s.ctxs := rfl

/-! ## `State.modCtx` -/

@[simp] theorem State.modCtx_gt (c : Nat) (f : Ctx → Ctx) : (s.modCtx c f).gt = s.gt := rfl
@[simp] theorem State.modCtx_agenda (c : Nat) (f : Ctx → Ctx) : (s.modCtx c f).agenda = s.agenda := rfl
@[simp] theorem State.modCtx_focus (c : Nat) (f : Ctx → Ctx) : (s.modCtx c f).focus = s.focus := rfl
@[simp] theorem State.modCtx_focusIdx (c : Nat) (f : Ctx → Ctx) : (s.modCtx c f).focusIdx = s.focusIdx := rfl
@[simp] theorem State.modCtx_freeCtr (c : Nat) (f : Ctx → Ctx) : (s.modCtx c f).freeCtr = s.freeCtr := rfl
@[simp] theorem State.modCtx_mem (c : Nat) (f : Ctx → Ctx) : (s.modCtx c f).mem = s.mem := rfl
@[simp] theorem State.modCtx_poison (c : Nat) (f : Ctx → Ctx) : (s.modCtx c f).poison = s.poison := rfl
@[simp] theorem State.modCtx_dev (c : Nat) (f : Ctx → Ctx) : (s.modCtx c f).dev = s.dev := rfl
@[simp] theorem State.modCtx_dies (c : Nat) (f : Ctx → Ctx) : (s.modCtx c f).dies = s.dies := rfl
@[simp] theorem State.modCtx_rings (c : Nat) (f : Ctx → Ctx) : (s.modCtx c f).rings = s.rings := rfl

/-! ## `State.modDev` -/

@[simp] theorem State.modDev_gt (f : Dev → Dev) : (s.modDev f).gt = s.gt := rfl
@[simp] theorem State.modDev_agenda (f : Dev → Dev) : (s.modDev f).agenda = s.agenda := rfl
@[simp] theorem State.modDev_focus (f : Dev → Dev) : (s.modDev f).focus = s.focus := rfl
@[simp] theorem State.modDev_focusIdx (f : Dev → Dev) : (s.modDev f).focusIdx = s.focusIdx := rfl
@[simp] theorem State.modDev_freeCtr (f : Dev → Dev) : (s.modDev f).freeCtr = s.freeCtr := rfl
@[simp] theorem State.modDev_mem (f : Dev → Dev) : (s.modDev f).mem = s.mem := rfl
@[simp] theorem State.modDev_poison (f : Dev → Dev) : (s.modDev f).poison = s.poison := rfl
@[simp] theorem State.modDev_dies (f : Dev → Dev) : (s.modDev f).dies = s.dies := rfl
@[simp] theorem State.modDev_rings (f : Dev → Dev) : (s.modDev f).rings = s.rings := rfl
@[simp] theorem State.modDev_ctxs (f : Dev → Dev) : (s.modDev f).ctxs = s.ctxs := rfl

/-! ## `State.modSeqr` -/

@[simp] theorem State.modSeqr_gt (r : Nat) (f : Seqr → Seqr) : (s.modSeqr r f).gt = s.gt := rfl
@[simp] theorem State.modSeqr_agenda (r : Nat) (f : Seqr → Seqr) : (s.modSeqr r f).agenda = s.agenda := rfl
@[simp] theorem State.modSeqr_focus (r : Nat) (f : Seqr → Seqr) : (s.modSeqr r f).focus = s.focus := rfl
@[simp] theorem State.modSeqr_focusIdx (r : Nat) (f : Seqr → Seqr) : (s.modSeqr r f).focusIdx = s.focusIdx := rfl
@[simp] theorem State.modSeqr_freeCtr (r : Nat) (f : Seqr → Seqr) : (s.modSeqr r f).freeCtr = s.freeCtr := rfl
@[simp] theorem State.modSeqr_mem (r : Nat) (f : Seqr → Seqr) : (s.modSeqr r f).mem = s.mem := rfl
@[simp] theorem State.modSeqr_poison (r : Nat) (f : Seqr → Seqr) : (s.modSeqr r f).poison = s.poison := rfl
@[simp] theorem State.modSeqr_dev (r : Nat) (f : Seqr → Seqr) : (s.modSeqr r f).dev = s.dev := rfl
@[simp] theorem State.modSeqr_dies (r : Nat) (f : Seqr → Seqr) : (s.modSeqr r f).dies = s.dies := rfl
@[simp] theorem State.modSeqr_ctxs (r : Nat) (f : Seqr → Seqr) : (s.modSeqr r f).ctxs = s.ctxs := rfl

/-! ## `State.modEng` -/

@[simp] theorem State.modEng_gt (r : Nat) (f : Engines → Engines) : (s.modEng r f).gt = s.gt := rfl
@[simp] theorem State.modEng_agenda (r : Nat) (f : Engines → Engines) : (s.modEng r f).agenda = s.agenda := rfl
@[simp] theorem State.modEng_focus (r : Nat) (f : Engines → Engines) : (s.modEng r f).focus = s.focus := rfl
@[simp] theorem State.modEng_focusIdx (r : Nat) (f : Engines → Engines) : (s.modEng r f).focusIdx = s.focusIdx := rfl
@[simp] theorem State.modEng_freeCtr (r : Nat) (f : Engines → Engines) : (s.modEng r f).freeCtr = s.freeCtr := rfl
@[simp] theorem State.modEng_mem (r : Nat) (f : Engines → Engines) : (s.modEng r f).mem = s.mem := rfl
@[simp] theorem State.modEng_poison (r : Nat) (f : Engines → Engines) : (s.modEng r f).poison = s.poison := rfl
@[simp] theorem State.modEng_dev (r : Nat) (f : Engines → Engines) : (s.modEng r f).dev = s.dev := rfl
@[simp] theorem State.modEng_dies (r : Nat) (f : Engines → Engines) : (s.modEng r f).dies = s.dies := rfl
@[simp] theorem State.modEng_ctxs (r : Nat) (f : Engines → Engines) : (s.modEng r f).ctxs = s.ctxs := rfl

/-! ## `State.modFabric` -/

@[simp] theorem State.modFabric_gt (r : Nat) (f : Fabric → Fabric) : (s.modFabric r f).gt = s.gt := rfl
@[simp] theorem State.modFabric_agenda (r : Nat) (f : Fabric → Fabric) : (s.modFabric r f).agenda = s.agenda := rfl
@[simp] theorem State.modFabric_focus (r : Nat) (f : Fabric → Fabric) : (s.modFabric r f).focus = s.focus := rfl
@[simp] theorem State.modFabric_focusIdx (r : Nat) (f : Fabric → Fabric) : (s.modFabric r f).focusIdx = s.focusIdx := rfl
@[simp] theorem State.modFabric_freeCtr (r : Nat) (f : Fabric → Fabric) : (s.modFabric r f).freeCtr = s.freeCtr := rfl
@[simp] theorem State.modFabric_mem (r : Nat) (f : Fabric → Fabric) : (s.modFabric r f).mem = s.mem := rfl
@[simp] theorem State.modFabric_poison (r : Nat) (f : Fabric → Fabric) : (s.modFabric r f).poison = s.poison := rfl
@[simp] theorem State.modFabric_dev (r : Nat) (f : Fabric → Fabric) : (s.modFabric r f).dev = s.dev := rfl
@[simp] theorem State.modFabric_dies (r : Nat) (f : Fabric → Fabric) : (s.modFabric r f).dies = s.dies := rfl
@[simp] theorem State.modFabric_ctxs (r : Nat) (f : Fabric → Fabric) : (s.modFabric r f).ctxs = s.ctxs := rfl

/-! ## `State.advance` -/

@[simp] theorem State.advance_agenda (ns : Nat) : (s.advance ns).agenda = s.agenda := rfl
@[simp] theorem State.advance_focus (ns : Nat) : (s.advance ns).focus = s.focus := rfl
@[simp] theorem State.advance_focusIdx (ns : Nat) : (s.advance ns).focusIdx = s.focusIdx := rfl
@[simp] theorem State.advance_freeCtr (ns : Nat) : (s.advance ns).freeCtr = s.freeCtr := rfl
@[simp] theorem State.advance_mem (ns : Nat) : (s.advance ns).mem = s.mem := rfl
@[simp] theorem State.advance_poison (ns : Nat) : (s.advance ns).poison = s.poison := rfl
@[simp] theorem State.advance_dev (ns : Nat) : (s.advance ns).dev = s.dev := rfl
@[simp] theorem State.advance_dies (ns : Nat) : (s.advance ns).dies = s.dies := rfl
@[simp] theorem State.advance_rings (ns : Nat) : (s.advance ns).rings = s.rings := rfl
@[simp] theorem State.advance_ctxs (ns : Nat) : (s.advance ns).ctxs = s.ctxs := rfl

/-! ## `State.useFree` -/

@[simp] theorem State.useFree_gt : s.useFree.gt = s.gt := rfl
@[simp] theorem State.useFree_agenda : s.useFree.agenda = s.agenda := rfl
@[simp] theorem State.useFree_focus : s.useFree.focus = s.focus := rfl
@[simp] theorem State.useFree_focusIdx : s.useFree.focusIdx = s.focusIdx := rfl
@[simp] theorem State.useFree_mem : s.useFree.mem = s.mem := rfl
@[simp] theorem State.useFree_poison : s.useFree.poison = s.poison := rfl
@[simp] theorem State.useFree_dev : s.useFree.dev = s.dev := rfl
@[simp] theorem State.useFree_dies : s.useFree.dies = s.dies := rfl
@[simp] theorem State.useFree_rings : s.useFree.rings = s.rings := rfl
@[simp] theorem State.useFree_ctxs : s.useFree.ctxs = s.ctxs := rfl

/-! ## `State.unmark` -/

@[simp] theorem State.unmark_gt (w : List Host.Cell) : (s.unmark w).gt = s.gt := rfl
@[simp] theorem State.unmark_agenda (w : List Host.Cell) : (s.unmark w).agenda = s.agenda := rfl
@[simp] theorem State.unmark_focus (w : List Host.Cell) : (s.unmark w).focus = s.focus := rfl
@[simp] theorem State.unmark_focusIdx (w : List Host.Cell) : (s.unmark w).focusIdx = s.focusIdx := rfl
@[simp] theorem State.unmark_freeCtr (w : List Host.Cell) : (s.unmark w).freeCtr = s.freeCtr := rfl
@[simp] theorem State.unmark_mem (w : List Host.Cell) : (s.unmark w).mem = s.mem := rfl
@[simp] theorem State.unmark_dev (w : List Host.Cell) : (s.unmark w).dev = s.dev := rfl
@[simp] theorem State.unmark_dies (w : List Host.Cell) : (s.unmark w).dies = s.dies := rfl
@[simp] theorem State.unmark_rings (w : List Host.Cell) : (s.unmark w).rings = s.rings := rfl
@[simp] theorem State.unmark_ctxs (w : List Host.Cell) : (s.unmark w).ctxs = s.ctxs := rfl

/-! ## `State.put` -/

@[simp] theorem State.put_gt (w : List Host.Cell) : (s.put w).gt = s.gt := rfl
@[simp] theorem State.put_agenda (w : List Host.Cell) : (s.put w).agenda = s.agenda := rfl
@[simp] theorem State.put_focus (w : List Host.Cell) : (s.put w).focus = s.focus := rfl
@[simp] theorem State.put_focusIdx (w : List Host.Cell) : (s.put w).focusIdx = s.focusIdx := rfl
@[simp] theorem State.put_freeCtr (w : List Host.Cell) : (s.put w).freeCtr = s.freeCtr := rfl
@[simp] theorem State.put_dev (w : List Host.Cell) : (s.put w).dev = s.dev := rfl
@[simp] theorem State.put_dies (w : List Host.Cell) : (s.put w).dies = s.dies := rfl
@[simp] theorem State.put_rings (w : List Host.Cell) : (s.put w).rings = s.rings := rfl
@[simp] theorem State.put_ctxs (w : List Host.Cell) : (s.put w).ctxs = s.ctxs := rfl

/-! ## Updates of the field that they change -/

@[simp] theorem State.modDev_dev (f : Dev → Dev) : (s.modDev f).dev = f s.dev := rfl
@[simp] theorem State.advance_gt (ns : Nat) : (s.advance ns).gt = s.gt + BitVec.ofNat 64 ns := rfl
@[simp] theorem State.put_mem (w : List Host.Cell) : (s.put w).mem = s.mem.apply w := rfl

theorem State.ring_setRing (r k : Nat) (x : Ring) : (s.setRing r x).ring k = if k = r then x else s.ring k :=
  Tab.get_put _ s.rings r k x

theorem State.die_setDie (d k : Nat) (x : Die) : (s.setDie d x).die k = if k = d then x else s.die k :=
  Tab.get_put _ s.dies d k x

theorem State.ctx_setCtx (c k : Nat) (x : Ctx) : (s.setCtx c x).ctx k = if k = c then x else s.ctx k :=
  Tab.get_put _ s.ctxs c k x

theorem State.ring_modRing (r k : Nat) (f : Ring → Ring) : (s.modRing r f).ring k = if k = r then f (s.ring r) else s.ring k :=
  s.ring_setRing r k _

theorem State.die_modDie (d k : Nat) (f : Die → Die) : (s.modDie d f).die k = if k = d then f (s.die d) else s.die k :=
  s.die_setDie d k _

theorem State.ctx_modCtx (c k : Nat) (f : Ctx → Ctx) : (s.modCtx c f).ctx k = if k = c then f (s.ctx c) else s.ctx k :=
  s.ctx_setCtx c k _

@[simp] theorem State.ring_setRing_same (r : Nat) (x : Ring) : (s.setRing r x).ring r = x := by simp [s.ring_setRing]
@[simp] theorem State.die_setDie_same (d : Nat) (x : Die) : (s.setDie d x).die d = x := by simp [s.die_setDie]
@[simp] theorem State.ctx_setCtx_same (c : Nat) (x : Ctx) : (s.setCtx c x).ctx c = x := by simp [s.ctx_setCtx]
@[simp] theorem State.ring_modRing_same (r : Nat) (f : Ring → Ring) : (s.modRing r f).ring r = f (s.ring r) := by simp [s.ring_modRing]
@[simp] theorem State.die_modDie_same (d : Nat) (f : Die → Die) : (s.modDie d f).die d = f (s.die d) := by simp [s.die_modDie]
@[simp] theorem State.ctx_modCtx_same (c : Nat) (f : Ctx → Ctx) : (s.modCtx c f).ctx c = f (s.ctx c) := by simp [s.ctx_modCtx]

@[simp] theorem State.setDie_ring (d : Nat) (x : Die) (k : Nat) : (s.setDie d x).ring k = s.ring k := rfl
@[simp] theorem State.setDie_ctx (d : Nat) (x : Die) (k : Nat) : (s.setDie d x).ctx k = s.ctx k := rfl
@[simp] theorem State.setCtx_ring (c : Nat) (x : Ctx) (k : Nat) : (s.setCtx c x).ring k = s.ring k := rfl
@[simp] theorem State.setCtx_die (c : Nat) (x : Ctx) (k : Nat) : (s.setCtx c x).die k = s.die k := rfl
@[simp] theorem State.modDie_ring (d : Nat) (f : Die → Die) (k : Nat) : (s.modDie d f).ring k = s.ring k := rfl
@[simp] theorem State.modDie_ctx (d : Nat) (f : Die → Die) (k : Nat) : (s.modDie d f).ctx k = s.ctx k := rfl
@[simp] theorem State.modCtx_ring (c : Nat) (f : Ctx → Ctx) (k : Nat) : (s.modCtx c f).ring k = s.ring k := rfl
@[simp] theorem State.modCtx_die (c : Nat) (f : Ctx → Ctx) (k : Nat) : (s.modCtx c f).die k = s.die k := rfl
@[simp] theorem State.modDev_ring (f : Dev → Dev) (k : Nat) : (s.modDev f).ring k = s.ring k := rfl
@[simp] theorem State.modDev_die (f : Dev → Dev) (k : Nat) : (s.modDev f).die k = s.die k := rfl
@[simp] theorem State.modDev_ctx (f : Dev → Dev) (k : Nat) : (s.modDev f).ctx k = s.ctx k := rfl
@[simp] theorem State.advance_ring (ns : Nat) (k : Nat) : (s.advance ns).ring k = s.ring k := rfl
@[simp] theorem State.advance_die (ns : Nat) (k : Nat) : (s.advance ns).die k = s.die k := rfl
@[simp] theorem State.advance_ctx (ns : Nat) (k : Nat) : (s.advance ns).ctx k = s.ctx k := rfl
@[simp] theorem State.useFree_ring (k : Nat) : s.useFree.ring k = s.ring k := rfl
@[simp] theorem State.useFree_die (k : Nat) : s.useFree.die k = s.die k := rfl
@[simp] theorem State.useFree_ctx (k : Nat) : s.useFree.ctx k = s.ctx k := rfl
@[simp] theorem State.put_ring (w : List Host.Cell) (k : Nat) : (s.put w).ring k = s.ring k := rfl
@[simp] theorem State.put_die (w : List Host.Cell) (k : Nat) : (s.put w).die k = s.die k := rfl
@[simp] theorem State.put_ctx (w : List Host.Cell) (k : Nat) : (s.put w).ctx k = s.ctx k := rfl
@[simp] theorem State.unmark_ring (w : List Host.Cell) (k : Nat) : (s.unmark w).ring k = s.ring k := rfl
@[simp] theorem State.unmark_die (w : List Host.Cell) (k : Nat) : (s.unmark w).die k = s.die k := rfl
@[simp] theorem State.unmark_ctx (w : List Host.Cell) (k : Nat) : (s.unmark w).ctx k = s.ctx k := rfl
@[simp] theorem State.setRing_die (r : Nat) (x : Ring) (k : Nat) : (s.setRing r x).die k = s.die k := rfl
@[simp] theorem State.setRing_ctx (r : Nat) (x : Ring) (k : Nat) : (s.setRing r x).ctx k = s.ctx k := rfl
@[simp] theorem State.modRing_die (r : Nat) (f : Ring → Ring) (k : Nat) : (s.modRing r f).die k = s.die k := rfl
@[simp] theorem State.modRing_ctx (r : Nat) (f : Ring → Ring) (k : Nat) : (s.modRing r f).ctx k = s.ctx k := rfl
@[simp] theorem State.modSeqr_die (r : Nat) (f : Seqr → Seqr) (k : Nat) : (s.modSeqr r f).die k = s.die k := rfl
@[simp] theorem State.modSeqr_ctx (r : Nat) (f : Seqr → Seqr) (k : Nat) : (s.modSeqr r f).ctx k = s.ctx k := rfl
@[simp] theorem State.modEng_die (r : Nat) (f : Engines → Engines) (k : Nat) : (s.modEng r f).die k = s.die k := rfl
@[simp] theorem State.modEng_ctx (r : Nat) (f : Engines → Engines) (k : Nat) : (s.modEng r f).ctx k = s.ctx k := rfl

@[simp] theorem State.ring_modSeqr_same (r : Nat) (f : Seqr → Seqr) : (s.modSeqr r f).ring r = { s.ring r with seqr := f (s.ring r).seqr } := by
  simp [State.modSeqr]

@[simp] theorem State.ring_modEng_same (r : Nat) (f : Engines → Engines) : (s.modEng r f).ring r = { s.ring r with eng := f (s.ring r).eng } := by
  simp [State.modEng]

theorem State.ring_setRing_other {r k : Nat} (x : Ring) (h : k ≠ r) : (s.setRing r x).ring k = s.ring k := by simp [s.ring_setRing, h]
theorem State.ring_modRing_other {r k : Nat} (f : Ring → Ring) (h : k ≠ r) : (s.modRing r f).ring k = s.ring k := by simp [s.ring_modRing, h]
theorem State.ring_modSeqr_other {r k : Nat} (f : Seqr → Seqr) (h : k ≠ r) : (s.modSeqr r f).ring k = s.ring k := s.ring_modRing_other _ h
theorem State.ring_modEng_other {r k : Nat} (f : Engines → Engines) (h : k ≠ r) : (s.modEng r f).ring k = s.ring k := s.ring_modRing_other _ h
theorem State.ctx_modCtx_other {c k : Nat} (f : Ctx → Ctx) (h : k ≠ c) : (s.modCtx c f).ctx k = s.ctx k := by simp [s.ctx_modCtx, h]
theorem State.die_modDie_other {d k : Nat} (f : Die → Die) (h : k ≠ d) : (s.modDie d f).die k = s.die k := by simp [s.die_modDie, h]

end Sys2Proof.Machine
end

