-- ==== Sys2Proof/Laws/Data.lean ====
section
/-!
SUPPORT. The shared operations that store nothing: after each, every byte of memory and the good and bad sectors are what they were.
-/

namespace Sys2Proof.Machine

/-- Every byte that the machine holds, and the sectors whose data is lost. -/
def State.data (s : State) : Memory × List Nat := (s.mem, s.poison)

theorem State.data_eq {s t : State} : s.data = t.data ↔ s.mem = t.mem ∧ s.poison = t.poison := by simp [State.data]

variable (s : State)

@[simp] theorem State.setRing_data (r : Nat) (x : Ring) : (s.setRing r x).data = s.data := rfl
@[simp] theorem State.setDie_data (d : Nat) (x : Die) : (s.setDie d x).data = s.data := rfl
@[simp] theorem State.setCtx_data (c : Nat) (x : Ctx) : (s.setCtx c x).data = s.data := rfl
@[simp] theorem State.modRing_data (r : Nat) (f : Ring → Ring) : (s.modRing r f).data = s.data := rfl
@[simp] theorem State.modDie_data (d : Nat) (f : Die → Die) : (s.modDie d f).data = s.data := rfl
@[simp] theorem State.modCtx_data (c : Nat) (f : Ctx → Ctx) : (s.modCtx c f).data = s.data := rfl
@[simp] theorem State.modDev_data (f : Dev → Dev) : (s.modDev f).data = s.data := rfl
@[simp] theorem State.modSeqr_data (r : Nat) (f : Seqr → Seqr) : (s.modSeqr r f).data = s.data := rfl
@[simp] theorem State.modEng_data (r : Nat) (f : Engines → Engines) : (s.modEng r f).data = s.data := rfl
@[simp] theorem State.modFabric_data (r : Nat) (f : Fabric → Fabric) : (s.modFabric r f).data = s.data := rfl
@[simp] theorem State.modKnot_data (r k : Nat) (f : Knot → Knot) : (s.modKnot r k f).data = s.data := rfl
@[simp] theorem State.modZone_data (r n : Nat) (f : Zone → Zone) : (s.modZone r n f).data = s.data := rfl
@[simp] theorem State.modOp_data (r id : Nat) (f : Op → Op) : (s.modOp r id f).data = s.data := rfl
@[simp] theorem State.useFree_data : s.useFree.data = s.data := rfl
@[simp] theorem State.event_data (r : Nat) (e : BitVec 8) (n : Nat) : (s.event r e n).data = s.data := rfl
@[simp] theorem State.moved_data (r : Nat) : (s.moved r).data = s.data := rfl
@[simp] theorem State.rebase_data (r : Nat) : (s.rebase r).data = s.data := rfl
@[simp] theorem State.pause_data (r : Nat) : (s.pause r).data = s.data := rfl

/-- A sequence of operations that each keep the data keeps it. -/
theorem foldl_data {α : Type} (f : State → α → State) (h : ∀ s a, (f s a).data = s.data) (l : List α) (s : State) :
    (l.foldl f s).data = s.data := by
  induction l generalizing s with
  | nil => rfl
  | cons a l ih => rw [List.foldl_cons, ih, h]

@[simp] theorem State.unpause_data (r : Nat) : (s.unpause r).data = s.data := by unfold State.unpause; simp
@[simp] theorem State.modEgq_data (q : QueueId) (f : EgQueue → EgQueue) : (s.modEgq q f).data = s.data := by cases q <;> rfl
@[simp] theorem State.postCtx_data (c : Nat) (k : BitVec 8) (a : BitVec 32) (b : List Byte) : (s.postCtx c k a b).data = s.data := rfl
@[simp] theorem State.postDev_data (k : BitVec 8) (a : BitVec 32) (b : List Byte) : (s.postDev k a b).data = s.data := rfl
@[simp] theorem State.postFault_data (c r : Nat) (k : Cause) (a v : Word) : (s.postFault c r k a v).data = s.data := by
  unfold State.postFault; split <;> rfl
@[simp] theorem State.inject_data (r k u : Nat) : (s.inject r k u).2.data = s.data := by
  unfold State.inject; simp only []; (repeat' split) <;> rfl

/-- Injections asked for one after another change no data. -/
theorem State.injects_data (k u : Nat) (l : List Nat) (a : Bool × State) :
    (l.foldl (fun (a : Bool × State) r => let (b, t) := a.2.inject r k u; (a.1 || b, t)) a).2.data = a.2.data := by
  induction l generalizing a with
  | nil => rfl
  | cons r l ih => rw [List.foldl_cons, ih]; exact a.2.inject_data r k u

@[simp] theorem State.queueOn_data (p : LinkId) (o : Outgoing) : (s.queueOn p o).data = s.data := by
  unfold State.queueOn
  split
  next b t h =>
    have e : t.data = s.data := by
      have := congrArg (fun x : Bool × State => x.2.data) h
      split at this
      · exact this.symm.trans (State.injects_data ..)
      · exact this.symm
    exact e
@[simp] theorem State.pickRoute_data (c : BitVec 16) (vc : BitVec 2) : (s.pickRoute c vc).2.data = s.data := by
  unfold State.pickRoute; simp only []; split
  · rfl
  · split <;> rfl
@[simp] theorem State.flitTo_data (c : BitVec 16) (vc : BitVec 2) (t : FlitType) : (s.flitTo c vc t).2.data = s.data := by
  have h := s.pickRoute_data c vc
  unfold State.flitTo
  split
  next e => rw [e] at h; exact h
  next l s1 e =>
    rw [e] at h
    split
    · exact h
    · exact (State.queueOn_data ..).trans h
@[simp] theorem State.notify_data (t : Recipient) (n : Notice) : (s.notify t n).data = s.data := by
  unfold State.notify
  cases t with
  | port p => exact State.queueOn_data ..
  | chip c => exact State.flitTo_data ..
  | all => simp only []; rw [foldl_data _ fun _ _ => State.flitTo_data ..]; rfl
@[simp] theorem State.stopRing_data (r : Nat) : (s.stopRing r).data = s.data := rfl
@[simp] theorem State.holdOps_data (c : Nat) (l : List Nat) : (s.holdOps c l).data = s.data :=
  foldl_data _ (fun _ _ => State.modSeqr_data ..) _ _
@[simp] theorem State.freeOps_data (c : Nat) : (s.freeOps c).data = s.data := foldl_data _ (fun _ _ => State.modSeqr_data ..) _ _
@[simp] theorem State.replayFault_data (c : Nat) : (s.replayFault c).data = s.data := by unfold State.replayFault; split <;> rfl
@[simp] theorem State.haltCtx_data (c r : Nat) (e : Engine) (k : Cause) (a v : Word) : (s.haltCtx c r e k a v).data = s.data := by
  simp only [State.haltCtx, State.useFree_data, State.postFault_data]
  rw [foldl_data _ fun _ _ => State.notify_data ..]
  simp [foldl_data State.stopRing State.stopRing_data]
@[simp] theorem State.joinHalt_data (c r : Nat) (e : Engine) (k : Cause) (a v : Word) : (s.joinHalt c r e k a v).data = s.data := by
  simp [State.joinHalt]
@[simp] theorem State.raise_data (c r : Nat) (e : Engine) (k : Cause) (a v : Word) : (s.raise c r e k a v).data = s.data := by
  unfold State.raise; (repeat' split) <;> simp
@[simp] theorem State.trapOn_data (r : Nat) (e : Engine) (k : Cause) (a v : Word) : (s.trapOn r e k a v).data = s.data := by
  unfold State.trapOn; split <;> simp
@[simp] theorem State.trapSeq_data (r : Nat) (k : Cause) (v : Word) : (s.trapSeq r k v).data = s.data := by simp [State.trapSeq]
@[simp] theorem State.trapFabric_data (r : Nat) (k : Cause) (v : Word) : (s.trapFabric r k v).data = s.data := by simp [State.trapFabric]
@[simp] theorem State.touch_data (c : Nat) (h : Home) : (s.touch c h).data = s.data := by cases h <;> rfl
@[simp] theorem State.touchAll_data (c : Nat) (l : List Home) : (s.touchAll c l).data = s.data := foldl_data _ (fun _ _ => State.touch_data ..) _ _
@[simp] theorem State.installDie_data (d : Nat) (t : Trans) (l : List NodeEntry) : (s.installDie d t l).data = s.data := rfl
@[simp] theorem State.install_data (r : Nat) (t : Trans) (l : List NodeEntry) : (s.install r t l).data = s.data := rfl
@[simp] theorem State.fromDie_data (r : Nat) (c : CtxId) (v : Word) : (s.fromDie r c v).data = s.data := by
  unfold State.fromDie; simp only []; (repeat' split) <;> rfl
@[simp] theorem State.reached_data (r : Nat) (c : CtxId) (v : Word) (h : Home) : (s.reached r c v h).data = s.data := by simp [State.reached]
@[simp] theorem State.miss_data (r : Nat) (c : CtxId) (v : Word) (u : Use) (e : Engine) (a : Word) : (s.miss r c v u e a).data = s.data := by
  unfold State.miss; simp only []; (repeat' split) <;> rfl
/-- Whether a destination is a FIFO of a cell. -/
def Dest.onLink : Dest → Bool
  | .inlet .. | .edge .. => true
  | _ => false

/-- What is sent over a link of the fabric changes no memory; a token for a buffer in scratch is written there too (R191, R201). -/
theorem State.send_data (e : Entry) {d : Dest} (h : d.onLink = true) : (s.send e d).data = s.data := by
  cases d <;> first | rfl | simp [Dest.onLink] at h
@[simp] theorem State.setBlk_data (r : Nat) (b : Blk) : (s.setBlk r b).data = s.data := rfl
@[simp] theorem State.knotError_data (r k : Nat) : (s.knotError r k).data = s.data := rfl
@[simp] theorem State.payOwed_data (r id : Nat) : (s.payOwed r id).data = s.data := by
  simp only [State.payOwed]; rw [foldl_data _ fun _ _ => State.modKnot_data ..]; rfl
@[simp] theorem State.finishOp_data (r id : Nat) (v : Option Word) : (s.finishOp r id v).data = s.data := by
  unfold State.finishOp; split <;> simp
@[simp] theorem State.knotAdd_data (r k n : Nat) (b : Bool) (e : Engine) (a : Word) (z : Nat) :
    (s.knotAdd r k n b e a z).data = s.data := by
  unfold State.knotAdd; simp only []; (repeat' split) <;> simp
@[simp] theorem State.zoneAdd_data (r n : Nat) : (s.zoneAdd r n).data = s.data := by simp [State.zoneAdd]
@[simp] theorem State.zoneError_data (r n : Nat) : (s.zoneError r n).data = s.data := by simp [State.zoneError]
@[simp] theorem State.modFabrics_data (r : Nat) (g : Fabric → Fabric) : (s.modFabrics r g).data = s.data :=
  foldl_data _ (fun _ _ => State.modFabric_data ..) _ _
@[simp] theorem State.countToken_data (r p : Nat) (b : Bool) : (s.countToken r p b).data = s.data := by
  unfold State.countToken; (repeat' split) <;> first | rfl | (simp only []; (repeat' split) <;> rfl)
@[simp] theorem State.modCell_data (r p j : Nat) (g : Cell → Cell) : (s.modCell r p j g).data = s.data := rfl
@[simp] theorem State.setNode_data (u : UnitId) (k : Nat) (n : Node) : (s.setNode u k n).data = s.data := by
  unfold State.setNode; (repeat' split) <;> simp
@[simp] theorem State.deliverTo_data (u : UnitId) (t : Target) (v : Val) (b : Bool) : (s.deliverTo u t v b).data = s.data := by
  unfold State.deliverTo; split <;> first | rfl | (simp only []; (repeat' split) <;> simp)
@[simp] theorem State.modCopy_data (r ch : Nat) (f : Copy → Copy) : (s.modCopy r ch f).data = s.data := rfl
@[simp] theorem State.setPipe_data (x : Pipe) : (s.setPipe x).data = s.data := rfl
@[simp] theorem State.enterAs_data (p : Path) (w : PipeWrite) (b : Bool) : (s.enterAs p w b).data = s.data := by
  have h : ∀ x : List (BitVec 16 × LinkId) × State, x.2.data = s.data →
      (x.2.pushPipe p { w with window := s.curWindow, flush := b, route := x.1, via := s.circuit p x.1 }).data = s.data := fun x h => by
    simpa [State.pushPipe] using h
  unfold State.enterAs
  refine h _ ?_
  cases p.dst <;> simp
@[simp] theorem State.enter_data (p : Path) (w : PipeWrite) : (s.enter p w).data = s.data := State.enterAs_data ..
@[simp] theorem State.setLink_data (p : Nat) (x : Link) : (s.setLink p x).data = s.data := rfl
@[simp] theorem State.setConn_data (n : Nat) (x : Conn) : (s.setConn n x).data = s.data := rfl
@[simp] theorem State.modRec_data (c : CtxId) (k : Nat) (f : PendRec → PendRec) : (s.modRec c k f).data = s.data := rfl
@[simp] theorem State.recordTrap_data (c : CtxId) (k : Cause) (a : Nat) : (s.recordTrap c k a).data = s.data := by simp [State.recordTrap]

end Sys2Proof.Machine
end

