-- ==== Sys2Proof/Laws/Memory.lean ====
section
/-!
SUPPORT. The memory: what a byte reads as after each operation, and that each keeps the canonical form.
-/

namespace Sys2Proof.Machine

/-! ## The canonical form -/

/-- The canonical form of a list whose head is known. -/
theorem Memory.wf_cons (c : Host.Cell) (m : Memory) : Memory.wf (c :: m) ↔ (∀ d ∈ m, c.1 < d.1) ∧ c.2 ≠ 0 ∧ Memory.wf m := by
  simp only [Memory.wf, List.pairwise_cons, List.forall_mem_cons]
  tauto

theorem Memory.wf_nil : Memory.wf [] := by simp [Memory.wf]

theorem Memory.wf_filter (m : Memory) (p : Host.Cell → Bool) (h : Memory.wf m) : Memory.wf (m.filter p) :=
  ⟨h.1.filter p, fun c hc => h.2 c (List.mem_filter.mp hc).1⟩

/-- Addresses of a memory after a write are its own and the one written. -/
theorem Memory.mem_set (m : Memory) (a : Nat) (b : Byte) (c : Host.Cell) (h : c ∈ m.set a b) : c.1 = a ∨ c ∈ m := by
  induction m with
  | nil =>
    simp only [Memory.set] at h
    split at h <;> simp_all
  | cons d t ih =>
    obtain ⟨k, v⟩ := d
    simp only [Memory.set] at h
    split at h
    · rcases List.mem_cons.mp h with h | h
      · exact .inr (by simp [h])
      · rcases ih h with h | h <;> simp [h]
    · split at h
      · split at h
        · exact .inr (List.mem_cons_of_mem _ h)
        · rcases List.mem_cons.mp h with h | h
          · exact .inl (by simp [h])
          · exact .inr (List.mem_cons_of_mem _ h)
      · split at h
        · exact .inr h
        · rcases List.mem_cons.mp h with h | h
          · exact .inl (by simp [h])
          · exact .inr h

/-- A write of one byte keeps the form. -/
theorem Memory.wf_set (m : Memory) (a : Nat) (b : Byte) (h : Memory.wf m) : Memory.wf (m.set a b) := by
  induction m with
  | nil =>
    simp only [Memory.set]
    split
    · exact Memory.wf_nil
    · rename_i hb
      exact (Memory.wf_cons _ _).mpr ⟨by simp, hb, Memory.wf_nil⟩
  | cons d t ih =>
    obtain ⟨k, v⟩ := d
    have hd := (Memory.wf_cons _ _).mp h
    simp only [Memory.set]
    split
    · rename_i hk
      refine (Memory.wf_cons _ _).mpr ⟨fun c hc => ?_, hd.2.1, ih hd.2.2⟩
      rcases Memory.mem_set t a b c hc with e | e
      · simpa [e] using hk
      · exact hd.1 c e
    · split
      · rename_i hk
        subst hk
        split
        · exact hd.2.2
        · rename_i hb
          exact (Memory.wf_cons _ _).mpr ⟨hd.1, hb, hd.2.2⟩
      · rename_i h1 h2
        split
        · exact h
        · rename_i hb
          refine (Memory.wf_cons _ _).mpr ⟨fun c hc => ?_, hb, h⟩
          have hak : a < k := by omega
          rcases List.mem_cons.mp hc with e | e
          · simpa [e] using hak
          · exact lt_trans hak (hd.1 c e)

theorem Memory.wf_apply (w : List Host.Cell) : ∀ m : Memory, Memory.wf m → Memory.wf (m.apply w) := by
  induction w with
  | nil => intro m h; exact h
  | cons c t ih => intro m h; exact ih _ (Memory.wf_set m c.1 c.2 h)

theorem Memory.wf_clear (m : Memory) (first n : Nat) (h : Memory.wf m) : Memory.wf (m.clear first n) := Memory.wf_filter m _ h

theorem Memory.wf_copy (m : Memory) (dst src n : Nat) (h : Memory.wf m) : Memory.wf (m.copy dst src n) :=
  Memory.wf_apply _ _ (Memory.wf_clear m dst n h)

/-! ## Reading after a write -/

theorem Memory.get_of_lt (m : Memory) (a : Nat) (h : ∀ c ∈ m, a < c.1) : m.get a = 0 := by
  induction m with
  | nil => rfl
  | cons d t ih =>
    obtain ⟨k, v⟩ := d
    have hk : a < k := h (k, v) (by simp)
    simp only [Memory.get]
    rw [if_neg (by omega)]
    exact ih fun c hc => h c (by simp [hc])

/-- The byte written reads back. -/
theorem Memory.get_set_same (m : Memory) (a : Nat) (b : Byte) (h : Memory.wf m) : (m.set a b).get a = b := by
  induction m with
  | nil =>
    simp only [Memory.set]
    split
    · rename_i hb; rw [hb]; rfl
    · simp [Memory.get]
  | cons d t ih =>
    obtain ⟨k, v⟩ := d
    have hd := (Memory.wf_cons _ _).mp h
    simp only [Memory.set]
    split
    · rename_i hk
      simp only [Memory.get]
      rw [if_neg (by omega)]
      exact ih hd.2.2
    · split
      · rename_i hk
        subst hk
        split
        · rename_i hb
          rw [hb]
          exact Memory.get_of_lt t k hd.1
        · simp [Memory.get]
      · rename_i h1 h2
        split
        · rename_i hb
          rw [hb]
          refine Memory.get_of_lt _ a fun c hc => ?_
          rcases List.mem_cons.mp hc with e | e
          · have : c.1 = k := by rw [e]
            omega
          · have := hd.1 c e
            simp only at this
            omega
        · simp [Memory.get]

/-- Every other byte reads as before. -/
theorem Memory.get_set_other (m : Memory) {a x : Nat} (b : Byte) (hx : x ≠ a) : (m.set a b).get x = m.get x := by
  induction m with
  | nil =>
    simp only [Memory.set]
    split
    · rfl
    · simp [Memory.get, Ne.symm hx]
  | cons d t ih =>
    obtain ⟨k, v⟩ := d
    simp only [Memory.set]
    split
    · simp only [Memory.get, ih]
    · split
      · rename_i hk
        subst hk
        split
        · simp [Memory.get, Ne.symm hx]
        · simp [Memory.get, Ne.symm hx]
      · split
        · rfl
        · simp [Memory.get, Ne.symm hx]

/-- A write leaves every byte outside it alone. -/
theorem Memory.get_apply_other (w : List Host.Cell) : ∀ (m : Memory) (x : Nat), (∀ c ∈ w, c.1 ≠ x) → (m.apply w).get x = m.get x := by
  induction w with
  | nil => intro m x _; rfl
  | cons c t ih =>
    intro m x h
    have h1 := ih (m.set c.1 c.2) x fun d hd => h d (by simp [hd])
    exact h1.trans (Memory.get_set_other m c.2 (Ne.symm (h c (by simp))))

theorem Memory.get_filter (m : Memory) (p : Host.Cell → Bool) (x : Nat) (h : ∀ v, p (x, v) = true) : Memory.get (m.filter p) x = Memory.get m x := by
  induction m with
  | nil => rfl
  | cons d t ih =>
    obtain ⟨k, v⟩ := d
    simp only [List.filter_cons]
    split
    · simp only [Memory.get, ih]
    · rename_i hp
      have hk : k ≠ x := by rintro rfl; exact hp (h v)
      simp only [Memory.get, if_neg hk, ih]

/-- Clearing a range leaves every byte outside it alone. -/
theorem Memory.get_clear_other (m : Memory) (first n x : Nat) (h : x < first ∨ first + n ≤ x) : Memory.get (m.clear first n) x = Memory.get m x := by
  refine Memory.get_filter m _ x fun v => ?_
  simp only [Bool.not_eq_true', Bool.and_eq_false_iff, decide_eq_false_iff_not]
  omega

/-! ## States -/

theorem State.wf_put (s : State) (w : List Host.Cell) (h : s.mem.wf) : (s.put w).mem.wf := Memory.wf_apply w _ h

theorem State.wf_mark (s : State) (k : Nat) (h : s.mem.wf) : (s.mark k).mem.wf := by
  unfold State.mark
  split <;> exact h

theorem State.wf_putAs (s : State) (w : List Host.Cell) (b : Bool) (h : s.mem.wf) : (s.putAs w b).mem.wf := by
  unfold State.putAs
  split
  · exact State.wf_mark _ _ (s.wf_put _ h)
  · exact s.wf_put w h

theorem State.wf_storeAs (s : State) (w : List Host.Cell) (b : Bool) (h : s.mem.wf) : (s.storeAs w b).mem.wf := by
  unfold State.storeAs
  split
  · split
    · exact s.wf_putAs w b h
    · exact h
  · exact s.wf_putAs w b h

theorem State.wf_store (s : State) (w : List Host.Cell) (h : s.mem.wf) : (s.store w).mem.wf := s.wf_storeAs w false h

/-- Writes applied one after another keep the form. -/
theorem State.wf_foldl_putAs (l : List (List Host.Cell × Bool)) :
    ∀ s : State, s.mem.wf → (l.foldl (fun s e => s.putAs e.1 e.2) s).mem.wf := by
  induction l with
  | nil => intro s h; exact h
  | cons e t ih => intro s h; exact ih _ (s.wf_putAs e.1 e.2 h)

theorem State.wf_unlock (s : State) (r op : Nat) (h : s.mem.wf) : (s.unlock r op).mem.wf := by
  simp only [State.unlock]
  split
  · exact State.wf_foldl_putAs _ s h
  · exact h

end Sys2Proof.Machine
end

