-- ==== Sys2Proof/Laws/Words.lean ====
section
/-!
SUPPORT. The shared shapes of a Hexek word's meaning: each answers a next state, and no byte of memory changes while a word fires
(what a word stores, it stores in later turns).
-/

namespace Sys2Proof.Machine

/-- A meaning that completes and stores nothing. -/
def Kept (s : State) (o : Out) : Prop := ∃ t, o = .next t ∧ t.data = s.data

theorem Kept.of {s t : State} (h : t.data = s.data) : Kept s (.next t) := ⟨t, rfl, h⟩

variable (s : State) (i : Instr)

@[simp] theorem State.consume_data : (s.consume i).data = s.data := by
  unfold State.consume; simp only []; split <;> simp
@[simp] theorem State.skip_data : (s.skip i).data = s.data := by
  unfold State.skip; split <;> simp
@[simp] theorem State.deliver_data (v : Val) : (s.deliver i v).data = s.data :=
  foldl_data _ (fun _ _ => State.deliverTo_data ..) _ _
@[simp] theorem State.failWord_data (c : Cause) (va : Option Word) : (s.failWord c va).data = s.data := by
  unfold State.failWord; split <;> simp
@[simp] theorem State.pushItem_data (w : Work) : (s.pushItem i w).data = s.data := by
  simp only [State.pushItem, State.modSeqr_data]; split <;> simp
@[simp] theorem State.issueValue_data (w : Work) : (s.issueValue i w).data = s.data := by
  unfold State.issueValue; split <;> simp

/-- What `whenReady` can do: the word waits, settles or is consumed without effect, or has its effect. -/
theorem whenReady_cases (act : Opers → State → State) :
    (s.ready i = .wait ∧ whenReady i s act = .next s) ∨
    (s.ready i = .skip ∧ whenReady i s act = .next (s.skip i)) ∨ (s.ready i = .bad ∧ whenReady i s act = .next (s.failWord 0x05)) ∨
    ∃ o, s.ready i = .go o ∧ whenReady i s act = .next (act o s) := by
  unfold whenReady
  cases h : s.ready i <;> simp

theorem whenReady_kept (act : Opers → State → State) (h : ∀ o, (act o s).data = s.data) : Kept s (whenReady i s act) := by
  rcases whenReady_cases s i act with ⟨_, e⟩ | ⟨_, e⟩ | ⟨_, e⟩ | ⟨o, _, e⟩ <;> rw [e]
  exacts [.of rfl, .of (by simp), .of (by simp), .of (h o)]

/-- What `fireValue` does with a word that is ready: it delivers the value, or raises the cause. -/
theorem fireValue_go (f : Opers → Except Cause Val) {o : Opers} (h : s.ready i = .go o) :
    fireValue i s f = .next (match f o with | .ok v => (s.consume i).deliver i v | .error c => s.failWord c) := by
  cases e : f o <;> simp [fireValue, whenReady, h, e]

theorem fireValue_kept (f : Opers → Except Cause Val) : Kept s (fireValue i s f) :=
  whenReady_kept s i _ fun o => by cases f o <;> simp

theorem intWord_kept (w : IWidth) (f : Nat → Nat → Nat → Nat → Nat) : Kept s (intWord i w f s) := fireValue_kept ..
theorem immWord_kept (f : Nat → Nat → Nat) : Kept s (immWord i f s) := fireValue_kept ..
theorem fcmpWord_kept (w : FWidth) (f : RawFmt → Nat → Nat → Bool) : Kept s (fcmpWord i w f s) := fireValue_kept ..

theorem itemWord_kept (f : List Word → Except Cause Work) : Kept s (itemWord i s f) :=
  whenReady_kept s i _ fun o => by (repeat' split) <;> simp

/-- The checks of an access change no memory. -/
theorem State.access_data (r : Nat) (t : Task) (q : Req) (l : Word) :
    (∀ u c, s.access r t q l = .fail u c → u.data = s.data) ∧ (∀ u a, s.access r t q l = .pass u a → u.data = s.data) := by
  unfold State.access
  constructor <;> intro u x h <;> simp only [] at h <;> (repeat' split at h) <;> cases h <;> simp

theorem memWord_kept (addr : Opers → Except Cause (Word × Req)) (act : Opers → Acc → State → State)
    (h : ∀ o a u, (act o a u).data = u.data) : Kept s (memWord i s addr act) := by
  refine whenReady_kept s i _ fun o => ?_
  simp only []
  split
  · simp
  · rfl
  · split
    · rename_i e; simp [(State.access_data ..).1 _ _ e]
    · simp
    · rename_i e; rw [h, (State.access_data ..).2 _ _ e]

/-- A move of the control window: it acts once the device is ready. -/
theorem State.atReady_cases (f : State → State) :
    (s.dev.ready = true ∧ s.atReady f = .next (f s)) ∨ (s.dev.ready = false ∧ s.atReady f = .next s) := by
  unfold State.atReady
  cases h : s.dev.ready <;> simp

theorem State.atReady_kept (f : State → State) (h : (f s).data = s.data) : Kept s (s.atReady f) := by
  rcases s.atReady_cases f with ⟨_, e⟩ | ⟨_, e⟩ <;> rw [e]
  exacts [.of h, .of rfl]

end Sys2Proof.Machine
end

