-- ==== Sys2Proof/Tests/Slice0.lean ====
section
/-!
SUPPORT. The model's own tests: ill-formed terms refused, words written out from the encoding tables, states that meet the hypotheses
of each statement, and single steps whose results come from the spec's rules and examples.
-/

namespace Sys2Proof.Tests

open Sys2Proof.Machine Sys2Proof.Claims

set_option maxRecDepth 20000
set_option exponentiation.threshold 600

/-! ## Ill-formed terms -/

/-- R314, R315: no instruction names punctuation level 7. -/
theorem smoke_level : Instr.wf (.punct .always false 7 .null .null) = false ∧ Instr.wf (.setpn .always true 7 .null .null) = false ∧
    Instr.wf (.punct .always false 6 .null .null) = true := by decide

/-- R289: slot T of word 127 would be the null target's code. -/
theorem smoke_target : Instr.wf (.mov .always (.to .t 127) .null) = false ∧ Instr.wf (.addi .always 0 (.to .t 127)) = false ∧
    Instr.wf (.gtime .always (.to .t 127)) = false ∧ Instr.wf (.mov .always (.to .t 126) (.to .l 127)) = true := by decide

/-- R293: BR and SHUF stand in one kind of block each, and a move of the device in none. -/
theorem smoke_domain : Instr.wfIn .streaming (.br .always 0) = false ∧ Instr.wfIn .atomic (.shuf .always .null .null) = false ∧
    Instr.wfIn .atomic .dutyRelief = false ∧ Instr.wfIn .atomic (.br .always 0) = true := by decide

/-- R291, R322, R329: 64-bit elements are the sequencer's, BF16 and FP16 are the cells'. -/
theorem smoke_width : Instr.wfIn .streaming (.add .always .wrap .i64 .null .null) = false ∧ Instr.wfIn .streaming (.bfx .always true .null .null) = false ∧
    Instr.wfIn .atomic (.fadd .always .bf16 .null .null) = false ∧ Instr.wfIn .atomic (.add .always .wrap .i64 .null .null) = true := by decide

/-- Operands of moves: a key register's offset, one junction temperature a ring, a flit's payload. -/
theorem smoke_moves : Instr.wf (.keySlotWrite 0 64 0) = false ∧ Instr.wf (.keySlotWrite 0 4 0) = false ∧ Instr.wf (.thermAllowUpdate 0 [1] 0 0) = false ∧
    Instr.wf (.flitReceive 0 { type := .idle, vc := 0, seq := 0, ack := 0, nak := false, window := 0, dest := 0, payload := [], crc := 0 } 0) = false := by decide

/-! ## Words from the encoding tables (R288 to R292, and each instruction's own description) -/

def decodesAs (l : List (W32 × Instr)) : Bool := l.all fun p => decodeWord p.1 == .ok p.2

theorem decodes_group0 : decodesAs [
  (0x00810607, .mov .ifTrue (.to .r 3) (.to .l 7)),
  (0x01010607, .steer (.to .r 3) (.to .l 7)),
  (0x02010607, .merge (.to .r 3) (.to .l 7)),
  (0x03010607, .carry (.to .r 3) (.to .l 7)),
  (0x04010607, .invar (.to .r 3) (.to .l 7)),
  (0x05C10607, .gate .ifFalse (.to .r 3) (.to .l 7)),
  (0x0603FFFF, .sink .always),
  (0x07B90607, .punct .ifTrue true 6 (.to .r 3) (.to .l 7)),
  (0x08D50607, .setpn .ifFalse false 5 (.to .r 3) (.to .l 7)),
  (0x09090607, .strip .always .punct (.to .r 3) (.to .l 7)),
  (0x0A3FFF7E, .const 0x1FFF (.to .p 126)),
  (0x0B00257E, .lit 0x12 (.to .p 126))] = true := by decide

theorem decodes_group1 : decodesAs [
  (0x10990607, .add .ifTrue .sats .i8 (.to .r 3) (.to .l 7)),
  (0x11E50607, .sub .ifFalse .satu .i16 (.to .r 3) (.to .l 7)),
  (0x1220017E, .addi .always 0x1000 (.to .p 126)),
  (0x138D0607, .mul .ifTrue .wrap .i64 (.to .r 3) (.to .l 7)),
  (0x14C50607, .mulhs .ifFalse .i16 (.to .r 3) (.to .l 7)),
  (0x15090607, .mulhu .always .i8 (.to .r 3) (.to .l 7)),
  (0x16A10607, .mad .ifTrue .satu .i32 (.to .r 3) (.to .l 7)),
  (0x17D10607, .neg .ifFalse true .i32 (.to .r 3) (.to .l 7)),
  (0x18050607, .abs .always false .i16 (.to .r 3) (.to .l 7)),
  (0x198D0607, .mins .ifTrue .i64 (.to .r 3) (.to .l 7)),
  (0x1AC10607, .minu .ifFalse .i32 (.to .r 3) (.to .l 7)),
  (0x1B050607, .maxs .always .i16 (.to .r 3) (.to .l 7)),
  (0x1C890607, .maxu .ifTrue .i8 (.to .r 3) (.to .l 7)),
  (0x1DCD0607, .divs .ifFalse true (.to .r 3) (.to .l 7)),
  (0x1E010607, .divu .always false (.to .r 3) (.to .l 7)),
  (0x1F8D0607, .remu .ifTrue true (.to .r 3) (.to .l 7))] = true := by decide

theorem decodes_group2 : decodesAs [
  (0x20C10607, .and .ifFalse .i32 (.to .r 3) (.to .l 7)),
  (0x210D0607, .or .always .i64 (.to .r 3) (.to .l 7)),
  (0x22850607, .xor .ifTrue .i16 (.to .r 3) (.to .l 7)),
  (0x23C90607, .andn .ifFalse .i8 (.to .r 3) (.to .l 7)),
  (0x24010607, .not .always .i32 (.to .r 3) (.to .l 7)),
  (0x258D0607, .shl .ifTrue .i64 (.to .r 3) (.to .l 7)),
  (0x26C50607, .shr .ifFalse .i16 (.to .r 3) (.to .l 7)),
  (0x27090607, .sar .always .i8 (.to .r 3) (.to .l 7)),
  (0x28810607, .rol .ifTrue .i32 (.to .r 3) (.to .l 7)),
  (0x29C0437E, .shli .ifFalse 0x21 (.to .p 126)),
  (0x2A3FFF7E, .shri .always 0x1FFF (.to .p 126)),
  (0x2B80037E, .sari .ifTrue 0x1 (.to .p 126)),
  (0x2CC50607, .clz .ifFalse .i16 (.to .r 3) (.to .l 7)),
  (0x2D0D0607, .popc .always .i64 (.to .r 3) (.to .l 7)),
  (0x2E8D0607, .bfx .ifTrue true (.to .r 3) (.to .l 7)),
  (0x2FC10607, .bfi .ifFalse false (.to .r 3) (.to .l 7))] = true := by decide

theorem decodes_group3 : decodesAs [
  (0x30010607, .cmpeq .always .i32 (.to .r 3) (.to .l 7)),
  (0x318D0607, .cmpne .ifTrue .i64 (.to .r 3) (.to .l 7)),
  (0x32C50607, .cmplt .ifFalse .i16 (.to .r 3) (.to .l 7)),
  (0x33090607, .cmple .always .i8 (.to .r 3) (.to .l 7)),
  (0x34810607, .cmpltu .ifTrue .i32 (.to .r 3) (.to .l 7)),
  (0x35CD0607, .cmpleu .ifFalse .i64 (.to .r 3) (.to .l 7)),
  (0x3635797E, .cmpeqi .always 0x1ABC (.to .p 126)),
  (0x3780057E, .cmplti .ifTrue 0x2 (.to .p 126)),
  (0x38C10607, .fcmpeq .ifFalse .f32 (.to .r 3) (.to .l 7)),
  (0x39050607, .fcmplt .always .bf16 (.to .r 3) (.to .l 7)),
  (0x3A890607, .fcmple .ifTrue .f16 (.to .r 3) (.to .l 7)),
  (0x3BC10607, .fcmpun .ifFalse .f32 (.to .r 3) (.to .l 7)),
  (0x3C0D0607, .sel .always .i64 (.to .r 3) (.to .l 7)),
  (0x3D850607, .pand .ifTrue .i16 (.to .r 3) (.to .l 7)),
  (0x3EC90607, .por .ifFalse .i8 (.to .r 3) (.to .l 7)),
  (0x3F010607, .pnot .always .i32 (.to .r 3) (.to .l 7))] = true := by decide

theorem decodes_group4 : decodesAs [
  (0x40810607, .fadd .ifTrue .f32 (.to .r 3) (.to .l 7)),
  (0x41C50607, .fsub .ifFalse .bf16 (.to .r 3) (.to .l 7)),
  (0x42090607, .fmul .always .f16 (.to .r 3) (.to .l 7)),
  (0x43810607, .fma .ifTrue .f32 (.to .r 3) (.to .l 7)),
  (0x44C50607, .fms .ifFalse .bf16 (.to .r 3) (.to .l 7)),
  (0x45090607, .fnma .always .f16 (.to .r 3) (.to .l 7)),
  (0x46810607, .fmin .ifTrue .f32 (.to .r 3) (.to .l 7)),
  (0x47C50607, .fmax .ifFalse .bf16 (.to .r 3) (.to .l 7)),
  (0x48090607, .fabs .always .f16 (.to .r 3) (.to .l 7)),
  (0x49810607, .fneg .ifTrue .f32 (.to .r 3) (.to .l 7)),
  (0x4AC50607, .fcpys .ifFalse .bf16 (.to .r 3) (.to .l 7)),
  (0x4B390607, .frint .always .ru .f16 (.to .r 3) (.to .l 7)),
  (0x4C810607, .fscl .ifTrue .f32 (.to .r 3) (.to .l 7))] = true := by decide

theorem decodes_group5 : decodesAs [
  (0x50C10607, .frcp .ifFalse .f32 (.to .r 3) (.to .l 7)),
  (0x51050607, .frsq .always .bf16 (.to .r 3) (.to .l 7)),
  (0x52890607, .fsqrt .ifTrue .f16 (.to .r 3) (.to .l 7)),
  (0x53C10607, .fdiv .ifFalse .f32 (.to .r 3) (.to .l 7)),
  (0x54050607, .fexp2 .always .bf16 (.to .r 3) (.to .l 7)),
  (0x55890607, .flog2 .ifTrue .f16 (.to .r 3) (.to .l 7)),
  (0x56C10607, .fsin .ifFalse .f32 (.to .r 3) (.to .l 7)),
  (0x57050607, .fcos .always .bf16 (.to .r 3) (.to .l 7)),
  (0x58890607, .ftanh .ifTrue .f16 (.to .r 3) (.to .l 7)),
  (0x59C10607, .fsigm .ifFalse .f32 (.to .r 3) (.to .l 7))] = true := by decide

theorem decodes_group6 : decodesAs [
  (0x60150607, .cvt .always .e2m1 (.to .r 3) (.to .l 7)),
  (0x60A10607, .cvtT .ifTrue (.to .r 3) (.to .l 7)),
  (0x61D50607, .cvtfi .ifFalse .rz .bf16 (.to .r 3) (.to .l 7)),
  (0x62190607, .cvtif .always true .f16 (.to .r 3) (.to .l 7)),
  (0x639D0607, .qblk .ifTrue (.e2m1 true 3) (.to .r 3) (.to .l 7)),
  (0x64F50607, .scale .ifFalse 3 .bf16 (.to .r 3) (.to .l 7)),
  (0x6503FFFF, .srseed .always)] = true := by decide

theorem decodes_group7 : decodesAs [
  (0x70810607, .shuf .ifTrue (.to .r 3) (.to .l 7)),
  (0x71C10607, .bcast .ifFalse (.to .r 3) (.to .l 7)),
  (0x72010607, .lrot .always (.to .r 3) (.to .l 7)),
  (0x73950607, .redadd .ifTrue (.int .i16) (.to .r 3) (.to .l 7)),
  (0x74E90607, .redmax .ifFalse (.uns .i8) (.to .r 3) (.to .l 7)),
  (0x75190607, .redmin .always (.sgn .i8) (.to .r 3) (.to .l 7)),
  (0x76850607, .scanadd .ifTrue (.flt .bf16) (.to .r 3) (.to .l 7)),
  (0x77E50607, .pack .ifFalse .satu true (.to .r 3) (.to .l 7)),
  (0x78390607, .unpack .always true true true (.to .r 3) (.to .l 7)),
  (0x79810607, .valid .ifTrue (.to .r 3) (.to .l 7)),
  (0x7AC50607, .vmask .ifFalse .set (.to .r 3) (.to .l 7)),
  (0x7B010607, .compact .always (.to .r 3) (.to .l 7)),
  (0x7C810607, .expand .ifTrue (.to .r 3) (.to .l 7)),
  (0x7DC10607, .any .ifFalse (.to .r 3) (.to .l 7)),
  (0x7E010607, .all .always (.to .r 3) (.to .l 7)),
  (0x7F890607, .lext .ifTrue .pair (.to .r 3) (.to .l 7))] = true := by decide

theorem decodes_group8 : decodesAs [
  (0x80E10607, .mma .ifFalse .uint8 (.to .r 3) (.to .l 7)),
  (0x81110607, .mmat .always .e5m2 (.to .r 3) (.to .l 7)),
  (0x82808000, .mzero .ifTrue .sacc),
  (0x83F10607, .mdrain .ifFalse .sacc true (.to .r 3) (.to .l 7)),
  (0x8423FFFF, .mload .always .sacc),
  (0x85800000, .mswap .ifTrue),
  (0x86C3FFFF, .mscale .ifFalse),
  (0x8703FFFF, .mwaddr .always .acc)] = true := by decide

theorem decodes_group9 : decodesAs [
  (0x90BF8000, .out .ifTrue .edge 31),
  (0x913D0607, .crd 15 (.to .r 3) (.to .l 7)),
  (0x92250607, .cwr 9 (.to .r 3) (.to .l 7)),
  (0x930D0607, .prd 3 (.to .r 3) (.to .l 7)),
  (0x94090607, .pwr 2 (.to .r 3) (.to .l 7)),
  (0x95DD0607, .fbits .ifFalse 7 (.to .r 3) (.to .l 7)),
  (0x96150607, .fget .always 5 (.to .r 3) (.to .l 7))] = true := by decide

theorem decodes_groupA : decodesAs [
  (0xA0BFFFFE, .br .ifTrue 0x3FFFFE),
  (0xA1C0000C, .call .ifFalse 0xC),
  (0xA2000000, .ret .always),
  (0xA3F90607, .read 62 (.to .r 3) (.to .l 7)),
  (0xA41D0607, .readv 7 (.to .r 3) (.to .l 7)),
  (0xA5FFFFFF, .write 63),
  (0xA68003FF, .yield .ifTrue 0x1),
  (0xA7DA09FF, .fork .ifFalse 1 5 0x4),
  (0xA800077E, .rdv .always 0x3 (.to .p 126)),
  (0xA9B579FF, .trap .ifTrue 0x1ABC),
  (0xAAC00000, .eret .ifFalse),
  (0xAB2A8000, .brk .always 0x55),
  (0xACBFFF7E, .wait .ifTrue 0x1FFF (.to .p 126)),
  (0xADC00000, .done .ifFalse)] = true := by decide

theorem decodes_groupB : decodesAs [
  (0xB00B0207, .ld8 .always .g 5 0x81 (.to .l 7)),
  (0xB19B0207, .ld16 .ifTrue .p 5 0x81 (.to .l 7)),
  (0xB2EB0207, .ld32 .ifFalse .w 5 0x81 (.to .l 7)),
  (0xB33B0207, .ld64 .always .io 5 0x81 (.to .l 7)),
  (0xB48B0207, .ldt .ifTrue .g 5 0x81 (.to .l 7)),
  (0xB5DB0207, .ldx64 .ifFalse .p 5 0x81 (.to .l 7)),
  (0xB60B03FF, .st8 .always .g 5 0x81),
  (0xB79B03FF, .st16 .ifTrue .p 5 0x81),
  (0xB8EB03FF, .st32 .ifFalse .w 5 0x81),
  (0xB93B03FF, .st64 .always .io 5 0x81),
  (0xBA8B03FF, .stt .ifTrue .g 5 0x81),
  (0xBBCB03FF, .pref .ifFalse 5 0x81)] = true := by decide

theorem decodes_groupC : decodesAs [
  (0xC0000207, .aadd .always .g 0 0x1 (.to .l 7)),
  (0xC1920407, .amin .ifTrue .p 1 0x2 (.to .l 7)),
  (0xC2C40807, .amax .ifFalse .g 2 0x4 (.to .l 7)),
  (0xC3161007, .aminu .always .p 3 0x8 (.to .l 7)),
  (0xC4882007, .amaxu .ifTrue .g 4 0x10 (.to .l 7)),
  (0xC5DA4007, .aand .ifFalse .p 5 0x20 (.to .l 7)),
  (0xC60C8007, .aor .always .g 6 0x40 (.to .l 7)),
  (0xC79F0007, .axor .ifTrue .p 7 0x80 (.to .l 7)),
  (0xC8C00207, .axchg .ifFalse .g 0 0x1 (.to .l 7)),
  (0xC9120407, .acas .always .p 1 0x2 (.to .l 7)),
  (0xCA840807, .afadd .ifTrue .g 2 0x4 (.to .l 7)),
  (0xCBD61007, .afmax .ifFalse .p 3 0x8 (.to .l 7))] = true := by decide

theorem decodes_groupD : decodesAs [
  (0xD00B03FF, .kinit .always 5 0x81),
  (0xD18B03FF, .kadd .ifTrue 5 0x81),
  (0xD2EB0207, .kwait .ifFalse true 5 0x81 (.to .l 7)),
  (0xD30B0207, .ktry .always false 5 0x81 (.to .l 7)),
  (0xD48B0207, .kread .ifTrue 5 0x81 (.to .l 7)),
  (0xD5CB0207, .lzresv .ifFalse 5 0x81 (.to .l 7)),
  (0xD51B03FF, .lzresvDeclare .always 5 0x81),
  (0xD68B03FF, .lzrel .ifTrue 5 0x81),
  (0xD6DB03FF, .lzrelRetire .ifFalse 5 0x81),
  (0xD70B0207, .lzstat .always 5 0x81 (.to .l 7)),
  (0xD79B0207, .lzstatZone .ifTrue 5 0x81 (.to .l 7)),
  (0xD8CB0207, .enq .ifFalse 5 0x81 (.to .l 7)),
  (0xD90B0207, .ingr .always 5 0x81 (.to .l 7)),
  (0xDA8B03FF, .egr .ifTrue 5 0x81)] = true := by decide

theorem decodes_groupE : decodesAs [
  (0xE0C0477E, .sysr .ifFalse 0x23 (.to .p 126)),
  (0xE10011FF, .sysw .always 0x8),
  (0xE280017E, .gtime .ifTrue (.to .p 126)),
  (0xE3C0057E, .feat .ifFalse .chip (.to .p 126)),
  (0xE4000F7E, .perf .always 0x7 (.to .p 126)),
  (0xE58B03FF, .tlbinv .ifTrue 5 0x81)] = true := by decide

/-- R277, R391, R400 and the listings of chapters 18 and 21: words that the spec itself gives. -/
theorem decodes_listed : decodesAs [
  (0x07040682, .punct .always false 1 (.to .l 3) (.to .r 2)), (0x0303FE02, .carry .null (.to .l 2)), (0x3F020304, .pnot .always .i32 (.to .p 1) (.to .p 4)),
  (0x01000A81, .steer (.to .l 5) (.to .r 1)), (0x90008000, .out .always .down 1), (0xA71A09FF, .fork .always 1 5 0x04), (0xA8000205, .rdv .always 1 (.to .l 5)),
  (0xD2264006, .kwait .always true 3 0x20 (.to .l 6)), (0xA9800BFF, .trap .ifTrue 5), (0xAB018000, .brk .always 3), (0xE10049FF, .sysw .always 0x24),
  (0xD60203FF, .lzrel .always 1 0x01), (0xE0000C01, .sysr .always 6 (.to .l 1)), (0xA517FFFF, .write 5), (0xC0020007, .aadd .always .g 1 0 (.to .l 7))] = true := by
  decide

/-- Reserved encodings are refused by the cause that the spec names. -/
theorem decodes_refused : decodeWord 0x0C000000 = .error .illegalOpcode ∧ decodeWord 0xFF000000 = .error .illegalOpcode ∧
    decodeWord 0x4F03FFFF = .error .illegalOpcode ∧ decodeWord 0x071DFFFF = .error .reservedField := by decide

/-- The host's question reads the same words (little-endian, R9). -/
theorem decodes_table : decodeTableWord 32 0x12002006 = some (.addi .always 16 (.to .l 6)) ∧ decodeTableWord 32 0xF0000000 = none := by decide


/-! ## Small states -/

def slot (v : Option Val) : Option SlotVal := v.map fun v => { v := v }

/-- A block of ring 0's sequencer that holds one word, with these slots filled. -/
def atSeq (l r p t : Option Val) (i : Instr) : State :=
  let x := State.reset.ring 0
  let b : Blk := { addr := 0x1000, words := [encode i], pool := [1], nodes := [(0, { l := slot l, r := slot r, p := slot p, t := slot t })] }
  { (State.reset.setRing 0 { x with cur := some placedTask, seqr := { x.seqr with blk := some b } }) with focus := .seq 0, focusIdx := 0 }

/-- A cell of ring 0's fabric that holds one word, with these slots filled. -/
def atCell (l r p t : Option Val) (i : Instr) : State :=
  let x := State.reset.ring 0
  let f := { placedFabric (encode i) i with cells := [(0, { nodes := [(0, { l := slot l, r := slot r, p := slot p, t := slot t })] })] }
  { (State.reset.setRing 0 { x with cur := some placedTask, eng := { x.eng with fabric := some f } }) with focus := .cell 0 0 0, focusIdx := 0 }

def one : Val := .sc 1
def zero : Val := .sc 0
def tok : Val := .tok (Tok.splat 1 0)
def sc (x : Word) : Option Val := some (.sc x)

/-- Every slot of the sequencer's word holds `v`, and P is true. -/
def seqWith (v : Val) (i : Instr) : State := atSeq (some v) (some v) (some one) (some v) i

/-- Every slot of the cell's word holds `v`, and P is true. -/
def cellWith (v : Val) (i : Instr) : State := atCell (some v) (some v) (some tok) (some v) i

/-- A word fires in a state, with operands of which `p` holds. -/
def fires (i : Instr) (s : State) (p : Opers → Bool := fun _ => true) : Bool :=
  match s.ready i with | .go o => p o | _ => false

def good {ε α : Type} : Except ε α → Bool | .ok _ => true | .error _ => false

def isTok : Option Val → Bool | some (.tok _) => true | _ => false
def isSc (f : Word → Bool) : Option Val → Bool | some (.sc x) => f x | _ => false

/-- The three hypotheses of `Computes`: a word fires with scalars on the sequencer, with tokens in a cell, and with a token where the
sequencer takes a scalar. -/
def computes (i : Instr) : Bool :=
  fires i (seqWith one i) (fun o => good (o.scalars i.reads)) && fires i (cellWith tok i) (fun o => good (o.toks i.reads)) &&
    fires i (seqWith tok i) fun o => !good (o.scalars i.reads)

/-- A word with two targets and an always predicate, for the lists below. -/
abbrev Two := Pred → Target → Target → Instr

def nulls (l : List Two) : List Instr := l.map fun f => f .always .null .null

/-! ## Every statement's hypotheses are met

One theorem a statement: concrete states and operands at the edges of its clauses. -/

theorem witness_EncodeThenDecode : (Instr.mov .ifFalse (.to .t 126) (.to .l 127)).wf = true ∧ (Instr.mov .ifFalse (.to .t 126) (.to .l 127)).domain.isSome = true := by
  decide

theorem witness_DecodeThenEncode : good (decodeWord 0x01000A81) = true ∧ good (decodeWord 0xE10049FF) = true := by decide

theorem witness_StepRunsDecoded : (
  let s := { seqWith one (.sink .always) with agenda := [(5, .fire (.seq 0) 0), (0, .move .dutyRelief)] }
  let t := { s with agenda := [(0, .move .dutyRelief)] }.tick 5
  (match t.view (.seq 0) with | some v => v.words[0]? == some (encode (.sink .always)) | none => false) &&
    decodeWord (encode (.sink .always)) == .ok (.sink .always) && (Instr.domain .dutyRelief).isNone && t.wordOf (.seq 0) 1 == none &&
    (Instr.domain (.sink .always)).isSome) = true := by decide

theorem witness_EveryInstructionAnswers : State.reset.agenda = [] := by decide

theorem witness_StepKeepsMemory : Claims.Inv State.reset ∧ (match step State.reset with | .next _ => true | _ => false) = true :=
  ⟨by simp [Claims.Inv, State.reset, Memory.wf], by decide⟩

theorem witness_MovesLeaveMemory : storesNothing .dutyRelief = true ∧
    (match exec .dutyRelief State.reset with | .next _ => true | _ => false) = true ∧ losesPorts (.announce 0 0) = true ∧ State.reset.dev.arrived = [] ∧
    (match exec (.announce 0 0) State.reset with | .next _ => true | _ => false) = true := by decide

theorem witness_FiringRules : (
  let ready (s : State) : Bool :=
    let n := s.node s.focus 0
    s.running 0 == some placedTask && (s.ring 0).seqr.blk.isSome && !n.fired && !n.dead
  let go (i : Instr) (p : Val) : Bool :=
    let s := atSeq (some one) none (some p) none i
    let n := s.node s.focus 0
    ready s && (needs i n).all n.has && (n.tokenP || i.pd == .always || predOk i n) && i.outs.all (· == .null) && s.mayFire s.focus 0 i && s.issues s.focus 0 i &&
      (n.tokenP == isTok (some p)) && i.domain.isSome
  let skip (i : Instr) (p : Val) : Bool :=
    let s := atSeq (some one) none (some p) none i
    let n := s.node s.focus 0
    i.domain.isSome && i.domain != some .c && ready s && i.pd != .always && n.p.isSome && !n.tokenP && !predOk i n
  let first : Bool := match ((seqWith one (.sink .always)).ring 0).seqr.blk with
    | some b => b.fires.get ((seqWith one (.sink .always)).cycle 0) 0 == 0 && b.fires.get ((seqWith one (.sink .always)).cycle 0) 1 == 0 | none => false
  go (.sink .always) zero && go (.sink .ifTrue) one && go (.sink .ifFalse) zero && go (.sink .ifTrue) tok && skip (.sink .ifTrue) zero &&
    skip (.sink .ifFalse) one && first) = true := by decide

theorem witness_DeliveryFillsSlots : (
  let i : Instr := .sink .always
  let s := seqWith one i
  (s.ring 0).seqr.blk.isSome && !(s.node s.focus 0).fired && !(s.node s.focus 0).dead && ((s.consume i).node s.focus 0).fired) = true := by decide

theorem witness_WordsWaitForCommit : (match exec (.sink .always) (seqWith one (.sink .always)) with | .next _ => true | _ => false) = true ∧
    (Instr.sink .always).domain.isSome = true ∧ buffers (.sink .always) = false ∧ buffers (.out .always .down 0) = true ∧ (seqWith one (.sink .always)).focus = .seq 0 := by
  decide

theorem witness_PassedValues : (
  let l := nulls [.mov, .gate] ++ [.merge .null .null, .carry .null .null]
  l.all (fun i => fires i (seqWith one i) fun o => o.p && o.l.isSome && o.r.isSome) &&
    (fires (.merge .null .null) (atSeq none (some one) (some zero) none (.merge .null .null)) fun o => !o.p && o.r.isSome) &&
    (fires (.carry .null .null) (atSeq (some one) none (some zero) none (.carry .null .null)) fun o => !o.p && o.l.isSome) &&
    (fires (.invar .null .null) (seqWith one (.invar .null .null)) fun o => o.l.isSome) &&
    (fires (.invar .null .null) (cellWith tok (.invar .null .null)) fun o => isTok o.l) &&
    fires (.sink .always) (seqWith one (.sink .always)) &&
    ([0, 0x0FFF, 0x1000, 0x1FFF] : List (BitVec 13)).all (fun n => fires (.const n .null) (seqWith one (.const n .null)) && fires (.const n .null) (cellWith tok (.const n .null))) &&
    fires (.lit 0 .null) (seqWith one (.lit 0 .null)) && fires (.lit 0 .null) (cellWith tok (.lit 0 .null)) &&
    (match (seqWith one (.lit 0 .null)).view (.seq 0) with | some v => v.pool[0]?.isSome | none => false) &&
    (match (cellWith tok (.lit 0 .null)).view (.cell 0 0 0) with | some v => v.pool[0]?.isSome | none => false)) = true := by decide

theorem witness_SteerChoosesOneTarget : (
  let i : Instr := .steer .null .null
  fires i (atSeq (some one) none (some one) none i) (fun o => o.p && o.l.isSome) && fires i (atSeq (some one) none (some zero) none i) fun o => !o.p && o.l.isSome) = true := by
  decide

theorem witness_PunctuationWords : (([.punct .always false 0 .null .null, .punct .always true 6 .null .null, .setpn .always false 6 .null .null,
    .setpn .always true 0 .null .null, .strip .always .both .null .null, .strip .always .tag .null .null, .strip .always .punct .null .null] : List Instr).all
  fun i => fires i (cellWith tok i) (fun o => isTok o.l) && fires i (seqWith tok i) (fun o => isTok o.l) && fires i (seqWith one i) fun o => isSc (· == 1) o.l) = true := by
  decide

theorem witness_Integers : (nulls [(.add · .wrap .i32), (.sub · .wrap .i32), (.mul · .wrap .i32), (.mad · .wrap .i32), (.mulhu · .i32), (.mulhs · .i32),
    (.neg · false .i32), (.abs · false .i32), (.mins · .i32), (.maxs · .i32), (.minu · .i32), (.maxu · .i32), (.add · .sats .i8), (.sub · .sats .i16),
    (.mul · .sats .i32), (.mad · .sats .i8), (.neg · true .i16), (.abs · true .i8), (.add · .satu .i8), (.sub · .satu .i16), (.mul · .satu .i32), (.mad · .satu .i8),
    fun p _ t => .addi p 0x1000 t]).all computes = true := by decide

theorem witness_Division : (([(.divs .always true .null .null, .divs .always false .null .null), (.divu .always true .null .null, .divu .always false .null .null),
    (.remu .always true .null .null, .remu .always false .null .null)] : List (Instr × Instr)).all fun p =>
  let at' (i : Instr) (b : Word) := atSeq (sc 7) (sc b) none none i
  fires p.1 (at' p.1 0x100000000) (fun o => isSc (· != 0) o.r) && fires p.1 (at' p.1 0) (fun o => isSc (· == 0) o.r) &&
    fires p.2 (at' p.2 1) (fun o => isSc (fun x => (x.setWidth 32 : BitVec 32) != 0) o.r) &&
    fires p.2 (at' p.2 0x100000000) fun o => isSc (fun x => (x.setWidth 32 : BitVec 32) == 0) o.r) = true := by decide

theorem witness_LogicAndFields : (nulls [(.and · .i32), (.or · .i32), (.xor · .i16), (.andn · .i8), (.not · .i32), (.shl · .i32), (.shr · .i16), (.sar · .i8),
    (.rol · .i32), fun p _ t => .shli p 32 t, fun p _ t => .shri p 0x1FFF t, fun p _ t => .sari p 0 t, (.clz · .i32), (.popc · .i8), (.bfx · false), (.bfi · false)]).all
  computes = true := by decide

theorem witness_Compares : (nulls [(.cmpeq · .i32), (.cmpne · .i16), (.cmplt · .i8), (.cmple · .i32), (.cmpltu · .i16), (.cmpleu · .i8), fun p _ t => .cmpeqi p 0x1FFF t,
    fun p _ t => .cmplti p 0x1000 t, (.sel · .i32), (.pand · .i32), (.por · .i16), (.pnot · .i8), (.fcmpeq · .f32), (.fcmplt · .bf16), (.fcmple · .f16), (.fcmpun · .f32)]).all
  computes = true := by decide

theorem witness_FloatArithmetic : (nulls [(.fadd · .f32), (.fsub · .bf16), (.fmul · .f16), (.fma · .f32), (.fms · .bf16), (.fnma · .f16), (.fmin · .f32), (.fmax · .bf16),
    (.frint · .rz .f32), (.fscl · .f16)]).all computes = true := by decide

theorem witness_SignsAndBlockScales : (nulls [(.fabs · .f32), (.fneg · .bf16), (.fcpys · .f16)]).all computes = true ∧
    fp32.decode 0x80000000 ≠ .nan ∧ bf16.decode 0x7FFF = .nan ∧ fp16.decode 0xFC00 ≠ .nan ∧
    (∃ p ∈ ([(.nan, true), (.fin false 1 0, false)] : List (Machine.Num × Bool)), p.1 = .nan) ∧
    (∀ p ∈ ([(.fin true 0 0, true)] : List (Machine.Num × Bool)), p.1 ≠ .nan) := by decide

theorem witness_ArithmeticRoundsToNearest : ∀ f ∈ [fp32, bf16, fp16], f.roundMag .rne true 3 (-1) ≤ f.maxMag ∧ f.roundMag .rne false 0 0 ≤ f.maxMag := by decide

theorem witness_SpecialFunctions : (nulls [(.frcp · .f32), (.frsq · .bf16), (.fsqrt · .f16), (.fdiv · .f32), (.fexp2 · .bf16), (.flog2 · .f16), (.fsin · .f32), (.fcos · .bf16),
    (.ftanh · .f16), (.fsigm · .f32)]).all computes = true ∧ fp32.decode 0x7FC00000 = .nan ∧ fp32.decode 0xFFFFFFFF = .nan ∧
    fp32.decode 0 = .fin false 0 (-149) ∧ fp32.decode 0x3F800000 = .fin false 0x800000 (-23) := by decide

/-- Ring 0's caches hold one translation of page 0 of context 0, to host memory. -/
def mapped (s : State) (w : Bool := false) : State :=
  s.modRing 0 fun x => { x with tlb := [{ ctx := 0, page := 0, size := 16, base := 2 ^ 51, s := false, w := w, x := false }] }

/-- An access of ring 0's task passes its checks. -/
def passes (s : State) (q : Req) (l : Word) : Bool :=
  l.toNat % q.n == 0 && match q.sp with
    | .p => decide (l.toNat < 2 ^ 24)
    | .w => !q.atomic && decide (l.toNat < 0x3000000)
    | .io => false
    | .g => decide (l.toNat < 2 ^ 57) && !(s.ring 0).seqr.perf.watches l && match s.cached 0 0 l with
      | some e => e.permits (s.ring 0).seqr.priv q.use && good (s.locate (e.base + l.toNat % 2 ^ e.size))
      | none => false

def super (s : State) : State := s.modSeqr 0 fun q => { q with priv := true }

theorem witness_Conversions : (
  let cv : Instr := .cvt .always .e2m1 .null .null
  let ct : Instr := .cvtT .always .null .null
  let word (m x : Nat) : Bool := (floatOfCode (x % 16)).isSome && (laneFmt? (x / 256 % 16)).isSome && x / 16 % 8 < m && x < 2 ^ 15 && x / 128 % 2 == 0
  let bad (m x : Nat) : Bool := 2 ^ 15 ≤ x || x / 128 % 2 == 1 || 5 < x % 16 || 8 < x / 256 % 16 || m < x / 16 % 8
  let onSeq (x : Nat) : Bool := fires ct (atSeq (sc 1) none none (sc (BitVec.ofNat 64 x)) ct) fun o => isSc (·.toNat == x) o.t && isSc (· == 1) o.l
  let inCell (v : BitVec 16) (x : Nat) : Bool :=
    fires ct (atCell (some tok) none none (some (.tok { Tok.splat (BitVec.ofNat 32 x) 0 with valid := v })) ct) fun o => isTok o.l &&
      match o.t with | some (.tok y) => y.ok 0 == v.getLsbD 0 && (!y.ok 0 || (y.lane 0).toNat == x) | _ => false
  let part (src dst : LaneFmt) (g : Nat) : Bool := decide (hasPart src.perLane dst.perLane g)
  let scale (g : BitVec 2) (w : FWidth) (v : Val) : Bool := fires (.scale .always g w .null .null) (cellWith v (.scale .always g w .null .null)) fun o => isTok o.l
  let tagged (k : BitVec 4) : Val := .tok { Tok.splat 1 0 with tag := some { fmt := k } }
  let blk (q : QDest) (v : Val) : Bool := fires (.qblk .always q .null .null) (cellWith v (.qblk .always q .null .null)) (fun o => isTok o.l) &&
    fires (.qblk .always q .null .null) (seqWith v (.qblk .always q .null .null)) fun o => isTok o.l
  fires cv (seqWith one cv) (fun o => isSc (· == 1) o.l) && fires cv (cellWith tok cv) (fun o => isTok o.l) &&
    [0, 0x7035].all (fun x => word 4 x && onSeq x) && [0x8000, 0x80, 6, 0x900, 0x40, 0x7FFF].all (fun x => bad 3 x && onSeq x) &&
    [0, 0x45].all (fun x => word 5 x && inCell 0xFFFF x) && [0x8000, 0x80, 6, 0x900, 0x50].all (fun x => bad 4 x && inCell 0xFFFF x) && inCell 0xFFFE 0 &&
    part (.flt fp32) (.flt e2m1) 7 && !part (.flt fp32) (.flt fp32) 1 && part .int32 (.flt fp32) 0 &&
    scale 0 .f32 tok && scale 1 .f16 tok && scale 1 .f32 tok && part (.flt fp16) (.flt fp16) 0 && !part (.flt fp16) (.flt fp16) 1 &&
    [0, 1, 3].all (fun g => fires (.scale .always g .f32 .null .null) (seqWith one (.scale .always g .f32 .null .null)) fun o => isSc (· == 1) o.l) &&
    ([.cvtfi .always .ru .f32 .null .null, .cvtif .always true .f32 .null .null, .cvtif .always false .f32 .null .null] : List Instr).all
      (fun i => fires i (seqWith one i) (fun o => isSc (· == 1) o.l) && fires i (cellWith tok i) fun o => isTok o.l) &&
    ([.e2m1 true 3, .e2m1 false 0, .e4m3 true] : List QDest).all (fun q => blk q tok && blk q (tagged 1) && blk q (tagged 2) && blk q (tagged 0) && blk q (tagged 15)) &&
    ([(0, 0xFFFF), (1, 0xFFFF), (1, 0xFFFE)] : List (W32 × BitVec 16)).all (fun x =>
      fires (.srseed .always) (atCell (some (.tok { Tok.splat x.1 0 with valid := x.2 })) none none none (.srseed .always)) fun o =>
        match o.l with | some (.tok t) => t.ok 0 == x.2.getLsbD 0 && (!t.ok 0 || t.lane 0 == x.1) | _ => false) &&
    ((cellWith tok cv).fabric 0).isSome) = true := by decide

theorem witness_LaneMoves : (([.shuf .always .null .null, .bcast .always .null .null, .lrot .always .null .null, .pack .always .wrap false .null .null,
    .pack .always .sats true .null .null, .pack .always .satu true .null .null, .unpack .always true true false .null .null,
    .unpack .always false false true .null .null] : List Instr).all fun i =>
  fires i (cellWith tok i) fun o => isTok o.l && (isTok o.r || !i.reads.contains .r)) = true := by decide

theorem witness_ReductionsAndScans : (([.redadd .always (.int .i8) .null .null, .redadd .always (.flt .f32) .null .null, .redmax .always (.uns .i16) .null .null,
    .redmax .always (.sgn .i32) .null .null, .redmin .always (.uns .i8) .null .null, .scanadd .always (.int .i32) .null .null] : List Instr).all fun i =>
  fires i (cellWith tok i) fun o => isTok o.l) = true := by decide

theorem witness_MasksAndExtraction : (([.valid .always .null .null, .vmask .always .and .null .null, .vmask .always .set .null .null, .vmask .always .join .null .null,
    .compact .always .null .null, .expand .always .null .null, .any .always .null .null, .all .always .null .null, .lext .always .pair .null .null,
    .lext .always .zero .null .null] : List Instr).all (fun i => fires i (cellWith tok i) fun o => isTok o.l && (isTok o.r || !i.reads.contains .r)) &&
  ([.any .always .null .null, .all .always .null .null] : List Instr).all (fun i => fires i (seqWith tok i) fun o => isTok o.l) &&
  ([.lext .always .zero .null .null, .lext .always .sign .null .null, .lext .always .pair .null .null] : List Instr).all fun i =>
    fires i (atSeq (some tok) (sc 15) none none i) fun o => isTok o.l && isSc (· == 15) o.r) = true := by decide

/-- The cell in focus of a word's state. -/
def cell0 (s : State) : Cell := match s.fabric 0 with | some f => f.cell 0 0 | none => {}

theorem witness_MatrixUnit : (
  let mma (d : MatFmt) : Instr := .mma .always d .null .null
  let dr : Instr := .mdrain .always .sacc true .null .null
  let tagged (k : BitVec 4) : Val := .tok { Tok.splat 1 0 with tag := some { fmt := k } }
  let sm := cellWith tok (mma .f32)
  let with' (i : Instr) (v : Val) (w : W32) (q : BankPtr) : Bool :=
    fires i ((cellWith v i).modCell 0 0 0 fun c => { c with wdesc := w, accPtr := q }) fun o => isTok o.l && isTok o.r
  let fmt (f : MatFmt) (v : Val) : LaneFmt := match v with | .tok x => readFmt f.lane x | _ => .int32
  let dsc (n : BitVec 4) (row : Nat) : Option Drain := some { node := 0, rows := List.replicate 16 0, row := row, punct := n.setWidth 3, bank := .sacc, clear := row == 15 }
  let drains (row : Nat) : Bool :=
    let s := (cellWith tok dr).modCell 0 0 0 fun c => { c with drain := dsc 0 row }
    s.targetsFree (.cell 0 0 0) 0 dr && (s.view (.cell 0 0 0)).isSome && (cell0 s).drain == dsc 0 row && s.focusIdx == 0 && (List.replicate 16 (0 : BitVec 512))[row]? == some 0
  let word (i : Instr) (x : W32) (v : BitVec 16) : Bool := fires i (cellWith (.tok { Tok.splat x 0 with valid := v }) i) fun o =>
    match o.l with | some (.tok a) => a.valid == v && (!a.ok 0 || a.lane 0 == x) | _ => false
  with' (mma .f32) tok 0 {} && fmt .f32 tok != .int32 && (fmt .f32 tok).perLane == MatFmt.f32.lane.perLane && with' (mma .e2m1) tok 0x0C000000 {} &&
    MatFmt.e2m1.code == 5 && (fmt .e2m1 (tagged 5)).perLane == MatFmt.e2m1.lane.perLane &&
    with' (mma .f32) (tagged 6) 0 {} && fmt .f32 (tagged 6) == .int32 && with' (mma .f32) (tagged 1) 0 {} && (fmt .f32 (tagged 1)).perLane != MatFmt.f32.lane.perLane &&
    with' (mma .f32) tok 0x08000000 {} && with' (mma .e4m3) tok 0x04000000 {} &&
    with' (mma .f32) tok 0 { w := 0x180000 - 64 } && with' (mma .f32) tok 0 { w := 0x180000 } && with' (mma .e2m1) tok 0x08000000 { s := 0x180000 } &&
    ([(tok, tok, true), (tagged 6, tok, false), (tok, tagged 1, false)] : List (Val × Val × Bool)).all (fun x =>
      let i : Instr := .mmat .always .f32 .null .null
      fires i (atCell (some x.1) (some x.2.1) none none i) (fun o => isTok o.l && isTok o.r) &&
        x.2.2 == (fmt .f32 x.1 != .int32 && fmt .f32 x.2.1 != .int32 && (fmt .f32 x.1).perLane == (fmt .f32 x.2.1).perLane)) &&
    ([.mzero .always .acc, .mzero .always .sacc, .mswap .always, .mload .always .acc, .mload .always .sacc, dr] : List Instr).all
      (fun i => fires i (cellWith tok i) fun o => isTok o.l) &&
    (cell0 sm).drain.isNone && drains 14 && drains 15 &&
    word (.mscale .always) 0x0FC00000 0xFFFF && word (.mscale .always) 0x10000000 0xFFFF && word (.mscale .always) 1 0xFFFF && word (.mscale .always) 1 0xFFFE &&
    ([(0x17FFC0, 0xFFFF), (0x180000, 0xFFFF), (0x180000, 0xFFFD), (0x180000, 0xFFFE), (1, 0xFFFF), (8, 0xFFFE), (4, 0xFFFE), (4, 0xFFFC)] : List (W32 × BitVec 16)).all
      fun x => word (.mwaddr .always .acc) x.1 x.2) = true := by decide

theorem witness_CellRegisters : (
  let outs (q : OutPort) : Bool :=
    let i : Instr := .out .always q 31
    let s := cellWith tok i
    fires i s (fun o => isTok o.l) && match s.fabric 0 with | some f => (f.config 0 0).isSome && !f.scroll && f.p == 1 | none => false
  let second (i : Instr) : State := { ((cellWith tok i).modFabric 0 fun g =>
    { g with dirs := [(1, 0x800)], configs := g.configs.map fun e => (1, e.2), cells := g.cells.map fun e => (1, e.2) }) with focus := .cell 0 0 1 }
  let prd : Instr := .prd 3 .null .null
  let pwr : Instr := .pwr 3 .null .null
  let fabric (f : Fabric → Fabric) (i : Instr) := (cellWith tok i).modFabric 0 f
  let full (g : Fabric) : Fabric := { g with passReg := [(3, Tok.splat 1 0)], passEntry := [(4 * wrapKey 1 0 + 3, Tok.splat 1 0)] }
  let scroll (g : Fabric) : Fabric := { g with scroll := true }
  let dest (s : State) : PassDest := match s.fabric 0 with | some f => s.passDest { r := 0, p := 0, j := 0, cell := f.cell 0 0 } f 3 | none => .reg 1 0
  let puts (s : State) (d : PassDest) (free : Bool) : Bool := fires pwr s (fun o => isTok o.l) && dest s == d && match s.fabric 0 with
    | some h => free == (match d with | .reg _ key => (h.passReg.look key).isNone | .entry _ _ _ key => (h.passEntry.look key).isNone) | none => false
  let last : PassDest := .entry 0 0 3 (4 * wrapKey 1 0 + 3)
  outs .down && outs .left && outs .right && outs .edge && fires (.out .always .left 0) (second (.out .always .left 0)) (fun o => isTok o.l) &&
    (match (second (.out .always .left 0)).fabric 0 with | some f => (f.config 0 1).isSome | none => false) &&
    ([.crd 0 .null .null, .crd 15 .null .null, .cwr 0 .null .null, .cwr 15 .null .null, .fbits .always 7 .null .null, .fget .always 0 .null .null] : List Instr).all
      (fun i => fires i (cellWith tok i) fun o => isTok o.l) &&
    fires prd (fabric full prd) (fun o => isTok o.l) && (match (fabric full prd).fabric 0 with | some f => (f.passReg.look (passKey (f.above 0) 0 3)).isSome | none => false) &&
    puts (cellWith tok pwr) (.reg 0 3) true && puts (fabric full pwr) (.reg 0 3) false && puts (fabric scroll pwr) last true &&
    puts (fabric (scroll ∘ full) pwr) last false &&
    (match (fabric scroll pwr).fabric 0 with | some f => f.scroll && f.nextRing == 0 && decide (0 < f.p) && !f.inWindow ((f.stripe 0).a + 1) | none => false)) = true := by decide

theorem witness_Exits : (
  let held (i : Instr) : Bool := fires i ((seqWith one i).modSeqr 0 fun q => { q with blk := q.blk.map fun b => { b with exit := some .done } })
  let stack (i : Instr) (n : Nat) : Bool := fires i ((seqWith one i).modSeqr 0 fun q => { q with stack := List.replicate n 64 })
  let l : List Instr := [.br .always 0x3FFFFF, .br .always 1, .call .always 0, .ret .always, .done .always, .trap .always 0x1FFF, .brk .always 127]
  l.all (fun i => fires i (seqWith one i)) && held (.br .always 1) && held (.call .always 1) && held (.ret .always) && held (.done .always) &&
    stack (.call .always 1) 31 && stack (.call .always 1) 32 && stack (.ret .always) 1 && ((seqWith one (.ret .always)).ring 0).seqr.stack.isEmpty) = true := by decide

theorem witness_RegisterWords : (
  let w (n : BitVec 6) (v : Val) : Bool := fires (.write n) (seqWith v (.write n)) fun o => o.l == some v
  fires (.read 63 .null .null) (seqWith one (.read 63 .null .null)) && fires (.readv 7 .null .null) (seqWith one (.readv 7 .null .null)) &&
    w 63 one && w 7 tok && w 8 tok) = true := by decide

theorem witness_ForkRdvWait : (
  let f : Instr := .fork .always 1 0 0
  let rdv : Instr := .rdv .always 3 .null
  let w (n : Nat) : Instr := .wait .always (BitVec.ofNat 13 n) .null
  let s := seqWith one (w 5)
  let early := s.modSeqr 0 fun q => { q with blk := q.blk.map fun b => { b with since := 1 } }
  let freed (s : State) : Bool := match (s.ring 0).seqr.blk with | some b => b.freed.isEmpty | none => false
  let held := (seqWith one rdv).modSeqr 0 fun q => { q with handles := [(3, .complete 0 9)] }
  fires f (atSeq (sc 0x40) none none none f) (fun o => isSc (· == 0x40) o.l) && fires f (atSeq (sc 0x41) none none none f) (fun o => isSc (· == 0x41) o.l) &&
    fires f (atSeq (some tok) none none none f) (fun o => isTok o.l) && fires rdv (seqWith one rdv) &&
    Tab.get .free ((seqWith one rdv).ring 0).seqr.handles 3 == .free && fires rdv held && Tab.get .free (held.ring 0).seqr.handles 3 == .complete 0 9 && freed held &&
    fires (w 0) (seqWith one (w 0)) && (s.running 0).isSome && (s.ring 0).seqr.blk.isSome && decide (early.cycle 0 < 1 + 5) && (seqWith one (w 0)).cycle 0 == 0 &&
    !((seqWith one (w 0)).node (.seq 0) 0).fired && !((seqWith one (w 0)).node (.seq 0) 0).dead && !((seqWith one (w 0)).node (.seq 0) 0).tokenP &&
    (seqWith one (w 0)).issues (.seq 0) 0 (w 0)) = true := by decide

theorem witness_TrapAndBreak : (([.trap .always 0, .trap .ifTrue 0x1FFF, .brk .always 127] : List Instr).all fun i =>
  let s := seqWith one i
  fires i s && (s.ring 0).cur == some placedTask && (s.ring 0).seqr.blk.isSome && !(s.ctx 0).halted) = true := by decide

theorem witness_PrivilegeAndSystemWrites : (
  let w (n : BitVec 13) (x : Word) : Bool := fires (.sysw .always n) (atSeq (sc x) none none none (.sysw .always n)) fun o => isSc (· == x) o.l
  let both (i : Instr) (l r : Option Val) : Bool := fires i (super (atSeq l r none none i)) (fun o => o.l == l && o.r == r) &&
    fires i (atSeq l r none none i) (fun o => o.l == l && o.r == r) && ((super (atSeq l r none none i)).ring 0).seqr.priv && !((atSeq l r none none i).ring 0).seqr.priv
  let t : Instr := .tlbinv .always 1 0x80
  fires (.yield .always 1) (seqWith one (.yield .always 1)) && both (.eret .always) none none && w 0x008 0xFFFF && w 0x030 7 && w 0x030 8 && w 0x031 0x0D &&
    w 0x038 0x7FFFFFFFFFFFFFF && both (.sysw .always 0x024) (sc 0x8001006400000003) none && !sysBad 0x024 0x8001006400000003 && w 0 0 && w 7 0 && w 0x039 0 && w 0x1FFF 0 &&
    both t (sc 0x10000) (sc 3) && both t (sc 0) (sc 4)) = true := by decide

theorem witness_SystemReads : (
  let r (n : BitVec 13) (s : State → State) : Bool := fires (.sysr .always n .null) (s (seqWith one (.sysr .always n .null))) &&
    ((seqWith one (.sysr .always n .null)).ring 0).cur == some placedTask
  r 0x01F id && r 0x025 id && r 0x020 super && r 0x024 super && r 0x020 id && r 0x024 id &&
    ([.gtime .always .null, .feat .always .version .null, .feat .always .devId .null, .feat .always .chip .null, .feat .always .live .null, .perf .always 7 .null] : List Instr).all
      fun i => fires i (seqWith one i)) = true := by decide

theorem witness_AccessChecks : (
  let g (w : Bool) : Req := { sp := .g, n := 8, use := if w then .write else .read }
  let s := mapped (seqWith one (.sink .always))
  let watched := s.modSeqr 0 fun q => { q with perf := { q.perf with enable := true, event := [(3, 0xFF)], waddr := [(3, 1)] } }
  s.lookup 0 0 0xFFF8 (g true).use == .cause 0x0A && State.reset.lookup 0 0 0xFFF8 (g false).use == .miss && passes s (g false) 0xFFF8 &&
    passes (mapped s true) (g true) 0 && passes s { sp := .p, n := 8, use := .write, atomic := true } (2 ^ 24 - 8) && passes s { sp := .w, n := 8, use := .read } (0x3000000 - 8) &&
    (match watched.lookup 0 0 0x78 .read with | .place .. => true | _ => false) && (watched.ring 0).seqr.perf.watches 0x78 && !(watched.ring 0).seqr.perf.watches 0x80 &&
    !apertureOk 0xF8 0 && !apertureOk 0xF0 0x4000 && !apertureOk 0 0x10000 && decide ((2 ^ 57 - 1) % 8 != 0)) = true := by decide

/-- How the check of an access ends: 0 passes, 1 fails, 2 misses. -/
def ends : Check → Nat | .pass _ _ => 0 | .fail _ _ => 1 | .miss => 2

theorem witness_Loads : (([.p, .w, .g] : List Space).all fun sp =>
  ([(.ld8 .always sp 1 2 .null, 1), (.ld16 .always sp 1 2 .null, 2), (.ld32 .always sp 1 2 .null, 4), (.ld64 .always sp 1 2 .null, 8), (.ldt .always sp 1 2 .null, 64),
    (.ldx64 .always sp 1 2 .null, 8)] : List (Instr × Nat)).all fun p =>
    let s := seqWith zero p.1
    let q : Req := { sp := sp, n := p.2, use := .read }
    let m := mapped s
    (m.ring 0).cur == some placedTask && (m.ring 0).seqr.blk.isSome && fires p.1 m (fun o => isSc (· == 0) o.l) && passes m q 0 &&
      (if sp == .g then ends (s.access 0 placedTask q 0) == 2 && ends (m.access 0 placedTask q (2 ^ 57)) == 1 else ends (s.access 0 placedTask q 0x3000000) == 1)) = true := by
  decide

theorem witness_StoresAndAtomics : (
  let two (n : Nat) (atom : Bool) (j : Space → Instr) : Bool := ([.p, .w, .g] : List Space).all fun sp =>
    let i := j sp
    let s := mapped (atSeq (sc 64) (sc 1) none (sc 2) i) true
    (sp == .w && atom) || (fires i s (fun o => isSc (· == 64) o.l && isSc (· == 1) o.r && isSc (· == 2) o.t) && (s.ring 0).cur == some placedTask &&
      passes s { sp := sp, n := n, use := .write, atomic := atom, io := if n = 8 ∧ !atom then some 1 else none } 64)
  two 1 false (.st8 .always · 0 0) && two 2 false (.st16 .always · 0 0) && two 4 false (.st32 .always · 0 0) && two 8 false (.st64 .always · 0 0) &&
    (let i : Instr := .st64 .always .io 0 0
     fires i (atSeq (sc 0xF0) (sc 0xFFC03FFF) none none i) (fun o => isSc (· == 0xF0) o.l && isSc (fun x => x.toNat / 2 ^ 14 % 4 == 0 && x.toNat / 2 ^ 16 % 64 == 0) o.r)) &&
    ([.p, .w, .g] : List Space).all (fun sp =>
      let i : Instr := .stt .always sp 0 0
      let s := mapped (atSeq (sc 64) (some tok) none none i) true
      fires i s (fun o => isTok o.r) && passes s { sp := sp, n := 64, use := .write } 64) &&
    (let i : Instr := .pref .always 0 0
     fires i (atSeq (sc 64) (sc 0x8000FFFFFFFFFFFF) none none i)) &&
    ([(.aadd .always · 0 0 .null), (.amin .always · 0 0 .null), (.amax .always · 0 0 .null), (.aminu .always · 0 0 .null), (.amaxu .always · 0 0 .null),
      (.aand .always · 0 0 .null), (.aor .always · 0 0 .null), (.axor .always · 0 0 .null), (.axchg .always · 0 0 .null), (.acas .always · 0 0 .null)] : List (Space → Instr)).all
      (two 8 true) && two 4 true (.afadd .always · 0 0 .null) && two 4 true (.afmax .always · 0 0 .null)) = true := by decide

theorem witness_KnotAndEyeletWords : (
  let f (i : Instr) (l r t : Word) : Bool := fires i (atSeq (sc l) (sc r) none (sc t) i) fun o => o.l == sc l && o.r == sc r && o.t == sc t
  let add : Instr := .kadd .always 1 2
  let w : Instr := .kwait .always true 1 2 .null
  let y : Instr := .ktry .always false 1 2 .null
  [add, w, y].all (fun i => f i 63 0xFFFFFFFF 0 && f i 64 0 0 && f i 63 0x100000000 0) && f (.kread .always 1 2 .null) 63 0 0 && f (.kread .always 1 2 .null) 64 0 0 &&
    f (.kinit .always 1 2) 63 0x7FFFFFFFF 1 && f (.kinit .always 1 2) 63 0x400000000 0 && (0x7FFFFFFFF : Word).getLsbD 34 &&
    f (.lzresv .always 1 2 .null) 0x0F1FFFFF 0xFFFF 0 && f (.lzresv .always 1 2 .null) 0x00200000 0 0 && f (.lzresvDeclare .always 1 2) 5 0 0 && f (.lzresvDeclare .always 1 2) 5 1 0 &&
    f (.lzrel .always 1 2) 0x3F0F 1 0 && f (.lzrel .always 1 2) 0x10 0 0 && f (.lzrelRetire .always 1 2) 0xF 0 0 && f (.lzstat .always 1 2 .null) 0x3F0F 0 0 &&
    f (.lzstatZone .always 1 2 .null) 0x3F0F 0 0 && f (.lzstat .always 1 2 .null) 0x80 0 0) = true := by decide

theorem witness_HostQueueWords : (
  let e : Instr := .enq .always 1 2 .null
  let s := mapped (atSeq (sc 0x80) (sc 3) none none e)
  let g (i : Instr) (l : Option Val) (r : Word) : Bool := fires i (atSeq l (sc r) none none i) fun o => o.l == l && o.r == sc r
  fires e s (fun o => isSc (· == 0x80) o.l && isSc (· == 3) o.r) && (s.ring 0).cur == some placedTask && passes s { sp := .g, n := 128, use := .read } 0x80 && g e (sc 0x80) 4 &&
    ([4, 15, 3, 16] : List Word).all (fun n => g (.ingr .always 1 2 .null) (sc n) 0) && g (.egr .always 1 2) (some tok) 0xFFFFFF && g (.egr .always 1 2) (some tok) 0x1000000 &&
    g (.egr .always 1 2) (sc 1) 0) = true := by decide


/-! ### States of the device -/

/-- The device after bring-up, its dies live, in windowed mode. -/
def up : State := State.reset.modDev fun d => { d with ready := true, live := 0xFF, flush := false, phase := 6 }

/-- Ring 0 runs a task of context 0 on it. -/
def busy : State := up.modRing 0 fun x => { x with cur := some placedTask }

def yes : Host.Outcome State Fault Refusal → (State → Bool) → Bool | .next t, f => f t | _, _ => false

theorem witness_TakingCauses : (
  let h (f : Ctx → Ctx) := (busy.modCtx 0 f).ctx 0
  let rep := busy.modDev fun d => { d with repActive := true, repCtx := 0 }
  (h fun x => { x with closing := true }).closing && !(busy.ctx 0).closing && causeClass 0x34 == .info && causeClass 0x09 == .serviceable && causeClass 0x0E == .contained &&
    causeClass 0x3C == .halting && causeClass 0 == .none && !(busy.ctx 0).halted && (h fun x => { x with halted := true }).halted && (busy.ring 0).cur == some placedTask &&
    rep.dev.repActive && rep.dev.repCtx == 0 && !(rep.ctx 0).halted) = true := by decide

/-- Page 0 of context 0, executable, on die 0; its first block holds DONE alone (R285). -/
def coded : State :=
  { (busy.modRing 0 fun x => { x with tlb := [{ ctx := 0, page := 0, size := 16, base := 0, s := false, w := false, x := true }] }) with
    mem := [(2, 0x20), (3, 0x40), (7, 0xAD)] }

/-- A block whose words are settled, with these commit items and this exit. -/
def settled (words : List Instr) (items : List Item) (e : Option Exit) : State :=
  busy.modSeqr 0 fun q => { q with
    stack := [64], blk := some { addr := 0, words := words.map encode, items := items, exit := e, nodes := (List.range words.length).map fun k => (k, { fired := true }) } }

theorem witness_BlocksComeAndGo : (
  let ready (s : State) : Bool := s.running 0 == some placedTask && (s.ring 0).seqr.blk.isNone && (s.ring 0).seqr.yielded.isNone && !(s.ring 0).seqr.stepDue && !(s.ring 0).seqr.ending
  let commits (s : State) : Bool := match (s.ring 0).seqr.blk with
    | some b => s.running 0 == some placedTask && (s.ring 0).seqr.allSettled b && (s.ring 0).seqr.ops.all (·.committed) && (s.ring 0).seqr.yielded.isNone &&
        !(s.ring 0).seqr.perf.step && b.freed.isEmpty && decide (b.items.map (·.idx)).Nodup &&
        b.items.all fun i => i.idx < b.words.length && i.strand.isNone && i.ret.isNone && match i.work with | .write _ (.sc _) => true | _ => false
    | none => false
  let odd := busy.modSeqr 0 fun q => { q with pc := 2 }
  ready coded && good ((fetchBlock 0 0 0).go coded).1 && ready busy && !good ((fetchBlock 0 0 0).go busy).1 && ready odd && (odd.ring 0).seqr.pc.toNat % 4 != 0 &&
    commits (settled [.write 0, .write 63] [{ idx := 0, strand := none, work := .write 0 (.sc 1) }, { idx := 1, strand := none, work := .write 63 (.sc 2) }] (some (.to 64))) &&
    commits (settled [.call .always 0] [] (some (.call 8 4))) && commits (settled [.ret .always] [] (some (.ret 64))) && commits (settled [.done .always] [] (some .done)) && !((settled [.done .always] [] (some .done)).ring 0).seqr.forksOut &&
    placedTask.lead == 0 && commits (settled [.read 0 .null .null] [] none) &&
    ((busy.modSeqr 0 fun q => { q with landing := [(63, 5)] }).ring 0).seqr.landing.look (63 : BitVec 6).toNat == some 5) = true := by decide

/-- A miss of page 0, and page tables that map its first GiB (R111, R112). -/
def missing (tables : Bool) : State :=
  { ((busy.modRing 0 fun x => { x with misses := [{ ctx := 0, va := 0xFFFF, write := true, engine := .sequencer, block := 0 }] }).modCtx 0 fun x => { x with ptbase := 0x1000 }) with
    mem := if tables then [(0x1000, 1), (0x1001, 0x20), (0x2000, 1), (0x2001, 0x30), (0x3000, 7)] else [] }

theorem witness_TranslationsComeAndGo : (
  let after (s : State) := s.modRing 0 fun x => { x with misses := x.misses.filter fun n => !(n.ctx == 0 && n.va.toNat / 2 ^ 16 == 0) }
  let shoot (l : List RingId) := (busy.modCtx 0 fun x => { x with shootBusy := true, shootRings := l }).ctx 0
  let walks (s : State) : Bool := match (s.ring 0).misses[0]? with | some m => s.walking 0 m | none => false
  let queued : State := busy.modRing 0 fun x => { x with misses := (List.range 33).map fun n => { ctx := 0, va := BitVec.ofNat 64 (65536 * n), write := false, engine := .sequencer, block := 0, arrived := n } }
  let readOnly : State := { missing true with mem := [(0x1000, 1), (0x1001, 0x20), (0x2000, 1), (0x2001, 0x30), (0x3000, 3)] }
  walks (missing true) && walks (missing false) && walks readOnly && ((missing true).ring 0).misses.length == 1 &&
    (match ((after (missing true)).walk 0 0 0xFFFF).res with | .ok t => good ((after (missing true)).through t false .write 0xFFFF) | .error _ => false) &&
    (match ((after readOnly).walk 0 0 0xFFFF).res with | .ok t => !good ((after readOnly).through t false .write 0xFFFF) | .error _ => false) &&
    !good ((after (missing false)).walk 0 0 0xFFFF).res && (missing false).served 0 == some 0 && (missing false).running 0 == some placedTask &&
    (match (queued.ring 0).misses[32]? with | some m => !queued.walking 0 m | none => false) &&
    busy.dev.ready && !(busy.ctx 0).shootBusy && busy.runsRing 0 && !(busy.modDie 7 fun x => { x with pwr := .parked }).runsRing 31 &&
    (shoot [0]).shootBusy && (shoot [0]).shootOp.isNone && (shoot [0]).shootRings.contains 0 && (shoot [31, 0]).shootRings.contains 0) = true := by decide

def path01 : Path := { src := .die 0, dst := .die 1 }

/-- A window pipe between two dies, 100 windows into ground time. -/
def piped (f : Pipe → Pipe) : State := { (busy.setPipe (f { path := path01 })) with gt := 102400 }

theorem witness_WindowsAndModes : (
  let p (f : Pipe → Pipe) := (piped f).pipe path01
  let w : PipeWrite := { window := 0, ring := 0, ctx := 0, who := .sequencer, op := 0, msg := .write [(0, 1)] }
  let mode (m : Option Bool) (f : State → State) := f (up.modDev fun d => { d with modeNext := m })
  let settledAll (s : State) : Bool := s.dev.modeNext.isSome && s.dev.pipes.all fun x => x.lost || (x.writes.isEmpty && (!x.marker || x.gathered))
  let sealed : List (Nat × Nat) := [(0, 98), (1, 98), (3, 98)]
  let due := (piped fun x => { x with writes := [{ w with who := .shuttle 3 }], seals := sealed })
  busy.dev.pipes.isEmpty && (piped id).dev.pipes.all (fun x => x.writes.isEmpty) && !(piped id).dev.flush &&
    (match due.dev.pipes with
      | [x] => x.path.dst == .die 1 && !x.lost && x.isSealed 0 && decide (0 + 2 ≤ due.curWindow) && x.writes.length == 1
      | _ => false) &&
    (p fun x => { x with sent := 1, seals := [(0, 99), (1, 99), (3, 99)] }).writes.isEmpty && decide (0 < (p fun x => { x with sent := 1 }).sent) &&
    decide ((piped id).curWindow < (p fun x => { x with seals := [(0, 99), (1, 99), (3, 99)] }).unsealed + 2) && (pathDie? path01.src).isSome &&
    (pathDie? (.chip 7)).isNone && (p id).late.isEmpty && !(p id).lost && decide ((p id).unsealed + 2 ≤ (piped id).curWindow) &&
    decide ((p fun x => { x with seals := sealed }).unsealed + 2 ≤ (piped id).curWindow) && (p fun x => { x with lost := true }).lost &&
    (let x := p fun x => { x with writes := [w], late := [(0, [(0, 0)])] }
     !x.noticed.contains 0 && x.late.find? (fun e => e.1 == 0) == some (0, [(0, 0)]) && decide (w.msg.vc ≠ 2)) &&
    decide ((p fun x => { x with seals := [(0, 34), (1, 34), (3, 34)] }).unsealed + 66 ≤ (piped id).curWindow) && up.dev.ready && up.dev.modeNext.isNone && (1 : Word).getLsbD 0 != up.dev.flush &&
    (p fun x => { x with marker := true }).marker && (p fun x => { x with marker := true }).writes.isEmpty && path01.src == .die 0 &&
    (let c : Path := { src := .chip 7, dst := .die 1 }
     (up.pipe c).writes.isEmpty && c.src == .chip 7 && Nat.ble (up.liveRoutes 7).length 1 && up.dev.gathers.isEmpty) &&
    (let old := (piped fun x => { x with writes := [w] }).modDev fun d => { d with flush := true }
     old.dev.flush && (old.pipe path01).windowed && !up.dev.flush && !(p fun x => { x with writes := [{ w with flush := true }] }).windowed &&
       ((piped id).modDev fun d => { d with flush := true }).dev.pipes.all fun x => !x.windowed) &&
    (let late := piped fun x => { x with writes := [w], seals := [(0, 34), (1, 34), (3, 34)] }
     let own := piped fun x => { x with writes := [w] }
     decide ((late.pipe path01).unsealed + 66 ≤ late.curWindow) && (late.pipe path01).isSealed w.window && decide ((own.pipe path01).unsealed + 66 ≤ own.curWindow) &&
       !(own.pipe path01).isSealed w.window && !own.due (own.pipe path01) w && w.msg.vc != 2 && own.dev.arrived.isEmpty) &&
    (p fun x => { x with writes := [{ w with msg := .marker 0 7 }] }).writes == [{ w with msg := .marker 0 7 }] && path01.dst == .die 1 &&
    settledAll (mode (some true) id) && settledAll (mode (some false) fun s => s.setPipe { path := path01, marker := true, gathered := true }) &&
    (List.finRange 16).all (fun q => !(up.link q.val).wmismatch) && !settledAll (mode (some true) fun s => s.setPipe { path := path01, writes := [w] }) &&
    !settledAll (mode (some true) fun s => s.setPipe { path := path01, marker := true }) &&
    decide (7 ≤ (7 : Word).toNat % 16 ∧ (13 : Word).toNat % 16 ≤ 13 ∧ (6 : Word).toNat % 16 < 7 ∧ 13 < (14 : Word).toNat % 16) &&
    (State.reset.modDev fun d => { d with ready := true, links := [(3, { up := true })] }).dev.flush &&
    ((State.reset.modDev fun d => { d with ready := true, links := [(3, { up := true })] }).link 3).up && !up.dev.flush) = true := by decide

/-- An operation of ring 0. -/
def op (w : Work) : Op := { id := 3, strand := 1, mask := 0, excl := false, snap := [], work := w, committed := true, ctx := 0 }

def withOp (o : Op) : State := busy.modSeqr 0 fun q => { q with ops := [o] }

def acc (n : Nat) (key : Nat) (h : Home) : Acc := { space := .g, va := 0, key := key, n := n, home := h }

theorem witness_OperationsPerform : (
  let ready (w : Work) (a : Acc) : Bool :=
    let s := withOp (op w)
    s.op? 0 3 == some (op w) && (op w).snap.isEmpty && (op w).stage == .queued && ((op w).mode != some true || (op w).mask == 0) && (w.remote? 0).isNone && decide (a.key + a.n ≤ 2 ^ 53) &&
      !s.poisoned a.key a.n && !(s.ring 0).errInject.getLsbD 63 && (match a.home with | .die d => s.dev.live.getLsbD d && !(s.die d).hold | _ => true)
  let has (o : Op) : Bool := (withOp o).op? 0 3 == some o
  let l := acc 64 0 (.die 0)
  let st := acc 64 (2 ^ 53 - 64) .slice
  let a (k : AtomKind) := acc k.bytes 8 .pool
  let far : Op := op (.store (acc 8 homeSize (.die 1)) 1 0xFFFF)
  let sent (o : Nat) : PipeWrite := { window := 0, ring := 0, ctx := 0, who := .sequencer, op := o, msg := .write [(homeSize, 1)] }
  let out (o : Op) (l : List PipeWrite) (f : Bool) : State := ((withOp o).setPipe { path := path01, writes := l }).modDev fun d => { d with flush := f }
  let late : Op := { op (.load l 0 .null) with snap := [2] }
  let round : Op := { op (.load l 0 .null) with mask := 1, mode := some true }
  let gone : Op := { far with stage := .piped 0 }
  let flushing : Op := { round with stage := .flushing }
  let acks : State := (withOp far).modDev fun d => { d with acks := [(0, .shuttle 3, 9)] }
  ready (.load l 0 .null) l && l.home != .pool && ready (.store st 1 0xFFFF) st && decide (st.n ≤ 64) && ready (.atomic .cas (a .cas) 1 2) (a .cas) && ready (.atomic .fadd (a .fadd) 1 2) (a .fadd) &&
    has (op (.kread 63 0 .null)) && has late && !late.snap.isEmpty && late.work.acc? == some l && late.stage == .queued && has round && round.mode == some true && round.mask != 0 &&
    (withOp far).op? 0 3 == some far && far.work.remote? 0 == some 1 && far.msg.isSome && far.mode != some true &&
    !((withOp far).pipe path01).lost && (withOp far).dev.modeNext.isNone && (withOp far).dev.live.getLsbD 1 &&
    (let o : Op := { far with snap := [2] }
     let s := out o [sent 2] false
     s.op? 0 3 == some o && !s.dev.flush && (s.pipe path01).writes.any fun w => w.writeOf 0 2) &&
    (out gone [sent 3] true).op? 0 3 == some gone && (out gone [sent 3] true).dev.flush && ((out gone [sent 3] true).pipe path01).writes.find? (·.writeOf 0 3) == some (sent 3) &&
    !(out gone [sent 3] false).dev.flush && has flushing && (withOp flushing).dev.acks.isEmpty && !(withOp flushing).markersOut 0 3 &&
    (out flushing [{ sent 3 with msg := .marker 0 3 }] true).markersOut 0 3 && has { op (.store st 1 1) with stage := .landed } &&
    acks.dev.acks.find? (fun x => x.1 == 0 && x.2.2 == 9) == some (0, .shuttle 3, 9) &&
    (let s : State := { withOp late with gt := 0x4000000 }
     decide (late.since + 2 ^ 24 ≤ s.counted 0) && !s.fabricMoves 0 late && (s.served 0).isSome && !(s.ctx late.ctx).halted) &&
    (let o := op (.ingr 15)
     let s := (withOp o).modCtx 0 fun x => { x with ingress := [(15, [7])] }
     s.op? 0 3 == some o && o.free && !s.ingrAhead 0 o 15 && (s.ctx 0).ingress.get [] 15 == [7] && !s.dev.capOn)) = true := by decide

/-! ### Capture, dispatch and the fabric -/

/-- A token record of a capture: the time, context and channel it arrived on, and its word (R85). -/
def tokenRecord (ch : BitVec 8) : Memory := [(2 ^ 51, 1), (2 ^ 51 + 4, 7), (2 ^ 51 + 16, ch), (2 ^ 51 + 24, 9)]

theorem witness_CaptureAndReplay : (
  let rep (base len : Word) (on : Bool) (pos : Nat) := up.modDev fun d => { d with repBase := base, repLen := len, repActive := on, repPos := pos }
  let may (s : State) := s.dev.ready && !s.dev.repActive && decide (hostBase ≤ s.dev.repBase.toNat ∧ s.dev.repBase.toNat < 2 ^ 52 ∧ s.dev.repBase.toNat % 64 = 0 ∧ s.dev.repLen.toNat % 64 = 0)
  let past := rep (BitVec.ofNat 64 (2 ^ 52 - 64)) 128 true 64
  let takes (m : Memory) (k : List Nat) (own : Bool) : Bool :=
    let s : State := { rep (BitVec.ofNat 64 hostBase) 64 true 0 with mem := m }
    let n := natLE (s.mem.bytes (s.dev.repBase.toNat + s.dev.repPos) 64)
    s.dev.repActive && decide (s.dev.repPos < s.dev.repLen.toNat) && decide (s.dev.repBase.toNat + s.dev.repPos + 64 ≤ 2 ^ 52) && s.dev.repLast.isNone &&
      k.contains (Machine.bitsOf n 0 8) && own == (Machine.bitsOf n 16 16 == s.dev.repCtx.val) && decide (((s.ctx s.dev.repCtx).ingress.get [] (Machine.bitsOf n 128 4)).length < 64)
  !up.dev.capOn && up.dev.ready && may (rep (BitVec.ofNat 64 hostBase) 0 false 0) && may (rep (BitVec.ofNat 64 (2 ^ 52 - 64)) 64 false 0) &&
    (rep 0 64 true 64).dev.repActive && decide ((rep 0 64 true 64).dev.repLen.toNat ≤ (rep 0 64 true 64).dev.repPos) &&
    !may (rep 0 0 false 0) && !may (rep (BitVec.ofNat 64 (2 ^ 52)) 0 false 0) && !may (rep (BitVec.ofNat 64 (hostBase + 32)) 0 false 0) && !may (rep (BitVec.ofNat 64 hostBase) 1 false 0) &&
    past.dev.repActive && decide (past.dev.repPos < past.dev.repLen.toNat) && decide (2 ^ 52 < past.dev.repBase.toNat + past.dev.repPos + 64) &&
    takes (tokenRecord 0) [1] true && takes (tokenRecord 15) [1] true && takes [(2 ^ 51, 2)] [2] true && takes [(2 ^ 51, 1), (2 ^ 51 + 2, 5)] [1] false && takes [] [0] true &&
    takes [(2 ^ 51, 3)] [3] true) = true := by decide

/-- A record's fields. -/
def fields : TaskRec :=
  { prio := 0, gang := false, pinned := false, migrate := false, span := 0, ring := 0, entry := 0, arg := 0, ibase := 0, icount := 1, yclass := 0, live := 0, succs := [], ins := [] }

def record : PendRec := { addr := 0x1000, queue := 0, index := 0, fields := fields, launch := 0 }

/-- Context 0 is enabled, may run on every ring and holds this record; ring 0 has its pool. -/
def opened (p : PendRec) : State :=
  (up.modCtx 0 fun x => { x with enable := true, rings := 0xFFFFFFFF, table := [p] }).modRing 0 fun x => { x with resident := some 0 }

def decl (bytes poff : Nat) : InDecl := { src := 0, bytes := bytes, poff := poff, indexed := false, keep := false }

/-- The opened device with a task staged on ring 0, and its die's translation of page 0. -/
def staged (g : Staged) : State :=
  ((opened record).modRing 0 fun x => { x with staged := some g }).modDie 0 fun x =>
    { x with tcache := [{ ctx := 0, page := 0, size := 16, base := 0, s := false, w := false, x := false }] }

theorem witness_Dispatching : (
  let launch (w : Word) (p : BitVec 32) (q : TaskQueue → TaskQueue := id) := (opened record).modCtx 0 fun x =>
    { x with ingress := [(0, [w])], tq := [(0, q { log2n := 4, prod := p, cons := 0xFFFFFFFF })] }
  let open' (s : State) := (s.ctx 0).enable && !(s.ctx 0).closing && !(s.ctx 0).halted && !s.dev.capOn && (s.ctx 0).unread.isEmpty && ((s.ctx 0).ingress.get [] 0).length == 1
  let moves (s : State) (w : Word) : Bool :=
    let q := s.queue 0 0
    w.toNat / 2 ^ 32 % 2 ^ 31 == 0 && q.on && !q.owner && decide ((q.prod - q.cons).toNat < (w.setWidth 32 - q.cons).toNat ∧ (w.setWidth 32 - q.cons).toNat ≤ q.slots)
  let may (w : Word) (p : BitVec 32) : Bool := open' (launch w p) && moves (launch w p) w
  let bad (w : Word) (p : BitVec 32) (q : TaskQueue → TaskQueue := id) : Bool := open' (launch w p q) && !moves (launch w p q) w
  may 0 0xFFFFFFFF && may 15 14 && may 0x800000000000000F 0xFFFFFFFF && bad 0x100000000 0 && bad 0 0 && bad 16 0 && bad 1 0 (fun q => { q with owner := true }) &&
    bad 1 0 fun q => { q with log2n := 0 }) = true ∧ (
  let placed (p : PendRec) (d : DieId) (n : Nat) : Bool :=
    let s := (List.range 32).foldl (fun s r => s.modRing r fun x => { x with wasOpen := true }) (opened p)
    let s1 := ((List.finRange 64).foldl (fun s c => if s.dispatches c then s.settle c else s) ((dieRings d.val).foldl State.recall s)).lateGangs.passes d
    s.dev.live.getLsbD d && s.placeTurn d && (s1.cands d 0).length == n && (s1.cands d 1).isEmpty
  let soon : State := (opened record).modDie 0 fun x => { x with placedAt := some 0 }
  placed { record with ready := true, split := true, shares := [(7, [0])] } 7 1 && placed record 7 0 && !soon.placeTurn 0 && !(up.modDev fun d => { d with live := 1 }).dev.live.getLsbD 7) = true ∧ (
  let copies (s : State) (d : InDecl) : Bool :=
    match (s.ring 0).staged with
    | some g => g.task.ins[0]? == some (some d) && g.need.contains 0 && s.dispatches g.task.ctx && s.mayCopy 0 g d && (s.ring 0).resident == some g.task.ctx &&
        (s.ctx 0).table.find? (fun p => p.key == g.task.record) == some record
    | none => false
  let put (d : InDecl) : State := staged { task := { placedTask with record := record.key, ins := [some d] }, need := [0] }
  let keys (s : State) (d : InDecl) : Bool := decide (4096 * d.poff + d.bytes ≤ 2 ^ 24) &&
    match ((uncoreSectors (ringDie 0) 0 (s.ctx 0).priv (d.bytes / 64) d.src).go s).1 with
    | .ok keys => keys.length == d.bytes / 64 && (List.finRange 8).all fun h => !(s.die h).hold
    | .error _ => false
  let starts (tick : Option Word) (f : State → State) (p : State → Bool) : Bool :=
    let s := f (staged { task := placedTask, tick := tick })
    (match (s.ring 0).staged with | some g => g.tick == tick && !g.missed && s.mayStart 0 g && g.task.span == 0 && g.task.lead == 0 | none => false) && !s.dev.repActive && s.dev.repFixed.isEmpty && !s.dev.capOn && p s
  let late : State := { staged { task := { placedTask with record := record.key }, tick := some 5, missed := true } with gt := 5 }
  copies (put (decl 64 4095)) (decl 64 4095) && keys (put (decl 64 4095)) (decl 64 4095) && keys (put (decl 128 0)) (decl 128 0) &&
    (let d : InDecl := { decl 64 0 with src := 0x1FFFFFFFFFFFFC0 }
     copies (put { d with bytes := 128 }) { d with bytes := 128 } && !keys (put { d with bytes := 128 }) { d with bytes := 128 }) &&
    starts none id (fun _ => true) && starts none (fun s => s.modRing 0 fun x => { x with resident := none }) (fun s => (s.ring 0).resident != some 0) &&
    starts (some 5) (fun s => { s with gt := 5 }) (fun s => decide ((5 : Word).toNat ≤ s.gt.toNat)) && starts (some 5) (fun s => { s with gt := 4 }) (fun s => decide (s.gt.toNat < (5 : Word).toNat)) &&
    (match (late.ring 0).staged with | some g => g.tick == some 5 && g.missed && late.dispatches g.task.ctx && ((late.ctx 0).table.find? fun p => p.key == g.task.record) == some record | none => false)) = true ∧ (
  let done (k : List (BitVec 2 × Nat)) (l : List (Nat × Nat)) : Bool :=
    let p := { record with ready := true, done := [0], fields := { fields with succs := k }, left := l }
    let s := { (opened p).modCtx 0 (fun x => { x with tq := [(0, { log2n := 4 })] }) with mem := [(0xA0, 1)] }
    (s.ctx 0).table.find? (fun q => q.key == record.key) == some p && !p.retired && p.complete && !(s.ctx 0).closing && p.left.all (fun e => (s.op? e.1 e.2).isNone) &&
      k.all fun x => match s.recordKey ((s.queue 0 x.1.toNat).slotAddr x.2 + 0x20) with | some key => decide (key + 4 ≤ 2 ^ 53) && s.load key 4 != 0 | none => false
  let ages (p : PendRec) : Bool :=
    let s := { opened p with gt := 0x1AAAAB }
    (s.ctx 0).table.find? (fun q => q.key == record.key) == some p && p.ready && (!p.unsplit.isEmpty || p.shares.any fun e => !e.2.isEmpty) && decide (p.priority < 3) &&
      decide ((p.levels + 1) * 2 ^ 20 ≤ (s.gt.toNat - p.readyAt) * 3 / 5)
  let moves : Bool :=
    let g : Staged := { task := placedTask, migrate := true }
    let s := { (staged g).modRing 0 (fun x => { x with cur := some placedTask }) with gt := 6827 }
    (neighbours 0).find? (fun k => (s.ring k).free && s.open k && s.allowed g.task.ctx k) == some 1 && (s.ring 1).clearable g.task.ctx && !g.moved && !g.resumes && g.need.isEmpty &&
      decide (g.since + 4096 ≤ s.cycle 0) && !s.replays 0 && s.dispatches 0
  done [] [] && done [(0, 1)] [(0, 7)] && ages { record with ready := true, unsplit := [0] } && ages { record with ready := true, shares := [(7, [0])] } && moves) = true := by
  decide

/-- A fabric of one cell on ring 0, changed. -/
def patterned (f : Fabric → Fabric) : State := busy.modEng 0 fun e => { e with fabric := some (f (placedFabric (encode (.sink .always)) (.sink .always))) }

/-- What ring 0's fabric has. -/
def fab (s : State) (p : Fabric → Bool) : Bool := match s.liveFabric 0 with | some f => p f | none => false

/-- A fabric that holds no configuration and no token. -/
def bare (f : Fabric) : Fabric := { f with dirs := [], configs := [], cells := [] }

/-- A configuration whose channel 0 leads to slot l of its first word, channel 1 nowhere, and channel 2 to no inlet and unmasked. -/
def chans : Config := { portWord := 0x80000000, chans := [0x200000, 0, 0x1FF], header := 0, words := [encode (.sink .always)], pool := [] }

theorem witness_TokensMove : (
  let c (t : Tok) (l : Option SlotVal) (j : Nat) : State := patterned fun f =>
    { (bare f).place 0 j 0 chans with cells := [(cellNo 0 j, { edge := [.tok t], nodes := [(0, { l := l })] })] }
  let at' (s : State) (j : Nat) (p : Fabric → Config → Tok → Bool) : Bool := fab s fun f =>
    f.wraps.isEmpty && !(f.stripe 0).ended && (f.stripe 0).snapping.isNone &&
      match f.config 0 j, (f.cell 0 j).fifo .edge with | some cfg, .tok t :: _ => p f cfg t | _, _ => false
  let k (p : BitVec 3) (n : BitVec 5) : Tok := { data := 5, punct := p, chan := n }
  let enters (j : Nat) : Bool := at' (c (k 1 0) none j) j fun f cfg t => decide (t.punct.toNat ≤ f.hdr.d) && cfg.inlet t == some (.l, 0) && cfg.chans[t.chan.toNat]?.isSome &&
      ((Tab.get {} (f.cell 0 j).nodes 0 : Node).slot .l).isNone && (f.cell 0 j).winner cfg (.l, 0) (State.cycle (c (k 1 0) none j) 0) == some .edge
  let bypass : State := patterned fun f => { bare f with cells := [(0, { up := [.tok (k 1 0)] })] }
  let port (e : Entry) : State := (patterned fun f => (bare f).place 0 0 0 chans).modEng 0 fun x =>
    { x with inPorts := [(0, { op := 0, fifo := [e], cap := 4, branches := [{ ring := 0, col := 0 }] })] }
  let takes (e : Entry) : Bool := fab (port e) fun f =>
    match ((port e).ring 0).eng.inPorts.look 0 with
    | some o => !(port e).portDry 0 o && f.lead == 0 && f.op == o.op && o.branches == [{ ring := 0, col := 0 }] && o.fifo == [e] &&
        (match (port e).branchStripe o.vs { ring := 0, col := 0 } with | some (p, g) => (match g.config p 0 with | some cfg => edgeTakes (g.cell p 0) cfg e | none => false) | none => false)
    | none => false
  let run (full : Bool) (l : List Entry := [.boundary]) (period : Bool := false) : State := patterned fun f =>
    { bare f with scroll := true, hdr := { f.hdr with period := period }, passReg := if full then [(passKey (f.above 0) 31 3, k 0 0)] else [], cells := (List.range 32).map fun j => (cellNo 0 j, { up := l }) }
  let open' (f : Fabric) : Bool := f.wraps.isEmpty && f.scroll && (f.stripe 0).word.valid && !(f.stripe 0).ended
  let closes' (s : State) (m : Option Nat) : Bool := fab s fun f => open' f && (f.gates 0 true).all (fun g => runCloser ((f.cell 0 g.1).fifo g.2) == some m) && s.stripeIdle 0 0 f
  let stray (held : Bool) : State := patterned fun f =>
    let g := if held then (bare f).place 0 0 0 chans else bare f
    { g with cells := [(0, { up := [.marker 1] })] }
  enters 0 && enters 31 && (at' (c (k 0 0) (some { v := tok }) 0) 0 fun f cfg t => cfg.inlet t == some (.l, 0) && ((Tab.get {} (f.cell 0 0).nodes 0 : Node).slot .l).isSome) &&
    (at' (c (k 0 2) none 0) 0 fun _ cfg t => (cfg.inlet t).isNone && !cfg.masked t) && (at' (c (k 0 3) none 0) 0 fun _ cfg t => (cfg.inlet t).isNone && !cfg.masked t) &&
    (at' (c (k 2 0) none 0) 0 fun f _ t => decide (f.hdr.d < t.punct.toNat)) &&
    (fab bypass fun f => f.wraps.isEmpty && !(f.stripe 0).ended && (f.stripe 0).word.valid && (f.config 0 0).isNone && (f.cell 0 0).up.length == 1 && bypass.hasRoom (bypass.downDest 0 f 0 0)) &&
    takes (.tok (k 0 0)) && takes .boundary && closes' (run false) none && closes' (run true) none && (fab (run false) fun f => f.passReg.isEmpty) &&
    (fab (run true) fun f => (f.passReg.look (passKey (f.above 0) 31 3)).isSome) &&
    (fab (run false [.marker 1, .boundary]) fun f => open' f && f.strayMarker 0 (f.gates 0 true)) && closes' (run false [.marker 1, .boundary] true) (some 1) &&
    (fab (run false [.marker 1, .boundary] true) fun f => f.hdr.period && f.clauses.isEmpty && f.passReg.isEmpty && f.lead == 0) &&
    [true, false].all fun held => fab (stray held) fun f => f.wraps.isEmpty && !(f.stripe 0).ended && (f.stripe 0).snapping.isNone && !f.hdr.period && (f.cell 0 0).up == [.marker 1] &&
      (f.config 0 0).isSome == held && (f.stripe 0).word.valid) = true := by decide

/-- Configurations that keep registers. -/
def keeps : Config := { chans with header := 0x1000 }

/-- A segment of four virtual stripes, two of them resident. -/
def scrolled (stateful : List Nat) (x : Stripe) : State := patterned fun f =>
  (List.range 4).foldl (fun f v => f.place v 0 0 keeps)
    { bare f with scroll := true, p := 2, segCount := 4, hdr := { f.hdr with v := 4 }, stateful := stateful, stripes := [(0, x), (1, { a := 1 })] }

theorem witness_StripesAndWaves : (
  let recon (l : List Nat) (sh : Shadow) : Bool := fab (scrolled l { ended := true, shadow := sh }) fun f =>
    f.scroll && (f.stripe (f.oldest % f.p)).ended && f.shadowOk (f.oldest % f.p)
  let fill (c : Nat) (gt : Word) (p : Nat → Bool) : Bool :=
    let s := { scrolled [2] { shadow := .filling 2 c } with gt := gt }
    fab s (fun f => (f.stripe 0).shadow == .filling 2 c) && p (s.cycle 0)
  let drain (w : Option Nat) (gt : Word) (n : Nat) : Bool :=
    let s := { scrolled [2] { shadow := .draining 2 0 w } with gt := gt }
    fab s (fun f => (f.stripe 0).shadow == .draining 2 0 w) && decide (0 + n ≤ s.cycle 0)
  let mark (period : Bool) (v : StripeWord) (handled : Nat) (l : List Entry) (p : State → Fabric → Bool) : Bool :=
    let s := patterned fun f =>
      { bare f with hdr := { f.hdr with period := period }, cells := (List.range 32).map fun j => (j, { up := l }), markers := 3, stripes := [(0, { word := v, handled := handled })] }
    fab s fun f => !f.scroll && (f.stripe 0).word.valid && (f.stripe 0).snapping.isNone && f.lead == 0 && f.clauses.isEmpty && p s f
  let handles (w : Nat) (s : State) (f : Fabric) : Bool := !f.strayMarker 0 (f.markerGates 0) && s.stripeIdle 0 0 f && f.markerAt 0 == some w
  let snap : State := { patterned (fun f => { f with stripes := [(0, { word := { valid := true }, snapping := some (1, 0) })] }) with gt := 27 }
  let back : State := patterned fun f => { f with rollback := some { trigger := 0x0E, clause := 0 } }
  recon [] .free && recon [2] (.loaded 2) && recon [2, 3] (.loaded 2) &&
    (fab (scrolled [2] {}) fun f => f.scroll && decide (0 < f.p) && (f.stripe 0).shadow == .free && f.isStateful (f.vstripe (f.nextFor 0)) && decide (f.nextFor 0 < f.segCount)) &&
    fill 0 27 (fun n => decide (0 + 16 ≤ n)) && fill 1 27 (fun n => decide (n < 1 + 16)) && drain none 29 17 && drain (some 7) 56 33 &&
    mark true { valid := true, stateful := true } 0 [] (handles 1) && mark true { valid := true } 2 [] (handles 3) && mark false { valid := true } 0 [] (handles 1) &&
    mark true { valid := true, vstripe := 1 } 0 [.marker 1] (handles 1) && mark false { valid := true, vstripe := 1 } 0 [.marker 1] (fun _ f => f.strayMarker 0 (f.markerGates 0)) &&
    fab snap (fun f => (f.stripe 0).snapping == some (1, 0)) && decide (0 + 16 ≤ snap.cycle 0) &&
    back.running 0 == some placedTask && (match back.fabric 0 with | some f => f.rollback.isSome && f.lead == 0 && f.hdr.v == 1 | none => false) && back.fabricRings 0 == [0]) = true := by
  decide

/-- An outstanding fork of operation 3. -/
def forked : Fork :=
  { op := 3, h := 0, strand := 1, mask := 0, image := 0, hdr := { v := 1, q := 16, d := 1, runlvl := 0, period := false, nseg := 0, nclause := 0, wrap := 0, sect := 0 }, fabric := true,
    inWalkers := [], outWalkers := [], starts := 0, sides := [], buffers := [], errKnot := none, start := 0 }

/-- Ring 0 with a fork and its engines. -/
def running (f : Option Fabric) (k : Fork) (g : Engines → Engines := id) : State :=
  (withOp { op (.fork 0 0) with stage := .started }).modRing 0 fun x =>
    { x with eng := g { x.eng with fabric := f, forks := [k] }, seqr := { x.seqr with handles := [(0, .outstanding 3)] } }

def idleFabric : Fabric := { bare (placedFabric 0 (.sink .always)) with op := 3, stirred := 5 }

theorem witness_ForksBeginAndEnd : (
  let image (v : BitVec 8) : State :=
    { (withOp (op (.fork 0 0))).modRing 0 (fun x => { x with tlb := [{ ctx := 0, page := 0, size := 16, base := 0, s := false, w := false, x := false }] }) with
      mem := [(0, v), (1, 2), (4, 16), (16, 64)] }
  let ready (s : State) : Bool := s.running 0 == some placedTask && placedTask.lead == 0 && (match s.op? 0 3 with
    | some o => o.work == .fork 0 0 && o.free && !o.old
    | none => false)
  let held (s : State) (names : Bool × List PortBuf) : Bool := (s.ring 0).clashes names || s.forkAhead 0 0 3 names
  let unheld (s : State) : Bool := match ((readNames 0 0 0).go s).1 with | .ok names => !held s names | .error _ => true
  let loads (s : State) : Bool := good ((loadFork 0 0 3 0 (s.ring 0).seqr.poolPart (s.ring 0).stripes.toNat 0).go s).1
  let blocked (l : List Fork) (first : Bool) : State :=
    { ((image 1).modEng 0 fun e => { e with forks := l }).modSeqr 0 (fun q => { q with ops := if first then { op (.fork 1 0) with id := 2 } :: q.ops else q.ops }) with
      mem := [(0, 1), (1, 2), (4, 16), (16, 64), (64, 1)] }
  let waits (s : State) : Bool := ready s && match ((readNames 0 0 0).go s).1 with | .ok names => held s names | .error _ => false
  let isOver (s : State) (k : Fork) (p : State → Fabric → Bool) : Bool := fab s fun f =>
    (s.ring 0).eng.forks.find? (fun k => k.op == f.op) == some k && f.lead == 0 && p s f
  let still (gt : Word) : State := { running (some idleFabric) forked with gt := gt }
  let stalls (s : State) : Bool := ((s.ring 0).eng.forks.find? fun k => k.waved.isNone && !(s.ring 0).eng.forkOver k && s.forkMoved 0 k + 2 ^ 22 ≤ s.cycle 0) == some forked
  let token : Fabric := { idleFabric with cells := [(0, { up := [.tok {}] })] }
  let done : State := running none { forked with fabricDone := true }
  ready (image 1) && unheld (image 1) && loads (image 1) && ready (image 2) && unheld (image 2) && !loads (image 2) && waits (blocked [{ forked with op := 2 }] false) && waits (blocked [] true) &&
    isOver (running (some idleFabric) forked) forked (fun s f => s.fabricOver 0 f && s.fabricRings 0 == [0] && forked.waved.isNone) &&
    isOver (running (some token) forked) forked (fun s f => !s.fabricOver 0 f) && (still 6990516).running 0 == some placedTask && stalls (still 6990516) && !stalls (still 6990514) &&
    Tab.get .free (done.ring 0).seqr.handles 0 == Handle.outstanding 3 && (done.ring 0).eng.forks.find? (fun k => k.op == 3) == some { forked with fabricDone := true } &&
    (done.running 0).isSome && (done.op? 0 3).isSome && (done.ring 0).eng.inWalkers.isEmpty && (done.ring 0).eng.outWalkers.isEmpty) = true := by decide


/-- A walker over the pool with one point after another. -/
def walker (counts : List Nat) (n : Nat) (base : Word) (period : Nat) : Walker :=
  { op := 3, desc := 0, space := .p, scalearr := false, port := 7, counts := counts, strides := counts.map fun _ => 64, chan := 1, knot := none, base := base, scale := 0, period := period, n := n }

/-- Where an engine of ring 0 finds an address of context 0, if its checks pass. -/
def placed (s : State) (sp : Space) (va : Word) (u : Use) (p : State → Nat → Home → Bool) : Bool :=
  match s.engineAt 0 0 sp va u with | .place s1 key home => p s1 key home | _ => false

def caused (s : State) (sp : Space) (va : Word) (u : Use) : Bool := match s.engineAt 0 0 sp va u with | .cause _ _ => true | _ => false

/-- An engine of ring 0 can read `n` good bytes there. -/
def readable (s : State) (sp : Space) (va : Word) (n : Nat := 64) : Bool :=
  placed s sp va .read fun s1 key home => s1.reaches home true && !s.poisoned key n

/-- An engine of ring 0 can write there, in no slice that is locked. -/
def writable (s : State) (sp : Space) (va : Word) : Bool :=
  placed s sp va .write fun _ key home => (remoteDie 0 home).isNone && match sliceRing? key with | some q => (s.ring q).locks.isEmpty | none => true

def tk (p : BitVec 3) : Entry := .tok { data := 1, valid := 1, punct := p }

theorem witness_WalkersMove : (
  let inp (x : Walker) (l : List Entry) (f : State → State := id) : State := f (running none { forked with fabric := false, inWalkers := [7] } fun e =>
    { e with inWalkers := [(7, x)], inPorts := [(7, { op := 3, fifo := l, cap := 2 })] })
  let outp (x : Walker) (l : List Entry) : State := mapped (running none { forked with fabric := false, outWalkers := [7] } fun e =>
    { e with outWalkers := [(7, x)], outPorts := [(7, { op := 3, fifo := l, cap := 2 })] }) true
  let reads (x : Walker) (p : State → Bool) (f : State → State := id) : Bool :=
    let s := f (inp x [tk 0])
    s.running 0 == some placedTask && (s.ring 0).eng.inWalkers.look 7 == some x && s.walkersRun 0 x.op && x.port == 7 && !x.done && !x.stopped && decide (x.n < x.total) && !x.due &&
      (match (s.ring 0).eng.inPorts.look 7 with | some o => decide (tokens o.fifo < o.cap) && decide (o.first + 64 * o.cap ≤ 2 ^ 24) && (s.scrolling 0 o.op).isNone | none => false) &&
      !(s.ring 0).errInject.getLsbD 63 && p s
  let good' (x : Walker) (s : State) : Bool := readable s x.space (x.point x.n) && (!x.scalearr || readable s x.space (x.scaleAt x.n) 8)
  let writes (x : Walker) (l : List Entry) (p : State → Bool) : Bool :=
    let s := outp x l
    s.running 0 == some placedTask && (s.ring 0).eng.outWalkers.look 7 == some x && s.walkersRun 0 x.op && x.port == 7 && !x.scalearr && (s.edgeCells 0).isEmpty &&
      (match (s.ring 0).eng.outPorts.look 7 with | some o => o.fifo == l | none => false) && p s
  let overs (d : Dir) (x : Walker) : Bool :=
    let s := match d with | .inbound => inp x [] | .outbound => outp x []
    (s.ring 0).eng.walker d 7 == some x && !x.done && s.walkersRun 0 x.op && (s.ring 0).eng.walkerOver d x &&
      match x.knot with | some k => s.addTurn 0 k.toNat (Engine.rank (.walker d 7)) | none => true
  let due := walker [4] 2 0 2
  let marks (f : Option Fabric) : Bool :=
    let k : Fork := { forked with fabric := f.isSome, hdr := { forked.hdr with period := true } }
    let s := running f k fun e => { e with inWalkers := [(7, due)], inPorts := [(7, { op := 3, cap := 2 }), (1, { op := 3, cap := 2, shuttle := true })] }
    (s.ring 0).eng.forks == [k] && (s.ring 0).eng.inWalkers == [(7, due)] && due.op == k.op && due.port == 7 && ((s.ring 0).eng.inPorts.look 7).isSome && due.due && s.walkersRun 0 k.op &&
      (s.scrolling 0 k.op).isNone && !s.waveWaits 0 k.op && match s.fabric 0 with | some g => g.op == k.op && g.hdr.period | none => f.isNone
  let feed (l : List Entry) : State := running none { forked with fabric := false } fun e => { e with inPorts := [(7, { op := 3, fifo := l, cap := 2 })], outPorts := [(7, { op := 3, fifo := [tk 0], cap := 2 })] }
  let feeds (e : Entry) : Bool := match ((feed [e]).ring 0).eng.inPorts.look 7, ((feed [e]).ring 0).eng.outPorts.look 7 with
    | some i, some o => i.fifo == [e] && i.op == o.op && ((feed [e]).running 0).isSome && (((feed [e]).ring 0).eng.forks.any fun k => k.op == i.op && !k.fabric) && decide (tokens o.fifo < o.cap)
    | _, _ => false
  let out : Walker := walker [2] 1 0xFFFF80 0
  reads (walker [2, 2] 0 0 0) (good' (walker [2, 2] 0 0 0)) && reads (walker [2] 1 0xFFFF80 0) (good' (walker [2] 1 0xFFFF80 0)) &&
    (let x : Walker := { walker [2] 1 0 0 with space := .g, scalearr := true, scale := 0x80 }
     reads x (good' x) mapped) &&
    reads (walker [2] 1 0xFFFFC0 0) (fun s => caused s .p ((walker [2] 1 0xFFFFC0 0).point 1) .read && decide (2 ^ 24 ≤ ((walker [2] 1 0xFFFFC0 0).point 1).toNat)) &&
    marks none && marks (some { idleFabric with hdr := { idleFabric.hdr with period := true } }) &&
    writes out [tk 1] (fun s => decide (out.n < out.total) && nestPunct out.counts out.n == 1 && writable s out.space (out.point out.n)) &&
    (let x := { out with space := .g, base := 0 }
     writes x [tk 1] fun s => writable s x.space (x.point x.n)) &&
    writes (walker [2] 0 0 0) [tk 1] (fun _ => nestPunct [2] 0 != 1) && writes (walker [2] 2 0 0) [tk 0] (fun _ => decide ((walker [2] 2 0 0).total ≤ 2)) &&
    writes (walker [2] 0 0 0) [.marker 1, tk 0] (fun _ => true) &&
    overs .inbound (walker [2] 2 0 0) && overs .outbound (walker [2] 2 0 0) && overs .inbound { walker [2] 2 0 0 with knot := some 63 } && overs .outbound { walker [2] 2 0 0 with knot := some 0, error := true } &&
    feeds (tk 7) && feeds .boundary) = true := by decide

/-- The template page of context 0, and a copy of 64 bytes from pool address 0 to 64 as its first template (R212, R213). -/
def templated (w : Word) (kind : BitVec 8) : State :=
  { ((withOp (op (.aperture 0 w))).modRing 0 fun x =>
      { x with tlb := [{ ctx := 0, page := (templateVa 0).toNat / 2 ^ 16, size := 16, base := 0, s := false, w := false, x := false }] }) with
    mem := [(0, 1), (1, 5), (2, kind), (16, 1), (40, 1), (48, 64), (64, 64), (68, 1), (72, 1)] }

/-- Ring 0's channel 0 runs a chain. -/
def copying (c : Copy) : State := (templated 0 0).modChan 0 0 fun _ => { queue := [], run := some c }

/-- A chip number that is not this device's, whose number is below 8,192 (R229). -/
def far : BitVec 16 := 0xFFFF

theorem far_not_own : far ≠ ownChip := by
  intro h
  have h := congrArg BitVec.toNat h
  rw [show far.toNat = 0xFFFF from rfl, ownChip, BitVec.toNat_setWidth] at h
  have := Config.chip.isLt
  omega

theorem far_not_routed (s : State) (h : (s.routeOf far).isSome = false) : s.routed far = false := by
  simp [State.routed, far_not_own, h]

def started : Start := { op := some 3, fork := none, word := 0 }

/-- The copy that `templated` holds. -/
def copyCmd : Template :=
  match ((readTemplate 0 0 { start := started, template := 0 }).go (templated 0 0)).1 with | .ok t => t | .error _ => .parse 0

set_option exponentiation.threshold 1024 in
theorem witness_ShuttlesCopy : (
  let joins (n : Nat) : Bool :=
    let s := (templated 0 0).modChan 0 0 fun c => { c with queue := List.replicate n started }
    (match s.op? 0 3 with | some o => o.work == .aperture 0 0 && o.free | none => false) && (s.served 0).isSome && decide (((s.ring 0).chan 0).queue.length < 8)
  let listed : Bool :=
    let s := running none { forked with starts := 1, waiting := [(0, 5)] }
    (match s.op? 0 3 with | some o => o.work == .fork 0 0 | none => false) && (s.served 0).isSome &&
      match (s.ring 0).eng.forks.find? (fun k => k.op == 3) with | some k => k.waiting.find? (fun x => ((s.ring 0).chan x.1.val).queue.length < 8) == some (0, 5) | none => false
  let read (kind : BitVec 8) (mid : Bool) : Option Bool :=
    let run : Copy := { start := started, template := 0 }
    let s := (templated 0 kind).modChan 0 0 fun c => if mid then { c with run := some run } else { c with queue := [started] }
    if (if mid then ((s.ring 0).chan 0).run == some run && run.cmd.isNone && !run.finished else ((s.ring 0).chan 0).run.isNone && ((s.ring 0).chan 0).queue == [started]) && s.served 0 == some 0 then
      some (good ((readTemplate 0 0 run).go s).1)
    else none
  joins 0 && joins 7 && listed && read 0 false == some true && read 0 true == some true && read 5 false == some false && read 5 true == some false) = true ∧ (
  let at' (t : Template → Template) (f : State → State) (p : State → Template → Bool) : Bool :=
    let c : Copy := { start := started, template := 0, cmd := some (t copyCmd) }
    let s := f (copying c)
    s.served 0 == some 0 && ((s.ring 0).chan 0).run == some c && decide (c.beat < (t copyCmd).beats) && !startOsrc c.start.word && !startOdst c.start.word && !(s.ring 0).errInject.getLsbD 63 && p s (t copyCmd)
  let moves (src dst : Word) (k : BitVec 8) : Bool := at' (fun t => { t with kind := k, src := { t.src with addr := src }, dst := { t.dst with addr := dst } }) id fun s t =>
    decide (t.kind.toNat < 4 ∧ t.dst.type.toNat < 3 ∧ t.src.type.toNat < 3) && writable s (endSpace t.dst.type) (t.dst.beatAt t 0 0) && readable s (endSpace t.src.type) (t.src.beatAt t 0 0) &&
      !s.poisoned (poolKey 0 (t.dst.beatAt t 0 0).toNat) 64
  let port (l : List Entry) (s : State) : State := s.modEng 0 fun e => { e with inPorts := [(7, { op := 3, fifo := l, cap := 1, shuttle := true })] }
  let toPort (t : Template) : Template := { t with dst := { t.dst with type := 3, addr := 7 } }
  moves 0 64 0 && moves 0xFFFFC0 0 1 && moves 64 0xFFFFC0 2 && moves 0 64 3 &&
    at' toPort (port []) (fun s t => t.dst.type == 3 && t.kind == 0 && decide (t.src.type.toNat < 3) && readable s (endSpace t.src.type) (t.src.beatAt t 0 0) &&
      match (s.ring 0).eng.inPorts.look t.dst.port with | some o => decide (tokens o.fifo < o.cap) && (s.scrolling 0 o.op).isNone | none => false) &&
    at' toPort (port [tk 0]) (fun s t => t.dst.type == 3 && match (s.ring 0).eng.inPorts.look t.dst.port with | some o => decide (o.cap ≤ tokens o.fifo) | none => false) &&
    at' (fun t => { t with dst := { t.dst with type := 4, chip := far } }) id (fun s t => t.dst.type == 4 && !s.draining && t.dst.chip == far && !(s.routeOf far).isSome) &&
    at' (fun t => { t with dst := { t.dst with type := 1, addr := 2 ^ 24 } }) id (fun s t => decide (t.dst.type.toNat < 3) && caused s (endSpace t.dst.type) (t.dst.beatAt t 0 0) .write)) = true ∧ (
  let isOver (t : Template → Template) (p : Template → State → Bool) : Bool :=
    let c : Copy := { start := started, template := 0, cmd := some (t copyCmd), beat := 1 }
    (copying c).served 0 == some 0 && ((copying c).ring 0).chan 0 == { queue := [], run := some c } && decide ((t copyCmd).beats ≤ c.beat) && c.inFlight == 0 && !c.finished && p (t copyCmd) (copying c)
  let fin (f : Copy → Copy) (p : Copy → Bool) : Bool :=
    let c := f { start := started, template := 0, finished := true }
    let s := copying c
    s.served 0 == some 0 && (s.ring 0).chan 0 == { queue := [], run := some c } && c.finished && c.inFlight == 0 && c.chainKnot.all (s.copyTurn 0 0 ·) && p c
  isOver id (fun t _ => !t.knotv) && isOver (fun t => { t with kind := 3, expect := 1 }) (fun t _ => !t.knotv) && isOver (fun t => { t with chain := true, next := 4095 }) (fun t _ => t.chain) &&
    isOver (fun t => { t with knotv := true, knot := 63 }) (fun t _ => t.knotv && !t.bytecnt) &&
    isOver (fun t => { t with knotv := true, bytecnt := true, knot := 63 }) (fun t s => t.knotv && t.bytecnt && s.copyTurn 0 0 t.knot) &&
    fin id (fun c => c.start.op.isSome && c.chainKnot.isEmpty && c.error.isNone) &&
    fin (fun c => { c with start := { started with op := none, fork := some 3 }, chainKnot := [63], error := some 0x27 }) (fun c => c.start.op.isNone && c.start.fork.isSome && c.error.isSome) &&
    fin (fun c => { c with error := some 0x27, knot := some 5 }) (fun c => c.chainKnot.isEmpty && c.error.isSome && c.knot == some 5) &&
    fin (fun c => { c with chainKnot := [63] }) (fun c => c.chainKnot == [63] && c.error.isNone) &&
    fin (fun c => { c with error := some 0x27 }) (fun c => c.error == some 0x27 && c.chainKnot.isEmpty && c.knot.isNone)) = true := by decide

/-! ### Eyelets and saves -/

/-- Ring 0 of context 0 with zone 15 of two slots of 4 KiB at page 8, and slot k of it in this state. -/
def zoned (k : Nat) (e : EyeSlot) (f : Ring → Ring := id) : State :=
  busy.modRing 0 fun x => f { x with resident := some 0, entered := true, zones := [(15, { owner := some 0, nslot := 1, tout := 4, base := 8, key := 9, slots := [(k, e)] })] }

/-- A task of context 0 whose save is kept at 0x10000. -/
def kept (t : Task) : Saved :=
  { task := t, buffer := 0x10000, stripes := 16, engines := [], ops := [], pending := [], owed := [], handles := [], zones := [], pools := [], stepDue := false, ending := false, priv := false, forced := false, since := 0, counted := 0, took := 0 }

/-- What another chip sends to zone 15. -/
def farReq (key : BitVec 16) : ResvReq := { chip := far, ring := 0, op := 0, zone := 15, key := key }

def farBeat (off : Nat) : EyeBeat := { chip := far, ring := 0, chan := 0, zone := 15, slot := 1, gen := 0xFFFF, offset := off, data := 0, check := false, reduce := none, bad := false }

def farVerdict (g : Bool) : EyeVerdict := { chip := far, ring := 0, chan := 0, zone := 15, slot := 1, gen := 0xFFFF, good := g }

/-- The three messages wait at ring 0 before everything else. -/
def waiting (m : Msg) (s : State) : State := s.modDev fun d => { d with arrived := [m] }

theorem witness_EyeletArrivals : (far ≠ ownChip ∧ resvChip 0xFFFF ≠ ownChip) ∧ (
  let st (s : State) (k : Standing) : Bool := (s.ring 0).standing 15 == k
  let z (s : State) : Zone := (s.ring 0).zone 15
  let full : EyeSlot := { state := .full }
  let one' : State := zoned 0 full
  let none' : State := one'.modZone 0 15 fun z => z.setSlot 1 full
  let away : State := zoned 0 {} fun x => { x with resident := none }
  let dead : State := (zoned 0 {}).modDev fun d => { d with live := 0xFE }
  let saved : State := zoned 0 {} fun x => { x with saved := [kept placedTask], retries := [.request 0 (farReq 9), .beat 0 (farBeat 0), .verdict 0 (farVerdict true)] }
  let comes (m : Msg) : Bool := (waiting m one').dev.arrived == [m] && (one'.modDev fun d => { d with flush := true }).dev.flush && !one'.dev.flush && !one'.dev.arrived.contains m &&
    !(one'.pipe { src := .chip far, dst := .die 0 }).lost
  let wait (ret : Option (BitVec 6)) : State := (withOp { op (.resv 0xFFFF 9) with stage := .sent, ret := ret }).modDev fun d => { d with answers := [(0, 3, 0x400000)] }
  comes (.request 0 (farReq 9)) && comes (.beat 0 (farBeat 0)) && comes (.verdict 0 (farVerdict false)) && !one'.draining && one'.zoneTurn 0 15 &&
    st (zoned 0 {}) .live && (zoned 0 {}).dev.live.getLsbD (ringDie 0) && (z one').key != (farReq 8).key && (z one').key == (farReq 9).key && (z one').freeSlot == some 1 && (z none').freeSlot.isNone &&
    st saved .saved && st away .absent && st busy .none && !dead.dev.live.getLsbD (ringDie 0) && (saved.ring 0).retries == [.request 0 (farReq 9), .beat 0 (farBeat 0), .verdict 0 (farVerdict true)] &&
    ((wait none).op? 0 3).isSome && ((wait (some 5)).op? 0 3).isSome && (wait none).dev.answers == [(0, 3, 0x400000)] && (0x400000 : Word).getLsbD 22 &&
    !(0 : Word).getLsbD 22 && ((wait none).modDev fun d => { d with flush := true, answers := [] }).dev.flush) = true ∧ (
  let z (s : State) : Zone := (s.ring 0).zone 15
  let held (a : Nat) (g : Bool) : State := zoned 1 { state := .reserved, holder := far, gen := 0xFFFF, arrived := a, good := g, awaits := g }
  let live (s : State) : Bool := (s.ring 0).standing 15 == .live && s.dev.live.getLsbD 0 && s.zoneTurn 0 15
  let accepts (a : Nat) (g : Bool) (off : Nat) : Bool := live (held a g) && !(z (held a g)).refuses 1 far 0xFFFF && Nat.ble (off + 64) (z (held a g)).slotBytes
  let later (a : Nat) (gt : Word) : State := { held a false with gt := gt }
  accepts 0 false 0 && accepts 4032 false 4032 && accepts 4032 true 0 && (z (held 0 false)).refuses 1 far 0 && (z (held 0 false)).refuses 2 far 0xFFFF &&
    Nat.blt (z (held 0 false)).slotBytes (4033 + 64) && ((z (held 4096 false)).slot 1).arrived == (z (held 4096 false)).slotBytes && live (held 4096 false) &&
    Nat.blt 1 (z (later 0 0)).count && (z (later 0 0)).tout == 4 && Nat.ble (State.cycle (later 0 27) 0) (0 + 2 ^ 4) && Nat.blt (0 + 2 ^ 4) (State.cycle (later 0 29) 0) &&
    !(later 0 29).beatWaits 0 15 && ((z (later 0 29)).slot 1).arrived == 0 && ((z (later 64 29)).slot 1).arrived != 0) = true :=
  ⟨⟨far_not_own, fun h => far_not_own ((by decide : resvChip 0xFFFF = far) ▸ h)⟩, by decide, by decide⟩

/-- The task whose live-range table stands at 0x100 of its context's first GiB, mapped onto die 0. -/
def liveTask : Task := { placedTask with live := 0x100 }

/-- The table has one entry: x1 is live, the record goes to 0x10000, and SAVE_BYTES has these four bytes (R144). -/
def tabled (b : List (BitVec 8)) (f : Ring → Ring) (w : Bool := true) : State :=
  let q : Seqr := { x := [(1, 7)], pc := 0x40 }
  { (busy.modRing 0 fun y => f { y with cur := some liveTask, resident := some 0, seqr := q, tlb := [{ ctx := 0, page := 0, size := 30, base := 0, s := false, w := w, x := false }] }) with
    gt := 27, mem := [(0x100, 1), (0x102, 1), (0x104, 5), (0x10A, 1), (0x110, 2)] ++ (cellsAt 0x148 b).filter fun c => c.2 != 0 }

/-- What the table holds, as ring 0 reads it in a state. -/
def table? (s : State) : Option Live := match ((readLive 0 liveTask 0).go s).1 with | .ok l => some l | .error _ => none

def lives (b : List (BitVec 8)) : Live := (table? (tabled b id)).getD { saveVa := 0, saveBytes := 0, xmask := 0, vmask := 0, kmask := 0, ranges := [] }

theorem witness_SavesAndRestores : (
  let b : List (BitVec 8) := [0xFF, 0xFF, 0x0F, 1]
  let closes' (start : Nat) (c : Ctx → Ctx) (p : State → Bool) : Bool :=
    let s := (tabled b fun x => { x with slice := { start := start, len := 16 } }).modCtx 1 c
    s.running 0 == some liveTask && liveTask.lead == 0 && !(s.ring 0).slice.req && Nat.ble ((s.ring 0).slice.start + (s.ring 0).slice.len) (s.cycle 0) && p s
  let waits (s : State) : Bool := s.waitsFor 0 1 && liveTask.rings.contains 0
  let none' (s : State) : Bool := (List.finRange 64).all fun c => !s.waitsFor 0 c
  let asked (b : List (BitVec 8)) : State := tabled b fun x => { x with slice := { req := true, remain := 0 } }
  let force (s : State) (p : Option Live → Bool) : Bool :=
    let s1 := (s.trapSeq 0 0x2E 0).modSeqr 0 fun q => { q.discard with yielded := none, live := none }
    s.running 0 == some liveTask && liveTask.span == 0 && (s.ring 0).slice.req && s.remain 0 == 0 && (s.fabric 0).isNone && p (table? s1)
  let yields (s0 : State) (l : Option Live) (p : Option Live → State → Bool) : Bool :=
    let s := s0.modSeqr 0 fun q => { q with yielded := some 0, live := l }
    s.running 0 == some liveTask && (s.ring 0).seqr.yielded == some 0 && (s.ring 0).slice.req && (s.ring 0).quiet && p (table? s) s
  let fits (c : Bool) (l : Option Live) (s : State) : Bool := match l with | some l => s.saveFits 0 0 false l == c | none => false
  let bad (b : List (BitVec 8)) : State := { asked b with mem := [] }
  closes' 0 (fun x => { x with enable := true, rings := 1, table := [{ record with ready := true, shares := [(0, [0])] }] }) waits && closes' 0 id none' &&
    force (asked [0, 0, 0x10, 1]) (fun l => l.map (·.saveBytes) == some 0x1100000) && force (asked b) (fun l => l.map (·.saveBytes) == some 0x10FFFFF) && force (bad b) (·.isNone) &&
    yields (asked [176, 0, 0, 0]) none (fits true) && yields (asked [175, 0, 0, 0]) none (fits false) && yields (bad b) none (fun l _ => l.isNone) &&
    yields (bad b) (some (lives [176, 0, 0, 0])) fun _ s => fits true (some (lives [176, 0, 0, 0])) s) = true := by decide

set_option exponentiation.threshold 1024 in
theorem witness_SavesAndRestores_record : (
  let b : List (BitVec 8) := [176, 0, 0, 0]
  let v : Saving := { forced := false, live := lives b, start := 0 }
  let s (w : Bool) := tabled b (fun x => { x with saving := some v }) w
  let rec0 := (s true).saveRecord 0 liveTask false (lives b)
  let writes (w : Bool) : Bool := (s w).saves 0 == some (liveTask, v) && liveTask.span == 0 &&
    w == good ((writeVirt 0 0 (((s w).saveRecord 0 liveTask v.forced v.live).length / 64 + 2) v.live.saveVa ((s w).saveRecord 0 liveTask v.forced v.live)).go (s w)).1
  let back (m : Memory) (k : Saved := kept liveTask) : State :=
    { ((tabled b fun x => { x with saved := [k], staged := some { task := liveTask, resumes := true } }).modRing 0 fun x => { x with cur := none, resident := none }).modCtx 0
        (fun x => { x with enable := true }) with mem := m }
  let may (s : State) : Bool := ((s.ring 0).saved.find? fun k => k.task == liveTask).isSome && (s.ring 0).staged == some { task := liveTask, resumes := true } && s.dispatches 0 && (s.ring 0).cur.isNone &&
    (s.ring 0).saving.isNone && s.mayRun 0 && (s.die (ringDie 0)).rst == .idle && (s.ring 0).clearable 0
  let reads (s : State) (k : Saved := kept liveTask) : Option (State × Nat × Placed) :=
    match (readRecord 0 k).go ((s.clearRing 0 0).modSeqr 0 fun q => { q with priv := k.priv }) with | (.ok x, s2) => some (s2, x) | _ => none
  let m := (cellsAt 0x10000 rec0).filter fun c => c.2 != 0
  let forks : Saved := { kept liveTask with ops := [{ op (.fork 0 0x200) with stage := .started }], engines := [(0, { forks := [{ forked with image := 0x200, waved := some 1 }] })] }
  writes true && writes false && may (back m) && (reads (back m)).isSome && (kept liveTask).engines.isEmpty && may (back []) && (reads (back [])).isNone && may (back m forks) &&
    (match reads (back m forks) forks with
      | some (s2, h, p) => let old : Engines := Tab.get {} forks.engines 0
        (((s2.placeTask 0 forks h p).startSlice 0 liveTask).reforkAll 0 liveTask old (old.forks.filter (·.waved.isSome))).2.isSome
      | none => false)) = true := by decide

/-! ### Recovery, power, links, bring-up and the host -/

/-- With the fuse at 0 every image may run (R69). -/
theorem any_image (s : State) (d : Nat) (h : s.dev.svnFuse = 0) : s.svnOk d = true := by simp [State.svnOk, h]

theorem witness_FaultsAndRecovery : (
  let stop (e : Cause) : StopRec := { engine := 0, cause := e, primary := true, retry := false, ring := 0, block := 0, va := 0, counters := 0, issued := [], done := [] }
  let halt (s : State) (f : Ctx → Ctx) : State := s.modCtx 0 fun x => f { x with halted := true, haltClass := .contained, rings := 0x80000000 }
  let marked (n : Nat) : State := halt (opened { record with ready := true, started := [0], reissues := [(0, n)] }) id |>.modRing 0 fun x => { x with cur := some placedTask, resident := some 0 }
  let recovers (n : Nat) (b : Bool) : Bool :=
    let s := marked n
    (s.ctx 0).halted && (s.ctx 0).haltClass == .contained && !(s.ctx 0).closing && ((s.reissueTasks 0 (s.tasksOf 0 ++ (s.savedLost 0).map (·.2.task))).ctx 0).exhausted == b && s.allowed 0 31 && s.dev.live.getLsbD (ringDie 31) && (s.ring 0).resident == some 0
  let stopped (l : List Cause) : Ctx := (halt up fun x => { x with stops := l.map stop }).ctx 0
  let rst (d : DieId) (k : RstState) : State := up.modDie d fun x => { x with rst := k }
  let idle (s : State) (d : DieId) : Bool := s.dev.ready && (s.die d).rst == .idle && (s.onDie d).isEmpty
  let touched (f : Ring → Ring) : State := (up.modCtx 63 fun x => { x with touched := 0x80 }).modRing 3 f
  let f := patterned id
  let engines : State := (running (some idleFabric) forked fun e =>
    { e with inWalkers := [(7, walker [1] 0 0 0)], outWalkers := [(0, walker [1] 0 0 0)] }).modChan 0 15 fun _ => { run := some { start := started, template := 1 } }
  let found (e : Engine) : Bool := ((engines.ring 0).engines.find? fun k => k.1 == e).isSome
  up.dev.live.getLsbD 0 && (touched id).touchers 7 == [63] && f.running 0 == some placedTask && (f.fabric 0).isSome && engines.running 0 == some placedTask && found .sequencer && found .fabric &&
    found (.walker .inbound 7) && found (.walker .outbound 0) && found (.shuttle 15) && recovers 0 false && recovers 1 false && recovers 2 true &&
    (stopped [0, 0x09, 0x34]).halted && ((stopped [0, 0x09, 0x34]).stops.all fun k => k.cause == 0 || k.cause == 0x09 || causeClass k.cause == .info) && !(up.ctx 0).halted &&
    ((stopped [0x0E]).stops.any fun k => !resumable k.cause) && (up.gangIds 0).isEmpty &&
    ((up.modRing 0 fun x => { x with cur := some { placedTask with gangId := 9 } }).gangIds 0).contains 9 &&
    idle up 0 && idle (touched id) 7 && !(touched id).resides 63 && idle (touched fun x => { x with resident := some 63 }) 7 && (touched fun x => { x with resident := some 63 }).resides 63 && !(busy.onDie 0).isEmpty &&
    (dieRings 0).all (fun r => (up.ring r).heldSlice.isEmpty) &&
    ((rst 0 .core).die 0).rst == .core && ((rst 7 .uncore).die 7).rst == .uncore && sectorDie 0 == some 0 && sectorDie (8 * homeSize / 64 - 1) == some 7) = true ∧
    (up.modDie 7 fun x => { x with rst := .uncore }).svnOk 7 = true := ⟨by decide, any_image _ _ rfl⟩

theorem witness_ContextsOpenAndClose : (
  let c (f : Ctx → Ctx) := (up.modCtx 0 f).ctx 0
  up.dev.ready && !up.hasTask 63 && busy.hasTask 0 && up.queueIdle 0 0 && up.queueIdle 63 3 && !(up.ctx 0).closing && (c fun x => { x with closing := true }).closing && !up.enqOut 0 && (c fun x => { x with enable := true }).enable &&
    ([0x20000, 0x100000, 0x10000, 0x110000] : List Word).map (fun v => decide (2 ≤ v.toNat / 2 ^ 16 % 32 ∧ v.toNat / 2 ^ 16 % 32 ≤ 16)) == [true, true, false, false]) = true := by decide

theorem witness_PowerAndHeat : (
  let r (f : Ring → Ring) : State := up.modRing 31 f
  let die (f : Die → Die) : State := up.modDie 7 f
  let duty (n : Nat) : State := { up.modDev (fun d => { d with ceilW := some 0 }) with rings := (List.range 32).map fun k => (k, { duty := n }) }
  let e := max 400 (min (match (duty 2).dev.ceilW with | some c => c.toNat | none => formWatts) formWatts)
  up.dev.ready && up.clocked 31 && !((r id).ring 31).busy && ((r fun x => { x with busy := true }).ring 31).busy && (r fun x => { x with busy := true }).clocked 31 && !(die fun x => { x with pwr := .parked }).clocked 31 &&
    (die fun x => { x with pwr := .parking }).clocked 31 && e == 400 &&
    Nat.ble (400 : BitVec 16).toNat e && Nat.blt e (401 : BitVec 16).toNat && ((duty 2).unparked.all fun k => ((duty 2).ring k).duty == 2) && ((duty 3).unparked.any fun k => ((duty 3).ring k).duty != 2) &&
    !up.dev.throttling && ((up.modDev fun d => { d with throttling := true }).unparked.any fun k => (up.ring k).duty != 2) &&
    (let s (g : Word) : State := { up.modDev (fun d => { d with lowSince := some 5 }) with gt := g }
     (s 20004).dev.lowSince == some 5 && Nat.blt (s 20004).gt.toNat (5 + 20000) && Nat.ble (5 + 20000) (s 20005).gt.toNat) &&
    (up.onDie 7).isEmpty && (up.heldBy 7).isEmpty && (busy.die 0).pwr == .running && !(busy.onDie 0).isEmpty && !((up.modRing 0 fun x => { x with resident := some 5 }).heldBy 0).isEmpty &&
    ((die fun x => { x with pwr := .parked }).die 7).pwr == .parked && ((die fun x => { x with pwr := .parking }).die 7).pwr == .parking &&
    ((die fun x => { x with pwr := .parking }).die 7).parkNext.isNone && ((die fun x => { x with pwr := .unparking }).die 7).pwr == .unparking && ((die fun x => { x with pwr := .unparking }).die 7).heldHost.isEmpty &&
    ((die fun x => { x with pwr := .unparking }).die 7).parkNext != some true &&
    [45, 104, 105, 0].length == 4 && Nat.blt 85 (86 : BitVec 8).toNat && !(up.die 0).refresh2x && Nat.blt (81 : BitVec 8).toNat 82 && ((die fun x => { x with refresh2x := true }).die 7).refresh2x &&
    up.dev.live.getLsbD 7 && !(up.die 7).tstop && Nat.ble 115 (115 : BitVec 8).toNat && Nat.ble 100 (100 : BitVec 8).toNat && Nat.blt (114 : BitVec 8).toNat 115 && Nat.blt (99 : BitVec 8).toNat 100 &&
    ((up.modCtx 0 fun x => { x with touched := 1 }).touchers 0) == [0]) = true := by decide

/-- A port that is up, trained to eight wavelengths from the first (R42). -/
def linked (f : Link → Link) : State := up.setLink 9 (f { up := true, width := 1, lambdaOk := 0xFFFF })

/-- Flits with their checks (R39). -/
def flit (seq : BitVec 12) (ty : FlitType := .data) : Flit :=
  let f : Flit := { type := ty, vc := 0, seq := seq, ack := 0, nak := false, window := 0, dest := 0, payload := [], crc := 0 }
  { f with crc := crc64 (flitBytes f) }

theorem witness_CircuitsAndPorts : (
  let conn (k : ConnState) : State := up.setConn 63 { state := k, src := 0, dst := 7 }
  let l := (linked id).link 9
  let carried : State := up.setPipe { path := path01, writes := [{ window := 0, ring := 0, ctx := 0, who := .sequencer, op := 0, msg := .marker 0 0, via := some 63 }] }
  let fenced (s : State) : State := s.modDev fun d => { d with fenced := 0x80 }
  let left (w : Nat) : Link := { l with lambdaOk := l.lambdaOk &&& ~~~(1#16 <<< w) }
  let last : State := linked fun x => { x with width := 3, group := 5 }
  up.dev.ready && ([.idle, .rejected, .fault] : List ConnState).all (fun k => ((conn k).conn 63).rests) && ([.up, .tuning, .draining] : List ConnState).all (fun k => !((conn k).conn 63).rests && ((conn k).conn 63).state == k) &&
    !(conn .tuning).endFenced 0 && !(conn .tuning).endFenced 7 && (fenced (conn .tuning)).endFenced 7 && up.dev.pipes.isEmpty && carried.dev.pipes.any (fun x => x.writes.any fun w => w.via == some 63) &&
    l.up && (l.failing 0).isEmpty && (l.count 0).worn.isEmpty && l.narrowing.isNone && l.waiting == 0 && ([flit 0, flit 0xFFF] : List Flit).all (fun f => crc64 (flitBytes f) == f.crc && f.type != .idle && f.type != .seal) &&
    (flit 0).seq == l.recvSeq && (flit 0xFFF).seq != l.recvSeq && crc64 (flitBytes { flit 0 with crc := 1 }) != 1 &&
    Nat.ble l.group 0 && Nat.ble l.group 7 && Nat.blt 7 (l.group + widthOf l.width) && (left 0).narrower.isSome && (left 7).narrower.isSome && !l.lost &&
    Nat.ble (last.link 9).group 5 && Nat.blt 5 ((last.link 9).group + widthOf (last.link 9).width) &&
    ({ last.link 9 with lambdaOk := (last.link 9).lambdaOk &&& ~~~(1#16 <<< 5) } : Link).narrower.isNone && (last.link 9).up && !(last.link 9).lost &&
    ((linked fun x => { x with narrowing := some (1, 8) }).link 9).narrowing == some (1, 8) && !up.dev.lostPorts.contains (0xFFFF, 9) && up.dev.arrived.isEmpty &&
    (up.modDev fun d => { d with lostPorts := [(0xFFFF, 9)] }).dev.lostPorts.contains (0xFFFF, 9)) = true := by
  decide

theorem witness_GroundTime : (
  let s : State := { linked (fun x => { x with syncSeq := 7, syncAt := 90, linkDelay := 3, pdelaySeq := 8 }) with gt := 100 }
  let t (o k : Word) : Word := o + k + (s.link 9).linkDelay + (s.gt - (s.link 9).syncAt)
  (s.link 9).syncSeq == 7 && (s.link 9).syncSeq != 8 && Nat.blt s.gt.toNat (t 80 8).toNat && Nat.ble (t 80 7).toNat s.gt.toNat && (s.link 9).pdelaySeq == 8 && (10 : BitVec 4) != 0 && (10 : BitVec 4) == s.dev.window && !s.dev.flush &&
    (up.modDev fun d => { d with flush := true }).dev.flush && (11 : BitVec 4) != s.dev.window) = true := by decide

theorem witness_BringUp : (
  let ph (n : BitVec 3) : State := (State.reset.modDev fun d => { d with phase := n }).modDie 7 fun x => { x with firmwareOk := true }
  ([1, 2, 3, 4, 5, 6] : List (BitVec 3)).all (fun n => !(ph n).dev.ready && !(ph n).dev.bootFail && (ph n).dev.phase == n) && (0x80 : BitVec 8).getLsbD 7 && ((ph 2).die 7).firmwareOk && !(ph 2).dev.fenced.getLsbD 7 &&
    (List.finRange 8).all fun d => !(0 : BitVec 8).getLsbD d) = true ∧ (State.reset.modDev fun d => { d with phase := 1 }).svnOk 7 = true := ⟨by decide, any_image _ _ rfl⟩

theorem witness_HostSide : (
  let c (n : Nat) : State := up.modCtx 63 fun x => { x with enable := true, ingress := [(15, List.replicate n 0)] }
  let rep (on : Bool) (k : CtxId) : State := (c 0).modDev fun d => { d with repActive := on, repCtx := k }
  let eq (p k : BitVec 32) (f : EgQueue → EgQueue) : State := up.modEgq .dev fun q => f { q with base := 0x8000000000000, log2n := 6, prod := p, cons := k }
  let line : Egr := { kind := 2, ctx := 0, a := 0, b := [] }
  ((c 63).ctx 63).enable && !(up.ctx 63).enable && ((c 63).ctx 63).ingress.get [] 15 == List.replicate 63 0 && (((c 64).ctx 63).ingress.get [] 15).length == 64 && !(rep false 63).dev.repActive && (rep true 0).dev.repCtx != 63 &&
    (rep true 63).dev.repActive && (rep true 63).dev.repCtx == 63 && Nat.ble 0x80 0xFFF && Nat.blt 0x7F 0x80 && 0x7F % 8 != 0 &&
    (([0, 0xBFFFFFFFF - 2 ^ 34] : List Nat).all fun b => (match up.locate b with | .ok (k, .die 0) => k == b | _ => false) && !up.poison.contains (sectorOf b)) && !(up.die 0).hold && up.dev.ready &&
    sliceRing? (sliceKey 31 0) == some 31 && up.dev.live.getLsbD (ringDie 31) && up.clocked 31 && !(up.modDie 7 fun x => { x with pwr := .parked }).clocked 31 &&
    (let s := eq 3 0xFFFFFFFF id
     Nat.ble ((3 : BitVec 32) - (s.egq .dev).cons).toNat ((s.egq .dev).prod - (s.egq .dev).cons).toNat && Nat.blt ((s.egq .dev).prod - (s.egq .dev).cons).toNat ((4 : BitVec 32) - (s.egq .dev).cons).toNat) &&
    (let s := eq 0xFFFFFFFF 0xFFFFFFFF fun q => { q with lines := [(line, none)] }
     (s.egq .dev).lines == [(line, none)] && (s.egq .dev).usable) &&
    !up.dev.attBusy && (let a (d : Word) : State := up.modDev fun v => { v with attBusy := true, attDest := d }
     (a 0).dev.attBusy && Nat.blt (a 0).dev.attDest.toNat (2 ^ 51) && Nat.ble (2 ^ 51) (a 0xFFFFFFFFFF000).dev.attDest.toNat && Nat.ble ((a 0xFFFFFFFFFF000).dev.attDest.toNat + 4096) (2 ^ 52) &&
       Nat.blt (2 ^ 52) ((a 0xFFFFFFFFFF001).dev.attDest.toNat + 4096)) &&
    !(up.dev.keySlots.get {} 15 : KeySlot).valid && Nat.ble (0 : Word).toNat up.dev.svnFuse.toNat && (0x8000000000000000 : Word).getLsbD 63 && !(0 : Word).getLsbD 63 && !State.reset.dev.ready &&
    0x10004 % 8 != 0 && Nat.ble 0x61000 0x61000) = true := by decide

/-- The image of the running firmware is a free value (log 14): where it is above the fuse, the fuse may be raised to it. -/
theorem witness_HostSide_fuse (h : Config.imageSvn up.master ≠ 0) : up.dev.svnFuse.toNat < (Config.imageSvn up.master).toNat := by
  have : (Config.imageSvn up.master).toNat ≠ 0 := fun e => h (BitVec.eq_of_toNat_eq (by simpa using e))
  exact Nat.pos_of_ne_zero this

/-! ## Single steps

Each expected result stands in the spec: in a worked example or a table, at the rule that the comment cites. -/

/-- What stands in slot L of words 1 and 2 after word 0 has fired. -/
def heads (o : Out) : Option Val × Option Val :=
  match o with
  | .next u => (((u.node u.focus 1).l).map (·.v), ((u.node u.focus 2).l).map (·.v))
  | _ => (none, none)

/-- One word fires on the sequencer, with targets 1.l and 2.l. -/
def seqOut (l r p t : Option Val) (i : Target → Target → Instr) : Option Val × Option Val :=
  let i := i (.to .l 2) (.to .l 1)
  heads (exec i ((atSeq l r p t i).modSeqr 0 fun q => { q with blk := q.blk.map fun b => { b with words := b.words ++ [encode (.sink .always), encode (.sink .always)] } }))

/-- One word fires in a cell, changed beforehand, with the same targets. -/
def cellOut (l r p t : Option Val) (i : Target → Target → Instr) (f : Cell → Cell := id) : Option Val × Option Val :=
  let i := i (.to .l 2) (.to .l 1)
  let sink := encode (.sink .always)
  heads (exec i (((atCell l r p t i).modFabric 0 fun g => { g with configs := [(0, [(0, { portWord := 0, chans := [], header := 0, words := [encode i, sink, sink], pool := [1] })])] }).modCell 0 0 0 f))

/-- A token of these lanes, and zero in the others. -/
def lanes (l : List W32) (valid : BitVec 16) (tag : Option Tag := none) (side : Word := 0) : Option Val :=
  some (.tok { data := lanesOf fun i => l.getD i 0, valid := valid, tag := tag, side := side })

def lane? (v : Option Val) (i : Nat) : Option W32 := match v with | some (.tok t) => if t.ok i then some (t.lane i) else none | _ => none

/-- R343's table: what CVTFI delivers, with 1 for overflow and 2 for NaN. -/
theorem test_cvtfi : ([(.rne, .f32, 0x40200000, 2, 0), (.rne, .f32, 0x40600000, 4, 0), (.rz, .f32, 0xC02CCCCD, 0xFFFFFFFE, 0), (.rne, .f32, 0x4F32D05E, 0x7FFFFFFF, 1), (.rne, .f32, 0x7FC00000, 0, 2)] :
    List (Round4 × FWidth × Word × Word × Word)).all (fun x => seqOut (sc x.2.2.1) none none none (.cvtfi .always x.1 x.2.1) == (sc x.2.2.2.1, sc x.2.2.2.2)) = true := by decide

theorem test_cvtif : seqOut (sc 16777217) none none none (.cvtif .always false .f32) = (sc 0x4B800000, sc 0) ∧ seqOut (sc 0xFFFF) none none none (.cvtif .always true .f16) = (sc 0x7BFF, sc 1) := by
  decide

/-- The conversion to E4M3 worked out under R340. -/
theorem test_cvt_e4m3 :
    let o := cellOut (lanes [0x3F800000, 0x43FA0000, 0x7FC00000, 0x3A800000] 0xFFFF) none none none (.cvt .always .e4m3)
    lane? o.1 0 = some 0x007F7E38 ∧ lane? o.1 15 = some 0 ∧ lane? o.2 0 = some 1 ∧ lane? o.2 1 = some 1 ∧ lane? o.2 2 = none := by decide

/-- The dequantised block worked out under R260 and R340. -/
theorem test_cvt_dequantises :
    let tag : Tag := { fmt := 5, bscale := true, spare := true, flush := false, tscale := 2 }
    let o := cellOut (lanes [0x00001B87] 0xFFFF (some tag) 0x4A7E) none none (lanes [1] 0xFFFF) (.cvtT .always) fun c => { c with g := [(2, 0x40000000)] }
    lane? o.1 0 = some 0x40A040C0 ∧ lane? o.1 1 = some 0x3F00BFC0 ∧ lane? o.1 2 = some 0 := by decide

/-- The stochastic rounding worked out under R264: 1 + 2^-9 rounds up from state 1, and 1.5 stays. -/
theorem test_cvt_stochastic : lane? (cellOut (lanes [0x3F804000, 0x3FC00000] 0xFFFF) none none (lanes [0x41] 0xFFFF) (.cvtT .always)).1 0 = some 0x3FC03F81 := by decide

/-- The block quantised under R345. -/
theorem test_qblk :
    let o := cellOut (lanes [0x415041A0, 0x3F80C020] 0xFFFF (some { fmt := 1, bscale := false, spare := false, flush := false, tscale := 0 })) none none none (.qblk .always (.e2m1 true 0))
    lane? o.1 0 = some 0x958 ∧ lane? o.1 3 = some 0 ∧ lane? o.1 4 = none ∧ (match o.1 with | some (.tok t) => t.side.extractLsb' 0 16 == 0x4A81 | _ => false) = true ∧ lane? o.2 0 = some 0 := by decide

/-- The sums worked out under R270. -/
theorem test_redadd_scanadd :
    let t := lanes [0x4B800000, 0x3F800000, 0x3F800000, 0xCB800000] 0xF
    lane? (cellOut t none none none (.redadd .always (.flt .f32))).1 0 = some 0x3F800000 ∧ lane? (cellOut t none none none (.scanadd .always (.flt .f32))).1 3 = some 0 := by decide

/-- The matrix step worked out under R270: 1.0 + 4,096 * 4,096 - 4,096 * 4,096 is 1.0. -/
theorem test_mma_is_exact :
    let s := (atCell (lanes ((List.range 16).map fun _ => 0x45804580) 0xFFFF) (lanes ((List.range 16).map fun i => if i < 8 then 0x45804580 else 0xC580C580) 0xFFFF) none none (.mma .always .bf16 .null .null)).modCell 0 0 0
      fun c => { c with acc := [(0, 0x3F800000)] }
    (match exec (.mma .always .bf16 .null .null) s with | .next u => Tab.get 0 (cell0 u).acc 0 == 0x3F800000 | _ => false) = true := by decide

/-- R317: sums wrap in 64 bits on the sequencer, with a signed immediate. -/
theorem test_add : seqOut (sc 0xFFFFFFFFFFFFFFFF) (sc 2) none none (.add .always .wrap .i64) = (sc 1, sc 1) ∧
    seqOut (sc 0xFFFFFFFFFFFFFFFF) none none none (fun _ t => .addi .always 0x1FFF t) = (sc 0xFFFFFFFFFFFFFFFE, none) := by decide

/-- The striped region over seven dies, worked out under R31. -/
theorem test_striped_region :
    let s := up.modDev fun d => { d with live := 0xDF, fenced := 0x20, striped := [0, 1, 2, 3, 4, 6, 7] }
    (match s.locate (stripedBase + 0x5ABC) with | .ok (k, .die 6) => k == 0x5000000ABC | _ => false) = true ∧ (match s.locate (stripedBase + 0x15123) with | .ok (k, .die 0) => k == 0x800003123 | _ => false) = true := by decide

/-- THERM_ALLOW as worked out under R65. -/
theorem test_therm_allow : (([(80, 127, 148), (87, 68, 148)] : List (BitVec 8 × BitVec 8 × BitVec 8)).all fun x =>
    match exec (.thermAllowUpdate 0 [70, 70, 70, 70] 70 x.1) up with | .next u => Tab.get 0 (u.die 0).allow 0 == x.2.1 && Tab.get 0 (u.die 0).allow 3 == x.2.2 | _ => false) = true := by decide

/-- The walk worked out under R113. -/
theorem test_walk :
    let s : State := { busy.modCtx 0 (fun x => { x with ptbase := 0x10000000 }) with
      mem := ([(0x10000008, 0x10001001), (0x10001010, 0x10002001), (0x10002018, 0x10003001), (0x10003020, 0x4800200007)] : List (Nat × Nat)).flatMap fun e => (cellsAt e.1 (bytesLE 8 e.2)).filter fun c => c.2 != 0 }
    (match (s.walk 0 0 0x10100C0812345).res with
      | .ok t => (match s.through t false .read 0x10100C0812345 with | .ok (k, .die 6) => k == 0x4800212345 | _ => false)
      | .error _ => false) = true := by decide

/-- The slice of a context whose save and restore take 43,500 cycles, worked out under R153. -/
theorem test_slice_raised :
    let s (w : BitVec 8) := (busy.modRing 0 fun x => { x with srCycles := [(0, 43500)] }).sliceLen 0 { placedTask with weight := w }
    s 1 = (87000, true) ∧ s 2 = (131072, false) := by decide

/-- A steered token leaves by one target alone (R305, R308). -/
theorem test_steer : seqOut (sc 7) none (sc 1) none .steer = (sc 7, none) ∧ seqOut (sc 7) none (sc 0) none .steer = (none, sc 7) := by decide

/-- Division by zero is cause 0x37, and the block's address is FAULT_BLOCK (R318). -/
theorem test_divide_by_zero : (match exec (.divu .always true .null .null) (atSeq (sc 7) (sc 0) none none (.divu .always true .null .null)) with
    | .next u => (u.ctx 0).halted && (match (u.ctx 0).stops with | k :: _ => k.cause == 0x37 && k.block == 0x1000 | [] => false)
    | _ => false) = true := by decide

/-- A seed of zero loads 1 (R264). -/
theorem test_zero_seed : (([(0, 1), (0xFFFFFFFF, 0xFFFFFFFF)] : List (W32 × W32)).all fun x =>
    match exec (.srseed .always) (atCell (lanes [x.1] 1) none none none (.srseed .always)) with | .next u => (cell0 u).lfsr == x.2 | _ => false) = true := by decide

/-! ### More of the clauses' hypotheses -/

/-- A cell of two words, in focus at the second. -/
def cellTwo (x y : Instr) (n m : Node) (f : Cell → Cell := id) : State :=
  { ((cellWith tok x).modFabric 0 fun g =>
      { g with configs := [(0, [(0, { portWord := 0, chans := [], header := 0, words := [encode x, encode y], pool := [1] })])] }).modCell 0 0 0
        (fun c => f { c with nodes := [(0, n), (1, m)] }) with focusIdx := 1 }

/-- A block of two words of ring 0's sequencer, in focus at the first. -/
def seqTwo (x y : Instr) (n m : Node) : State :=
  (seqWith one x).modSeqr 0 fun q => { q with blk := q.blk.map fun b => { b with words := [encode x, encode y], nodes := [(0, n), (1, m)] } }

def filled (v : Val) : Node := { l := slot (some v), r := slot (some v), p := slot (some v), t := slot (some v) }

theorem witness_FiringRules_cells : (
  let to' : Instr := .mov .always (.to .l 1) .null
  let sink : Instr := .sink .always
  let target (m : Node) (p : Node → Bool) : Bool :=
    let s := seqTwo to' sink { l := slot (some one) } m
    let n := s.node s.focus 0
    !n.fired && !n.dead && (needs to' n).all n.has && s.mayFire s.focus 0 to' && s.issues s.focus 0 to' && p (s.node s.focus 1) && !(s.ring 0).seqr.reserved (.to .l 1)
  let alone (i : Instr) (v : Val) (k : Bool) : Bool :=
    let s := atCell (some tok) none (some v) none i
    let n := s.node s.focus 0
    (s.view s.focus).isSome && !n.fired && !n.dead && (needs i n).all (fun q => match n.slot q with | some x => decide (x.at' ≤ s.cycle 0) | none => false) && i.outs.all (· == .null) &&
      s.mayFire s.focus 0 i && s.issues s.focus 0 i && i.issueClass != .m && predOk i n == k && (match s.fabric 0 with | some f => (f.cell 0 0).opens i.issueClass (s.cycle 0) && (f.cell 0 0).mayOut i (s.cycle 0) | none => false)
  let lower : State := cellTwo sink sink (filled tok) (filled tok)
  let full : State := cellTwo sink sink {} (filled tok) fun c => { c with fires := { count := (List.range 9).map fun k => (k, 2) } }
  target {} (fun m => (m.slot .l).isNone) && target { fired := true } (·.fired) && target { dead := true } (·.dead) &&
    alone sink tok true && alone (.sink .ifTrue) one true && alone (.sink .ifTrue) zero false && alone (.sink .ifFalse) one false &&
    lower.canFire lower.focus 0 sink != .wait && (match lower.fabric 0 with | some f => (f.cell 0 0).mayOut sink (lower.cycle 0) && ((f.cell 0 0).since.look 1).isNone | none => false) &&
    (match full.fabric 0 with | some f => !(f.cell 0 0).opens sink.issueClass (full.cycle 0) | none => false)) = true := by decide

theorem witness_DeliveryFillsSlots_cells : (
  let has (n : Node) (i : Instr) (p : Node → Bool) : Bool :=
    let s := cellTwo i i {} n
    (s.fabric 0).isSome && p (s.node s.focus 1)
  (has { filled tok with p := slot (some one) } (.merge .null .null) fun n => (n.p.map (·.v.truth)) == some true && !n.pre) &&
    (has { filled tok with p := slot (some zero) } (.carry .null .null) fun n => (n.p.map (·.v.truth)) == some false && !n.pre) &&
    (has { filled tok with pre := true } (.carry .null .null) fun n => n.pre && n.p.isSome) &&
    (has { filled tok with l := some { v := tok, sticky := true } } (.invar .null .null) fun n => (n.l.map (·.sticky)) == some true) &&
    isSticky (.const 1 .null) && !isSticky (.sink .always)) = true := by decide

theorem witness_Arithmetic_limit : fp32.decode (fp32.signBit false + fp32.maxMag) = .fin false 0xFFFFFF 104 ∧ fp32.maxMag = 0x7F7FFFFF := by decide

theorem witness_SpecialBounds : ∃ s m e, fp32.decode 0x3F800000 = .fin s m e ∧ (1 : ℝ) = (if s then -1 else 1) * (m : ℝ) * 2 ^ e :=
  ⟨false, 0x800000, -23, by decide, by norm_num⟩

theorem witness_SignsAndBlockScales_top : (∃ p ∈ ([(.fin false 3 (-1), true)] : List (Machine.Num × Bool)), ∃ n m e, p.1 = .fin n m e ∧ (2 : ℚ) ^ (0 : ℤ) ≤ m * 2 ^ e) ∧
    ∀ p ∈ ([(.fin false 3 (-1), true)] : List (Machine.Num × Bool)), ∀ n m e, p.1 = .fin n m e → (m : ℚ) * 2 ^ e < 2 ^ ((0 : ℤ) + 1) := by
  constructor
  · exact ⟨_, List.mem_singleton.mpr rfl, false, 3, -1, rfl, by norm_num⟩
  · intro p hp n m e h
    rw [List.mem_singleton.mp hp] at h
    injection h with _ hm he
    subst hm he
    norm_num

theorem witness_Conversions_more : (
  let ct : Instr := .cvtT .always .null .null
  let none' (t : Tok) : Bool := fires ct (atCell (some tok) none none (some (.tok t)) ct) fun o => isTok o.l && match o.t with | some (.tok y) => y.ok 0 == t.ok 0 | _ => false
  let wrong : List Instr := [.cvt .always .e2m1 .null .null, .cvtT .always .null .null, .scale .always 0 .f32 .null .null, .cvtfi .always .ru .f32 .null .null, .cvtif .always true .f32 .null .null]
  none' { Tok.splat 0 0 with valid := 0xFFFE } && none' (Tok.splat 0x50 0) && wrong.all (fun i => fires i (seqWith tok i) fun o => isTok o.l) &&
    fires (.qblk .always (.e4m3 true) .null .null) (seqWith one (.qblk .always (.e4m3 true) .null .null)) (fun o => isSc (· == 1) o.l) &&
    fires ct (atSeq (some one) none none (some tok) ct) (fun o => isTok o.t && isSc (· == 1) o.l)) = true ∧
  (∃ g, g ≤ e2m1.maxMag ∧ e2m1.decode g = .fin false 2 (-1) ∧ e2m1.decode (g + 1) = .fin false 3 (-1)) := by
  constructor
  · decide
  · exact ⟨2, by decide⟩

theorem witness_MatrixUnit_drains : (
  let i : Instr := .mdrain .always .sacc true (.to .t 1) (.to .r 1)
  let d (w : List Target) : Drain := { node := 1, rows := List.replicate 16 7, row := 3, punct := 0, bank := .sacc, clear := true, waits := w }
  let at' (w : List Target) (l r : Option SlotVal) (p : State → Bool) : Bool :=
    let s := cellTwo i i {} { t := l, r := r } fun c => { c with drain := some (d w) }
    (s.view s.focus).isSome && (match s.fabric 0 with | some f => (f.cell 0 0).drain == some (d w) | none => false) && (d w).rows[3]? == some 7 && p s
  let free (s : State) (t : Target) : Bool := s.targetFree s.focus 1 i t
  let x := slot (some tok)
  at' [] none x (fun s => free s (.to .t 1) && !free s (.to .r 1)) && at' [] x none (fun s => !free s (.to .t 1) && free s (.to .r 1)) &&
    at' [.to .r 1] x none (fun s => free s (.to .r 1)) && at' [.to .r 1] x x fun s => !free s (.to .r 1)) = true := by decide

theorem witness_CellRegisters_more : (
  let used : State := (cellWith tok (.out .always .down 1)).modCell 0 0 0 fun c => c.portUsed .down (State.cycle (cellWith tok (.sink .always)) 0)
  let fb (n : BitVec 3) : Instr := .fbits .always n .null .null
  let fg (n : BitVec 3) : Instr := .fget .always n .null .null
  (match used.fabric 0 with | some f => !(f.cell 0 0).portOpen .down (used.cycle 0) | none => false) && fires (fb 7) (cellWith tok (fb 7)) (fun o => isTok o.l) &&
    fires (fg 7) (cellWith tok (fg 7)) (fun o => isTok o.l) && (cell0 (cellWith tok (fb 7))).xs.isEmpty) = true := by decide

theorem witness_PrivilegeAndSystemWrites_more : (
  let w (n : BitVec 13) (x : Word) (p : State → State := id) : Bool := fires (.sysw .always n) (p (atSeq (sc x) none none none (.sysw .always n))) fun o => o.l == sc x
  let inv (n : Word) (p : State → State) : Bool :=
    let i : Instr := .tlbinv .always 1 2
    let s := p (atSeq (sc 0) (sc n) none none i)
    fires i s (fun o => o.l == sc 0 && o.r == sc n)
  [0x007, 0x009, 0x00E, 0x010, 0x023, 0x00F, 0x025, 0x02F, 0x039, 0x1FFF].all (w · 0) && w 8 0xFFFF && w 8 0x10000 && w 0x024 0 && w 0x024 (BitVec.ofNat 64 (5 * 2 ^ 57)) super &&
    w 0x024 (BitVec.ofNat 64 (4 * 2 ^ 57 + 15 * 2 ^ 48)) super && w 0x030 7 && w 0x030 8 && w 0x031 0xFF && w 0x038 0x0E && w 0x038 0x0D && w 0x031 (BitVec.ofNat 64 (2 ^ 59)) &&
    fires (.sysw .always 0x030) (atSeq (some tok) none none none (.sysw .always 0x030)) (fun o => isTok o.l) && inv 4 id && inv 3 id && inv 3 super && inv 4 super) = true := by decide

theorem witness_SystemReads_more : (
  let asks (f : Slice → Slice) (p : Slice → Bool) : Bool := p ((busy.modRing 0 fun x => { x with slice := f x.slice }).ring 0).slice
  asks (fun x => { x with req := true, remainAt := some 3 }) (fun x => x.remainAt == some 3) && asks id (·.remainAt.isNone)) = true := by decide

theorem witness_SpecialFunctions_more : (
  let fin (x : Nat) (n : Bool) (m : Nat) (e : Int) : Bool := fp32.decode x == .fin n m e
  fin 0x80000000 true 0 (-149) && fp32.decode 0xFF800000 == .inf true && fp32.decode 0x7F800000 == .inf false && fin 0x80000001 true 1 (-149) &&
    fin 0x41100000 false 0x900000 (-20) && fin 0x40400000 false 0xC00000 (-22) && fin 0xC0400000 true 0xC00000 (-22) && fin 0x43000000 false 0x800000 (-16) &&
    fin 0xC3160000 true 0x960000 (-16) && fin 0x3E800000 false 0x800000 (-25) && fin 0xC1200000 true 0xA00000 (-20) && fin 0xC2D00000 true 0xD00000 (-17)) = true ∧
  (∃ v : ℚ, (0x900000 : ℚ) * 2 ^ (-20 : ℤ) = v * v ∧ (0xC00000 : ℚ) * 2 ^ (-22 : ℤ) = v) ∧ (0x900000 : ℚ) * 2 ^ (-20 : ℤ) / ((0xC00000 : ℚ) * 2 ^ (-22 : ℤ)) = 0xC00000 * 2 ^ (-22 : ℤ) ∧
    (0x960000 : ℚ) * 2 ^ (-16 : ℤ) = (-150 : ℤ).natAbs ∧ (0x800000 : ℚ) * 2 ^ (-25 : ℤ) = 2 ^ (-2 : ℤ) ∧ (91 / 10 : ℚ) ≤ 0xA00000 * 2 ^ (-20 : ℤ) ∧ (104 : ℚ) ≤ 0xD00000 * 2 ^ (-17 : ℤ) := by
  refine ⟨by decide, ⟨3, ?_⟩, ?_⟩ <;> norm_num [Int.natAbs]

theorem witness_TakingCauses_more : (
  let rec' (k : Cause) : StopRec := { engine := Engine.fabric.code, cause := k, primary := true, retry := false, ring := 3, block := 0, va := 0, counters := 0, issued := [], done := [] }
  let s (l : List StopRec) : State := (busy.modCtx 0 fun x => { x with halted := true, haltClass := .serviceable, stops := l }).modDev fun d => { d with repActive := true, repCtx := 0 }
  let rests (l : List StopRec) : Bool := ((s l).ctx 0).stops.any fun x => x.engine == Engine.fabric.code && x.ring.toNat == Engine.fabric.ringNo 3 && x.cause == 0
  ((s []).ctx 0).halted && (s []).dev.repActive && (s []).dev.repCtx == 0 && rests [rec' 0] && !rests [rec' 0x0E] && (busy.ring 0).cur == some placedTask && placedTask.ctx == 0) = true := by decide

theorem witness_CommitItems : (
  let it (w : Work) (sn : Option (Strand × SMask) := none) (ret : Option (Nat × BitVec 6) := none) : Item := { idx := 0, strand := sn, work := w, ret := ret }
  let com (t : Item) (f : State → State := id) (p : State → Bool := fun _ => true) : Bool :=
    let s := f (settled [.write 0] [t] (some (.to 64)))
    match (s.ring 0).seqr.blk with
    | some b => s.running 0 == some placedTask && (s.ring 0).seqr.allSettled b && (s.ring 0).seqr.ops.all (fun o => o.committed && o.id < (s.ring 0).seqr.nextOp) && (s.ring 0).seqr.yielded.isNone &&
        !(s.ring 0).seqr.perf.step && b.exit == some (.to 64) && b.freed.isEmpty && b.vops.isEmpty && b.items == [t] && t.idx < b.words.length &&
        t.ret.all (fun x => x.1 < b.words.length) && !(s.ring 0).seqr.knotHeld b && s.knotTurns 0 b && (s.ring 0).seqr.roomFor b &&
        (!b.trapsOnError || b.due.any (· < s.cycle 0)) && p s
    | none => false
  let on (w : Work) (ret : Option (Nat × BitVec 6) := none) : Item := it w (some (1, 2)) ret
  let older (s : State) : State := s.modSeqr 0 fun q => { q with nextOp := 4, ops := [{ op (.ingr 4) with strand := 1 }] }
  let knot (k : Knot) (s : State) : State := s.modRing 0 fun x => { x with knots := [(5, k)] }
  let alone (s : State) : Bool := ((s.ring 0).seqr.snapshot 1 2 true).isEmpty && !s.dev.flush
  let due (n : Nat) (s : State) : State := { (s.modSeqr 0 fun q => { q with blk := q.blk.map fun b => { b with due := some n } }) with gt := 27 }
  com (it (.write 7 tok)) && com (it (.sysw 8 0)) id (fun s => good (s.writePoolPart 0 0)) && com (it (.sysw 0x24 (1 <<< 62))) && com (it (.sysw 0x30 2)) && com (it (.sysw 0x38 0xFF)) &&
    com (it .eret) && com (it (.yield 0)) id (fun s => !(s.ring 0).slice.req) &&
    ([.store (acc 8 0 (.die 0)) 1 1, .atomic .cas (acc 8 8 .pool) 1 2, .aperture 0 0, .resv 0 9, .ingr 4, .egr (Tok.splat 1 0) 0, .tlbinv 0 3] : List Work).all (fun w => com (on w (some (0, 63))) older) &&
    com (on (.fork 3 0)) id (fun s => Tab.get .free (s.ring 0).seqr.handles 3 == Handle.free) &&
    com (on (.fork 3 0)) (fun s => s.modSeqr 0 fun q => { q with handles := [(3, .outstanding 0)] }) (fun s => Tab.get .free (s.ring 0).seqr.handles 3 != Handle.free) &&
    com (on (.pref 0 64 true)) && com (on (.declare 0x40)) && com (on (.retire 3)) && com (on (.retire 15)) (fun s => s.modRing 0 fun x => { x with zones := [(15, { owner := some 5, nslot := 1, tout := 4, base := 8, key := 9, slots := [] })] }) (fun s => !good (s.retireZone 0 0 15)) && com (on (.release 3 0 true)) id (fun s => !good (s.releaseSlot 0 0 3 0 true)) &&
    com (on (.kinit 5 0x400000001 7)) id alone && com (on (.kinit 5 0x400000001 7)) (fun s => s.modDev fun d => { d with flush := true }) (fun s => !alone s) &&
    com (on (.kadd 5 7)) id (fun s => alone s && good ((Tab.get {} (s.ring 0).knots 5 : Knot).add 7 |>.elim (.error ()) .ok)) &&
    com (on (.kadd 5 0xFFFFFFFF)) (knot { count := 1 }) (fun s => ((Tab.get {} (s.ring 0).knots 5 : Knot).add 0xFFFFFFFF).isNone) &&
    com (on (.kwait 5 true 1) (some (0, 63))) (fun s => due 0 (knot { count := 1, error := true } s)) alone && com (on (.kwait 5 false 2)) (knot { mode := true }) alone &&
    com (on (.kwait 5 false 2)) (knot { count := 1 }) alone && com (on (.kwait 5 false 1) (some (0, 63))) (knot { count := 1 }) alone &&
    com (on (.ktry 5 false 2) (some (0, 63))) (knot { count := 1 }) alone && com (on (.ktry 5 false 1)) (knot { mode := true, phase := true }) alone) = true := by decide

theorem witness_TranslationsComeAndGo_held : (
  let s : State := (missing true).modDie 0 fun x => { x with hold := true }
  let after := s.modRing 0 fun x => { x with misses := x.misses.filter fun n => !(n.ctx == 0 && n.va.toNat / 2 ^ 16 == 0) }
  (match (s.ring 0).misses[0]? with | some m => s.walking 0 m | none => false) && match (after.walk 0 0 0xFFFF).res with | .error c => c == heldRead | _ => false) = true := by decide

theorem witness_OperationsPerform_more : (
  let o := op (.ingr 15)
  let s (f : Ctx → Ctx) := (withOp o).modCtx 0 f
  let far : Op := op (.atomic .add (acc 8 homeSize (.die 1)) 1 0)
  let x : PipeWrite := { window := 0, ring := 0, ctx := 0, who := .sequencer, op := 3, msg := far.msg.getD (.marker 0 0), flush := true }
  let t : State := ((withOp { far with stage := .piped 0 }).setPipe { path := path01, writes := [x] }).modDie 1 fun d => { d with hold := true }
  ((s fun x => { x with halted := true, ingress := [(15, [7])] }).ctx 0).halted && ((s id).ctx 0).ingress.isEmpty && (s id).op? 0 3 == some o && o.work == .ingr 15 &&
    far.work.remote? 0 == some 1 && (t.pipe path01).writes.find? (fun w => w.writeOf 0 3 && w.flush) == some x && t.msgHeld x.msg) = true := by decide

/-- A capture of context 0 at the start of host memory, of this many bytes with this many records written (R85). -/
def capturing (size : Word) (n : Nat) : State :=
  ((withOp (op (.ingr 15))).modCtx 0 fun x => { x with ingress := [(15, [7])] }).modDev fun d =>
    { d with capOn := true, capCtx := 1, capBase := BitVec.ofNat 64 hostBase, capSize := size, capCount := n }

theorem witness_CaptureAndReplay_more : (
  let cap (s : State) (room : Bool) : Bool := s.op? 0 3 == some (op (.ingr 15)) && (op (.ingr 15)).free && !s.ingrAhead 0 (op (.ingr 15)) 15 && !(s.ctx 0).halted && (s.ctx 0).ingress.get [] 15 == [7] &&
    s.dev.capOn && s.dev.capCtx.getLsbD 0 && !s.dev.capStopped && (if room then decide (64 * (s.dev.capCount + 1) ≤ s.dev.capSize.toNat) else decide (s.dev.capSize.toNat < 64 * (s.dev.capCount + 1)))
  let rep (n : Nat) (last : Option (BitVec 32)) : State := { up.modDev (fun d => { d with repBase := BitVec.ofNat 64 hostBase, repLen := 128, repActive := true, repPos := n, repLast := last }) with
    mem := [(2 ^ 51 + 64, 1), (2 ^ 51 + 68, 7)] }
  let num (s : State) : Nat := natLE (s.mem.bytes (s.dev.repBase.toNat + s.dev.repPos) 64)
  let full : State := (rep 64 (some 6)).modCtx 0 fun x => { x with ingress := [(0, List.replicate 64 0)] }
  let t : Task := { placedTask with record := record.key, ins := [some (decl 64 0)] }
  let s : State := (staged { task := t }).modDev fun d =>
    { d with repActive := true, repCtx := 0, repFixed := [{ record := 0x1000, tile := 0, ring := 0, valid := 1, crcs := [1, 0, 0, 0] }] }
  cap (capturing 64 0) true && cap (capturing 0x1000 62) true && cap (capturing 0x1000 64) false && ((capturing 64 0).modDev fun d => { d with capOn := true }).dev.capOn &&
    (rep 64 (some 6)).dev.repActive && Machine.bitsOf (num (rep 64 (some 6))) 32 32 == 7 && Machine.bitsOf (num (rep 64 (some 6))) 0 8 == 1 && decide ((6 : BitVec 32).toNat < 7) &&
    (rep 64 (some 7)).dev.repLast == some 7 && ((full.ctx 0).ingress.get [] 0).length == 64 &&
    (match (s.ring 0).staged with | some g => g.tick.isNone && s.mayStart 0 g && (match s.replayDiffers 0 g.task with | some x => x.1 == 0 | none => false) | none => false)) = true := by decide

theorem witness_Dispatching_more : (
  let two : State := (List.range 32).foldl (fun s r => s.modRing r fun x => { x with wasOpen := true })
    ((opened record).modCtx 0 fun x => { x with table := ([0, 1] : List (BitVec 32)).map fun n => { record with index := n, ready := true, split := true, shares := [(7, [0])] } })
  let rings : List Nat := [28, 29, 30, 31]
  let s1 := ((List.finRange 64).foldl (fun s c => if s.dispatches c then s.settle c else s) ((dieRings 7).foldl State.recall two)).lateGangs.passes 7
  let left (l : List (Nat × Nat)) (k : List (BitVec 2 × Nat)) : PendRec := { record with ready := true, done := [0], fields := { fields with succs := k }, left := l }
  let st (p : PendRec) (f : State → State := id) : State := f { (opened p).modCtx 0 (fun x => { x with tq := [(0, { log2n := 4 })] }) with mem := [(0xA0, 1), (0x120, 2)] }
  let ok (p : PendRec) (f : State → State := id) : Bool :=
    let s := st p f
    (s.ctx 0).table.find? (fun q => q.key == record.key) == some p && !p.retired && p.complete && !(s.ctx 0).closing
  let wait (s : State) (x : BitVec 2 × Nat) : Nat := (s.recordKey ((s.queue 0 x.1.toNat).slotAddr x.2 + 0x20)).getD 0
  let p2 := left [(0, 7)] [(0, 1), (0, 2)]
  let held := left [] [(0, 1)]
  let busy' := left [(0, 3)] []
  let moved : State := (staged { task := placedTask, need := [0] }).modDie 0 fun x => { x with hold := true }
  let g : Staged := { task := { placedTask with record := record.key, ins := [some (decl 64 0)] }, need := [0] }
  let hs : State := (staged g).modDie 0 fun x => { x with hold := true }
  two.dev.live.getLsbD 7 && two.placeTurn 7 && (s1.cands 7 0).length == 2 && rings.all (· < 32) &&
    ok p2 && p2.left.all (fun e => !(st p2).outstanding e.1 e.2) && p2.fields.succs.all (fun x => !(st p2).waitHeld 0 x && (st p2).load (wait (st p2) x) 4 != 0) &&
    decide (wait (st p2) (0, 1) + 4 ≤ wait (st p2) (0, 2)) &&
    ok held (fun s => { s with mem := [] }) && (st held (fun s => { s with mem := [] })).load (wait (st held) (0, 1)) 4 == 0 &&
    ok held (fun s => s.modDie 0 fun x => { x with hold := true }) && (st held (fun s => s.modDie 0 fun x => { x with hold := true })).waitHeld 0 (0, 1) &&
    ok busy' (fun s => s.modSeqr 0 fun q => { q with ops := [op (.ingr 4)] }) && (st busy' (fun s => s.modSeqr 0 fun q => { q with ops := [op (.ingr 4)] })).outstanding 0 3 &&
    (moved.ring 0).staged.isSome && (match (hs.ring 0).staged with
      | some g => hs.mayCopy 0 g (decl 64 0) && (match ((uncoreSectors 0 0 (hs.ctx 0).priv 1 0).go hs).1 with | .error e => e.1 == heldRead | .ok _ => false)
      | none => false)) = true := by decide

theorem witness_TokensMove_more : (
  let s : State := (patterned fun f => (bare f).place 0 0 0 chans).modEng 0 fun x => { x with inPorts := [(0, { op := 0, fifo := [.boundary], cap := 4, next := 1, branches := [{ ring := 0, col := 0 }] })] }
  (match (s.ring 0).eng.inPorts.look 0 with | some o => (s.liveFabric 0).isSome && !s.portDry 0 o && decide (s.cycle 0 < o.next) | none => false)) = true := by decide

theorem witness_StripesAndWaves_more : (
  let x : Walker := { walker [4] 4 0 2 with op := 3, marks := [(1, 2)], done := true }
  let o : OutPortSt := { op := 3, cap := 2, fifo := [tk 0], binders := 2 }
  let back : State := running (some { idleFabric with rollback := some { trigger := 0x0E, clause := 0 }, waveDone := 1, stateful := [0] }) { forked with inWalkers := [7], outWalkers := [1] } fun e =>
    { e with inWalkers := [(7, x)], outWalkers := [(1, { x with port := 1 })], inPorts := [(7, { op := 3, cap := 2, fifo := [tk 0] })], outPorts := [(1, o)] }
  let late : State := { scrolled [2] { shadow := .filling 2 5 } with gt := 27 }
  let bound : State := (patterned fun f => { f with stripes := [(0, { word := { valid := true } })] }).modEng 0 fun e => { e with outPorts := [(1, o)] }
  (match back.fabric 0 with | some f => f.rollback.isSome && f.lead == 0 && !f.scroll && f.isStateful (f.vstripe 0) && f.waveDone == 1 | none => false) && back.running 0 == some placedTask &&
    back.fabricRings 0 == [0] && (back.ring 0).eng.inWalkers.look 7 == some x && (back.ring 0).eng.outPorts.look 1 == some o &&
    fab late (fun f => (f.stripe 0).shadow == .filling 2 5) && decide (late.cycle 0 < 5 + 16) &&
    fab bound (fun f => f.cells.all (fun e => e.2.out.isEmpty) && f.p == 1 && (f.stripe 0).word.vstripe.toNat + 1 == f.hdr.v) && (bound.ring 0).eng.outPorts.look 1 == some o) = true := by decide

theorem witness_WalkersMove_more : (
  let p : PatHdr := { forked.hdr with period := true }
  let a := walker [4] 2 0 2
  let b : Walker := { walker [4] 4 0 2 with port := 3, markers := 2 }
  let s := running none { forked with fabric := false, hdr := p } fun e => { e with inWalkers := [(7, a), (3, b)], inPorts := [(7, { op := 3, cap := 2 }), (3, { op := 3, cap := 2 }), (1, { op := 3, cap := 2, shuttle := true })] }
  let stop : State := running none { forked with fabric := false, hdr := p, waves := 1 } fun e =>
    { e with inWalkers := [(7, { a with markers := 1, stopped := true })], inPorts := [(7, { op := 3, cap := 2, fifo := [.marker 1] })] }
  ((s.ring 0).eng.inWalkers.map (·.1)) == [7, 3] && (s.ring 0).eng.inWalkers.all (fun e => e.2.port.val == e.1 && (e.2.n == e.2.total || e.2.due) && (!e.2.due || e.2.markers + 1 == 1)) && a.due && !b.due &&
    s.walkersRun 0 3 && (s.scrolling 0 3).isNone && !s.waveWaits 0 3 && (stop.running 0).isSome && (stop.fabric 0).isNone && (stop.ring 0).eng.stands 3 && (stop.ring 0).eng.sentMarkers 3 == 1 &&
    !markersReady ((stop.ring 0).eng.inOf 3) && ((stop.ring 0).eng.inPorts.all fun e => e.2.shuttle || tokens e.2.fifo == 0)) = true := by decide

theorem witness_ShuttlesCopy_more : pathTo ownChip 0 = .die 0 ∧ (
  let eye : Template := { copyCmd with dst := { copyCmd.dst with type := 4, loc := 0, zone := 15, slot := 1, gen := 7 } }
  let at' (c : Copy) : Bool := (copying c).served 0 == some 0 && ((copying c).ring 0).chan 0 == { queue := [], run := some c }
  let c (t : Template) : Copy := { start := started, template := 0, cmd := some t }
  let fin (f : Copy → Copy) : Bool := let x := f { start := started, template := 0, finished := true }; at' x && x.finished && x.inFlight == 0
  let lost (k : Bool) : Template := { eye with dst := { eye.dst with chip := far }, knotv := k, knot := 63 }
  at' (c eye) && eye.dst.type == 4 && eye.kind == 0 && readable (copying (c eye)) (endSpace eye.src.type) (eye.src.beatAt eye 0 0) && at' (c (lost true)) && at' (c (lost false)) &&
    !(copying (c (lost true))).draining && !((copying (c (lost true))).routeOf far).isSome && fin (fun x => { x with stopped := true, error := some 0x33 }) && ((copying (c eye)).op? 0 3).isSome &&
    fin (fun x => { x with lastAdd := some (63, 64), chainKnot := [63] }) && (copying (c eye)).copyTurn 0 0 63 &&
    at' { start := started, template := 0, cmd := some { copyCmd with knotv := true, bytecnt := true, chain := true, next := 4095, knot := 63 }, beat := 1 }) = true := by
  constructor
  · simp [pathTo]
  · decide

theorem witness_EyeletArrivals_more : (
  let m : Msg := .verdict 0 (farVerdict true)
  let s : State := waiting m ((zoned 1 { state := .reserved, holder := far, gen := 0xFFFF }).modDev fun d => { d with flush := true })
  let r (l : List Msg) (sv : List Saved := []) : State := zoned 0 {} fun x => { x with retries := l, saved := sv }
  s.dev.flush && !s.dev.arrived.contains (.beat 0 (farBeat 0)) && (s.dev.arrived.any fun x => x.ring? == some 0 && x.chip? == some far) && s.zoneTurn 0 15 &&
    ((r [.request 0 (farReq 9)]).ring 0).standing 15 != .saved && (r [.beat 0 (farBeat 0)]).zoneTurn 0 15 && ((r [.verdict 0 (farVerdict true)]).ring 0).retries == [.verdict 0 (farVerdict true)] &&
    ((r [.verdict 0 (farVerdict true), .beat 0 (farBeat 0)]).ring 0).retries == [.verdict 0 (farVerdict true), .beat 0 (farBeat 0)] && (farBeat 0).chip == (farVerdict true).chip &&
    (farBeat 0).zone == (farVerdict true).zone && !(r []).draining && ((r [.beat 0 (farBeat 0)] [kept placedTask]).ring 0).standing 15 == .saved) = true := by decide

theorem witness_SavesAndRestores_held : (
  let held (s : State) : State := s.modDie 0 fun x => { x with hold := true }
  let asked : State := held (tabled [176, 0, 0, 0] fun x => { x with slice := { req := true, remain := 0 } })
  let s1 := (asked.trapSeq 0 0x2E 0).modSeqr 0 fun q => { q.discard with yielded := none, live := none }
  let isHeld {α : Type} (x : Except (Cause × Word) α) : Bool := match x with | .error e => e.1 == heldRead | .ok _ => false
  asked.running 0 == some liveTask && (asked.ring 0).slice.req && asked.remain 0 == 0 && isHeld ((readLive 0 liveTask 0).go s1).1 &&
    isHeld ((readLive 0 liveTask 0).go (asked.modSeqr 0 fun q => { q with yielded := some 0 })).1) = true := by decide

theorem witness_FaultsAndRecovery_more : (
  let s (n : Nat) : State := { up with gt := BitVec.ofNat 64 n }
  let hot : State := up.modDie 7 fun x => { x with hold := true, holdFrom := 100 }
  let torn (f : Ctx → Ctx) : Ctx := ((s 27).modCtx 63 f).ctx 63
  let eq (f : EgQueue → EgQueue) : EgQueue := f {}
  let line : Egr := { kind := 4, ctx := 63, a := 0, b := [] }
  up.dev.parked == 0 && (hot.die 7).hold && decide ((hot.die 7).holdFrom + 3000 ≤ (s 3100).gt.toNat) && decide ((s 3099).gt.toNat < (hot.die 7).holdFrom + 3000) &&
    !(up.modDev fun d => { d with live := 0x7F }).dev.live.getLsbD 7 && (torn fun x => { x with enable := true, actedAt := some (p0Cycles 27) }).actedAt == some (p0Cycles (s 27).gt.toNat) &&
    (torn fun x => { x with enable := true }).actedAt != some (p0Cycles (s 27).gt.toNat) && (torn fun x => { x with tearing := true }).tearing && !(torn id).tearing &&
    (eq fun q => { q with base := 0x8000000000000, log2n := 6 }).room && !(eq id).room && (eq fun q => { q with held := [line] }).held.length == 1 && (eq fun q => { q with held := List.replicate 16 line }).held.length == 16 &&
    (match up.locate 0 with | .ok (k, .die d) => k == 0 && ((up.modDie d fun x => { x with hold := true }).die d).hold | _ => false)) = true := by decide

theorem witness_CircuitsAndPorts_more : (far ≠ ownChip ∧ ownPort [(ownChip, 3)] = some 3) ∧
    ((linked id).modDev fun d => { d with routes := [(far, [[(ownChip, 3)]])] }).routeOf far = some [(ownChip, 3)] ∧ (
  let x : Link := { up := true, width := 1, lambdaOk := 0xFFFF }
  let f (ty : FlitType) (seq : BitVec 12) (nak : Bool) : Flit :=
    let g : Flit := { type := ty, vc := 0, seq := seq, ack := 0, nak := nak, window := 5, dest := far, payload := [], crc := 0 }
    { g with crc := crc64 (flitBytes g) }
  let ok (g : Flit) : Bool := crc64 (flitBytes g) == g.crc
  ok (f .seal 0 false) && (f .seal 0 false).type == .seal && ok (f .data 0 false) && ok (f .data 5 false) && ok (f .idle 0 false) && (f .data 5 false).seq != x.recvSeq && !(f .data 5 false).nak &&
    decide (0x800 ≤ x.recvSeq - (f .data 5 false).seq - 1) && x.narrowing.isNone && x.waiting == 0 && x.kept.length < 2048 && !({ x with up := false } : Link).up && !up.dev.flush) = true := by
  refine ⟨⟨far_not_own, by simp [ownPort]⟩, by rfl, by decide⟩

/-- The credits of a port are a free value (log 75): where there is one, a port that keeps nothing has it. -/
theorem witness_CircuitsAndPorts_credit (vc : BitVec 2) (h : 0 < Config.credits vc.toNat) : ({} : Link).hasCredit vc = true := by simp [Link.hasCredit, h]

theorem witness_BringUp_fails : (
  let s : State := (State.reset.modDev fun d => { d with phase := 2, fenced := 0xFF }).modDie 7 fun x => { x with firmwareOk := true }
  s.dev.phase == 2 && !s.dev.ready && !s.dev.bootFail && (s.die 7).firmwareOk && (List.finRange 8).all fun d => s.dev.fenced.getLsbD d) = true := by decide

theorem witness_HostSide_registers : (
  let v : Word := 0x8000000000000003
  v.getLsbD 63 && v.getLsbD 1 && v.getLsbD 0 && !v.getLsbD 2 && !(4 : Word).getLsbD 0 && ((0 : CtxId).val == (v.extractLsb' 8 6).toNat) && !(up.ctx 0).enable && (busy.modCtx 0 fun x => { x with enable := true }).dev.ready &&
    !up.dev.pba.getLsbD 64 && decide (2 ^ (6 : BitVec 5).toNat ≤ ((63 : BitVec 32) - (0xFFFFFFFF : BitVec 32)).toNat)) = true := by decide

end Sys2Proof.Tests
end

section
/-!
PROOFS. Element-wise words: the operands and the digits of a result, and what `elemValue` computes (R256, R295, R303).
-/

namespace Sys2Proof.Proofs

open Sys2Proof.Machine Sys2Proof.Claims

/-! ## Digits of a folded number -/

/-- Digit `k` of a number put together from digits below `b`. -/
theorem foldr_digits_div_mod {α : Type} (b : Nat) (g : α → Nat) (hg : ∀ a, g a < b) (l : List α) (k : Nat) (hk : k < l.length) :
    l.foldr (fun a n => g a + b * n) 0 / b ^ k % b = g l[k] := by
  induction l generalizing k with
  | nil => simp at hk
  | cons a l ih =>
    have ha := hg a
    cases k with
    | zero => simp [Nat.mod_eq_of_lt ha]
    | succ k =>
      have hd : (g a + b * l.foldr (fun a n => g a + b * n) 0) / b = l.foldr (fun a n => g a + b * n) 0 := by
        rw [Nat.add_mul_div_left _ _ (by omega), Nat.div_eq_of_lt ha, Nat.zero_add]
      simpa [pow_succ', ← Nat.div_div_eq_div_mul, hd] using ih k (by simpa using hk)

/-- A part of the bits of a number. -/
theorem extract_ofNat_toNat (w k n x : Nat) (h : k + n ≤ w) : ((BitVec.ofNat w x).extractLsb' k n).toNat = x / 2 ^ k % 2 ^ n := by
  have hpow : 2 ^ w = 2 ^ k * 2 ^ (w - k) := by rw [← pow_add]; congr 1; omega
  rw [BitVec.extractLsb'_toNat, BitVec.toNat_ofNat, Nat.shiftRight_eq_div_pow, hpow, Nat.mod_mul_right_div_self,
    Nat.mod_mod_of_dvd _ (pow_dvd_pow 2 (by omega))]

/-- Lane `i` of the data put together from a value for each lane. -/
theorem lanesOf_extract (f : Nat → W32) {i : Nat} (hi : i < 16) : (lanesOf f).extractLsb' (32 * i) 32 = f i := by
  have digit := foldr_digits_div_mod (2 ^ 32) (fun j => (f j).toNat) (fun j => (f j).isLt) (List.range 16) i (by simpa using hi)
  apply BitVec.eq_of_toNat_eq
  rw [lanesOf, extract_ofNat_toNat _ _ _ _ (by omega), pow_mul, digit, List.getElem_range]

/-! ## Result tokens (R303) -/

/-- A lane of a result token holds its value where it is valid, and zero elsewhere. -/
theorem mk'_lane (f : Nat → W32) (v : BitVec 16) (p : BitVec 3) {i : Nat} (hi : i < 16) :
    (Tok.mk' f v p).lane i = if (Tok.mk' f v p).ok i then f i else 0 :=
  lanesOf_extract _ hi

/-- A lane is valid in the conjunction of valid masks where it is valid in each. -/
theorem foldl_valid_getLsbD (ts : List Tok) (v : BitVec 16) (i : Nat) :
    (ts.foldl (fun v t => v &&& t.valid) v).getLsbD i = (v.getLsbD i && ts.all fun t => t.ok i) := by
  induction ts generalizing v with
  | nil => simp
  | cons t ts ih => simp [ih, Tok.ok, Bool.and_assoc]

theorem le_maxPunct_left (a b : BitVec 3) : a ≤ maxPunct a b := by
  unfold maxPunct; split <;> bv_omega

theorem le_maxPunct_right (a b : BitVec 3) : b ≤ maxPunct a b := by
  unfold maxPunct; split <;> bv_omega

theorem maxPunct_eq_or (a b : BitVec 3) : maxPunct a b = a ∨ maxPunct a b = b := by
  unfold maxPunct; split <;> simp

/-- The largest punctuation bounds that of each token and the one it starts from. -/
theorem le_foldl_maxPunct (ts : List Tok) (p : BitVec 3) :
    p ≤ ts.foldl (fun p t => maxPunct p t.punct) p ∧ ∀ x ∈ ts, x.punct ≤ ts.foldl (fun p t => maxPunct p t.punct) p := by
  induction ts generalizing p with
  | nil => simp
  | cons t ts ih =>
    obtain ⟨hfirst, hrest⟩ := ih (maxPunct p t.punct)
    exact ⟨BitVec.le_trans (le_maxPunct_left ..) hfirst,
      List.forall_mem_cons.mpr ⟨BitVec.le_trans (le_maxPunct_right ..) hfirst, hrest⟩⟩

/-- The largest punctuation is that of a token or the one it starts from. -/
theorem foldl_maxPunct_mem (ts : List Tok) (p : BitVec 3) :
    ts.foldl (fun p t => maxPunct p t.punct) p = p ∨ ∃ x ∈ ts, x.punct = ts.foldl (fun p t => maxPunct p t.punct) p := by
  induction ts generalizing p with
  | nil => simp
  | cons t ts ih =>
    rw [List.foldl_cons]
    rcases ih (maxPunct p t.punct) with h | ⟨x, hx, h⟩
    · rcases maxPunct_eq_or p t.punct with e | e
      · exact .inl (h.trans e)
      · exact .inr ⟨t, by simp, by rw [h, e]⟩
    · exact .inr ⟨x, by simp [hx], h⟩

/-- A token computed lane by lane is a result token of R303. -/
theorem laneWise_laneResult (ts : List Tok) (g : W32 → W32 → W32 → W32) : LaneResult ts g (laneWise ts g) where
  ok i hi := by
    have h := foldl_valid_getLsbD ts 0xFFFF i
    rwa [show (0xFFFF : BitVec 16).getLsbD i = true by interval_cases i <;> rfl, Bool.true_and] at h
  lane i hi := by
    have operand (k : Nat) : (match ts[k]? with | some t => t.lane i | none => 0) = (ts.getD k {}).lane i := by
      rw [List.getD_eq_getElem?_getD]
      cases ts[k]? <;> simp [Tok.lane]
    rw [← operand 0, ← operand 1, ← operand 2]
    exact mk'_lane _ _ _ hi
  punct_le := (le_foldl_maxPunct ts 0).2
  punct_of := foldl_maxPunct_mem ts 0
  plain := ⟨rfl, rfl, rfl⟩

/-! ## Elements of a lane (R256) -/

/-- Two bit strings side by side, as a number. -/
theorem toNat_append_eq_add {m n : Nat} (x : BitVec m) (y : BitVec n) : (x ++ y).toNat = x.toNat * 2 ^ n + y.toNat := by
  rw [BitVec.toNat_append, ← Nat.shiftLeft_add_eq_or_of_lt y.isLt, Nat.shiftLeft_eq]

theorem elemwise_zero (w : Nat) (f : Nat → Nat → Nat → Nat) (a b c : Nat) : elemwise w 0 f a b c = 0 := rfl

/-- The highest element stands above the others. -/
theorem elemwise_succ (w n : Nat) (f : Nat → Nat → Nat → Nat) (a b c : Nat) :
    elemwise w (n + 1) f a b c = elemwise w n f a b c + 2 ^ (w * n) * (f (elem w n a) (elem w n b) (elem w n c) % 2 ^ w) := by
  simp [elemwise, List.range_succ]

/-- The elements of a lane or of bits [31:0] of a scalar, put together, are the lane's result. -/
theorem elemwise_eq_onLane (w : IWidth) (hw : w ≠ .i64) (f : Nat → Nat → Nat → Nat) (a b c : Nat) :
    elemwise w.bits w.count f a b c = (onLane w (onCodes f) (.ofNat 32 a) (.ofNat 32 b) (.ofNat 32 c)).toNat := by
  cases w with
  | i64 => exact absurd rfl hw
  | i32 | i16 | i8 =>
    simp only [onLane, onCodes, toNat_append_eq_add]
    simp only [IWidth.bits, IWidth.count, elemwise_succ, elemwise_zero, elem, BitVec.toNat_ofNat, extract_ofNat_toNat, Nat.reduceMul,
      Nat.reduceAdd, Nat.reduceLeDiff]
    omega

/-! ## Element-wise words -/

/-- Operands that are no scalars give cause 0x05 (R295). -/
theorem scalars_error (o : Opers) (qs : List Slot) {c : Cause} (h : o.scalars qs = .error c) : c = 0x05 := by
  cases qs with
  | nil => cases h
  | cons q qs =>
    rw [Opers.scalars] at h
    split at h <;> cases h
    rfl

theorem opn_eq_getD (l : List Word) (k : Nat) : opn l k = (l.getD k 0).toNat := by
  rw [opn, List.getD_eq_getElem?_getD]
  cases l[k]? <;> rfl

/-- The elements of a scalar are those of its low 32 bits, with zero above. -/
theorem onScalar_eq_onLane (w : IWidth) (hw : w ≠ .i64) (f : ElemFun) (a b c : Word) :
    onScalar w f a b c = (onLane w f (a.setWidth 32) (b.setWidth 32) (c.setWidth 32)).setWidth 64 := by
  cases w with
  | i64 => exact absurd rfl hw
  | i32 | i16 | i8 => rfl

/-- On the sequencer, scalars give the scalar result. -/
theorem elemValue_atomic_ok {o : Opers} {qs : List Slot} {l : List Word} (w : IWidth) (hw : w ≠ .i64) (f : Nat → Nat → Nat → Nat)
    (h : o.scalars qs = .ok l) :
    elemValue .atomic qs w.bits w.count f o = .ok (.sc (onScalar w (onCodes f) (l.getD 0 0) (l.getD 1 0) (l.getD 2 0))) := by
  simp only [elemValue, h, Except.map, opn_eq_getD, elemwise_eq_onLane w hw, onScalar_eq_onLane w hw, BitVec.ofNat_toNat]

theorem elemValue_atomic_error {o : Opers} {qs : List Slot} {c : Cause} (w n : Nat) (f : Nat → Nat → Nat → Nat)
    (h : o.scalars qs = .error c) : elemValue .atomic qs w n f o = .error 0x05 := by
  simp only [elemValue, h, Except.map, scalars_error o qs h]

/-- In a cell, tokens give the token of the lanes' results. -/
theorem elemValue_streaming_ok {o : Opers} {qs : List Slot} {ts : List Tok} (w : IWidth) (hw : w ≠ .i64) (f : Nat → Nat → Nat → Nat)
    (h : o.toks qs = .ok ts) : elemValue .streaming qs w.bits w.count f o = .ok (.tok (laneWise ts (onLane w (onCodes f)))) := by
  simp [elemValue, h, Except.map, elemwise_eq_onLane w hw]

/-- A word whose meaning is an element-wise value on codes computes it. -/
theorem computes_of_elemValue {i : Instr} {w : IWidth} (hw : w ≠ .i64) (f : Nat → Nat → Nat → Nat)
    (hexec : ∀ s, exec i s = fireValue i s (elemValue s.focus.kind i.reads w.bits w.count f)) : Computes i w (onCodes f) := by
  refine ⟨fun s r o l hs hf hl => ?_, fun s r p j o ts hs _ hf ht => ?_, fun s r o c hs hf hc => ?_⟩
  · rw [Delivers, Does, hexec, fireValue_go s i _ hf, hs, UnitId.kind, elemValue_atomic_ok w hw f hl]
  · refine ⟨_, ?_, laneWise_laneResult ts _⟩
    rw [Delivers, Does, hexec, fireValue_go s i _ hf, hs, UnitId.kind, elemValue_streaming_ok w hw f ht]
  · rw [Traps, Does, hexec, fireValue_go s i _ hf, hs, UnitId.kind, elemValue_atomic_error _ _ f hc]

/-- A floating-point word computes its function on codes (R256, R330). -/
theorem computes_of_fltWord {i : Instr} {w : FWidth} (f : FloatSpec → Nat → Nat → Nat → Nat) (hexec : ∀ s, exec i s = fltWord i w f s) :
    Computes i (likeInt w) (onCodes (f w.spec)) := by
  refine computes_of_elemValue (by cases w <;> decide) _ fun s => (hexec s).trans ?_
  cases w <;> rfl

end Sys2Proof.Proofs
end

section
/-!
PROOFS. The sign instructions, scale codes and the scale of a block (R258, R333, R345).
-/

namespace Sys2Proof.Proofs

open Sys2Proof.Machine Sys2Proof.Claims

/-! ## Signs (R333) -/

theorem bits_sub_one (f : FloatSpec) : f.bits - 1 = f.eb + f.mb := by
  rw [FloatSpec.bits, Nat.add_assoc, Nat.add_sub_cancel_left]

theorem bits_eq (f : FloatSpec) : f.bits = f.eb + f.mb + 1 := by
  rw [FloatSpec.bits]; omega

@[simp] theorem signBit_false (f : FloatSpec) : f.signBit false = 0 := rfl
@[simp] theorem signBit_true (f : FloatSpec) : f.signBit true = 2 ^ (f.eb + f.mb) := rfl

/-- The element keeps the bits below the sign and takes the sign given. -/
theorem signElem_of_ne_nan {f : FloatSpec} {a : Nat} (h : f.decode a ≠ .nan) (n : Bool) :
    signElem f a n = f.signBit n + a % 2 ^ (f.eb + f.mb) := by
  simp [signElem, FloatSpec.isNaN, h]

theorem signElem_of_nan {f : FloatSpec} {a : Nat} (h : f.decode a = .nan) (n : Bool) : signElem f a n = f.nanCode := by
  simp [signElem, FloatSpec.isNaN, h]

/-- The sign bit of a code, in its place. -/
theorem signBit_signOf (f : FloatSpec) {a : Nat} (ha : a < 2 ^ f.bits) :
    f.signBit (f.signOf a) = a / 2 ^ (f.eb + f.mb) * 2 ^ (f.eb + f.mb) := by
  rw [bits_eq, pow_succ] at ha
  have hsign := Nat.div_lt_of_lt_mul ha
  rw [FloatSpec.signBit, FloatSpec.signOf]
  generalize a / 2 ^ (f.eb + f.mb) = q at hsign ⊢
  interval_cases q <;> simp

/-- A code with its sign bit changed lies half the range of codes further, modulo that range. -/
theorem signBit_not_signOf_add (f : FloatSpec) {a : Nat} (ha : a < 2 ^ f.bits) :
    f.signBit (!f.signOf a) + a % 2 ^ (f.eb + f.mb) = (a + 2 ^ (f.eb + f.mb)) % (2 * 2 ^ (f.eb + f.mb)) := by
  have hcode := Nat.div_add_mod' a (2 ^ (f.eb + f.mb))
  have hmag := Nat.mod_lt a (Nat.two_pow_pos (f.eb + f.mb))
  rw [← signBit_signOf f ha] at hcode
  cases hs : f.signOf a with
  | false =>
    rw [hs, signBit_false, Nat.zero_add] at hcode
    rw [Bool.not_false, signBit_true, hcode, Nat.mod_eq_of_lt (by omega), Nat.add_comm]
  | true =>
    rw [hs, signBit_true] at hcode
    have around : (a + 2 ^ (f.eb + f.mb)) % (2 * 2 ^ (f.eb + f.mb)) = a - 2 ^ (f.eb + f.mb) := by
      rw [Nat.mod_eq_sub_mod (by omega), Nat.mod_eq_of_lt (by omega)]; omega
    rw [Bool.not_true, signBit_false, around]; omega

/-- FABS, FNEG and FCPYS change the sign bit of a number alone. -/
theorem signElem_signs (f : FloatSpec) {a b : Nat} (ha : a < 2 ^ f.bits) (hb : b < 2 ^ f.bits) (h : f.decode a ≠ .nan) :
    signElem f a false = a % 2 ^ (f.bits - 1) ∧ signElem f a (!f.signOf a) = (a + 2 ^ (f.bits - 1)) % (2 * 2 ^ (f.bits - 1)) ∧
      signElem f a (f.signOf b) = a % 2 ^ (f.bits - 1) + b / 2 ^ (f.bits - 1) * 2 ^ (f.bits - 1) := by
  simp only [bits_sub_one, signElem_of_ne_nan h]
  exact ⟨by simp, signBit_not_signOf_add f ha, by rw [signBit_signOf f hb, Nat.add_comm]⟩

/-- Each format of the arithmetic has a canonical NaN (R255). -/
theorem nanCode_of_width (w : FWidth) : some w.spec.nanCode = w.spec.nanMag := by
  cases w <;> rfl

/-! ## Scale codes (R258) -/

theorem e8m0_of_lt {e : Nat} (h : e < 255) : e8m0 e = .fin false 1 ((e : Int) - 127) :=
  if_neg (by omega)

theorem e8m0_nan : e8m0 255 = .nan := rfl

/-! ## The largest magnitude of a block -/

/-- The exact order of magnitudes is that of their values. -/
theorem magLt_iff (m : Nat) (e : Int) (n : Nat) (d : Int) : magLt m e n d = true ↔ (m : ℚ) * 2 ^ e < n * 2 ^ d := by
  have scale (c : Nat) {a : Int} (ha : min e d ≤ a) : (c : ℚ) * 2 ^ a = ((c * 2 ^ (a - min e d).toNat : Nat) : ℚ) * 2 ^ min e d := by
    push_cast
    rw [mul_assoc, ← zpow_natCast, Int.toNat_of_nonneg (by omega), ← zpow_add₀ two_ne_zero, Int.sub_add_cancel]
  rw [scale m (min_le_left e d), scale n (min_le_right e d), mul_lt_mul_iff_left₀ (by positivity), Nat.cast_lt]
  exact decide_eq_true_iff

theorem maxAbs_concat_nan (l : List Machine.Num) : maxAbs (l ++ [.nan]) = maxAbs l := by
  rw [maxAbs, List.foldl_append]; rfl

theorem maxAbs_concat_inf (l : List Machine.Num) (n : Bool) : maxAbs (l ++ [.inf n]) = maxAbs l := by
  rw [maxAbs, List.foldl_append]; rfl

theorem maxAbs_concat_fin (l : List Machine.Num) (n : Bool) (m : Nat) (e : Int) :
    maxAbs (l ++ [.fin n m e]) = if magLt (maxAbs l).1 (maxAbs l).2 m e then (m, e) else maxAbs l := by
  rw [maxAbs, List.foldl_append]; rfl

/-- The magnitude found is zero or that of an element. -/
theorem maxAbs_mem (l : List Machine.Num) : (maxAbs l).1 = 0 ∨ ∃ n, .fin n (maxAbs l).1 (maxAbs l).2 ∈ l := by
  induction l using List.reverseRecOn with
  | nil => exact .inl rfl
  | append_singleton l v ih =>
    have earlier : (maxAbs l).1 = 0 ∨ ∃ n, .fin n (maxAbs l).1 (maxAbs l).2 ∈ l ++ [v] :=
      ih.imp_right fun ⟨n, h⟩ => ⟨n, List.mem_append_left _ h⟩
    cases v with
    | nan => rwa [maxAbs_concat_nan]
    | inf n => rwa [maxAbs_concat_inf]
    | fin n m e =>
      rw [maxAbs_concat_fin]
      split
      · exact .inr ⟨n, by simp⟩
      · exact earlier

/-- No finite element is larger than the magnitude found. -/
theorem le_maxAbs (l : List Machine.Num) {n : Bool} {m : Nat} {e : Int} (h : .fin n m e ∈ l) :
    (m : ℚ) * 2 ^ e ≤ (maxAbs l).1 * 2 ^ (maxAbs l).2 := by
  induction l using List.reverseRecOn with
  | nil => cases h
  | append_singleton l v ih =>
    rw [List.mem_append, List.mem_singleton] at h
    cases v with
    | nan => rw [maxAbs_concat_nan]; exact ih (h.resolve_right nofun)
    | inf b => rw [maxAbs_concat_inf]; exact ih (h.resolve_right nofun)
    | fin b k d =>
      rw [maxAbs_concat_fin]
      split
      next hlt =>
        rw [magLt_iff] at hlt
        rcases h with h | h
        · exact (ih h).trans hlt.le
        · cases h; exact le_rfl
      next hge =>
        rw [magLt_iff, not_lt] at hge
        rcases h with h | h
        · exact ih h
        · cases h; exact hge

/-- A block of zeros has no magnitude. -/
theorem maxAbs_eq_zero (l : List Machine.Num) (h : ∀ n m e, .fin n m e ∈ l → m = 0) : (maxAbs l).1 = 0 :=
  (maxAbs_mem l).elim id fun ⟨n, hn⟩ => h n _ _ hn

/-- The binade of a magnitude is its `logFloor`. -/
theorem logFloor_eq {m : Nat} {e top : Int} (hlo : (2 : ℚ) ^ top ≤ m * 2 ^ e) (hhi : (m : ℚ) * 2 ^ e < 2 ^ (top + 1)) : logFloor m e = top := by
  have hm : m ≠ 0 := by
    rintro rfl
    exact absurd hlo (by simp only [Nat.cast_zero, zero_mul, not_le]; positivity)
  have hlog : (2 : ℚ) ^ (e + m.log2) ≤ m * 2 ^ e := by
    rw [add_comm, zpow_add₀ two_ne_zero, zpow_natCast]
    gcongr
    exact_mod_cast Nat.log2_self_le hm
  have hlog' : (m : ℚ) * 2 ^ e < 2 ^ (e + m.log2 + 1) := by
    rw [add_assoc, add_comm, zpow_add₀ two_ne_zero, ← Nat.cast_succ, zpow_natCast]
    gcongr
    exact_mod_cast Nat.lt_log2_self
  have h1 : top < e + m.log2 + 1 := (zpow_lt_zpow_iff_right₀ one_lt_two).mp (hlo.trans_lt hlog')
  have h2 : e + m.log2 < top + 1 := (zpow_lt_zpow_iff_right₀ one_lt_two).mp (hlog.trans_lt hhi)
  rw [logFloor, bitLen, if_neg hm]
  push_cast
  omega

/-- The largest magnitude lies in the binade `top` where an element reaches it and none leaves it. -/
theorem logFloor_maxAbs {l : List Machine.Num} {top : Int} (hlo : ∃ n, ∃ m : Nat, ∃ e, .fin n m e ∈ l ∧ (2 : ℚ) ^ top ≤ m * 2 ^ e)
    (hhi : ∀ n, ∀ m : Nat, ∀ e, .fin n m e ∈ l → (m : ℚ) * 2 ^ e < 2 ^ (top + 1)) :
    (maxAbs l).1 ≠ 0 ∧ logFloor (maxAbs l).1 (maxAbs l).2 = top := by
  obtain ⟨n, m, e, hmem, hle⟩ := hlo
  have hmax : (2 : ℚ) ^ top ≤ (maxAbs l).1 * 2 ^ (maxAbs l).2 := hle.trans (le_maxAbs l hmem)
  have hne : (maxAbs l).1 ≠ 0 := fun h0 => by
    rw [h0, Nat.cast_zero, zero_mul] at hmax
    exact absurd hmax (not_le.mpr (by positivity))
  obtain ⟨k, hk⟩ := (maxAbs_mem l).resolve_left hne
  exact ⟨hne, logFloor_eq hmax (hhi k _ _ hk)⟩

/-! ## The codes of a block (R345) -/

theorem clamp_eq_max_min {lo hi : Int} (h : lo ≤ hi) (v : Int) : clamp lo hi v = max lo (min hi v) := by
  unfold clamp; split_ifs <;> omega

section Block

variable {dst : FloatSpec} {emax : Int} {flush : Bool} {x : List (Machine.Num × Bool)}

/-- A block with a NaN. -/
theorem blockCodes_of_nan (h : ∃ p ∈ x, p.1 = .nan) :
    (blockCodes dst emax flush x).code = 0xFF ∧ ∀ q ∈ (blockCodes dst emax flush x).q, q.code = 0 := by
  have hany : (x.any fun p => p.1 == .nan) = true := by simpa using h
  simp [blockCodes, hany]

theorem any_nan_eq_false (h : ∀ p ∈ x, p.1 ≠ .nan) : (x.any fun p => p.1 == .nan) = false := by
  simpa using h

/-- The scale code of a block without NaN. -/
theorem blockCodes_code (h : ∀ p ∈ x, p.1 ≠ .nan) :
    (blockCodes dst emax flush x).code =
      if (maxAbs (x.map (·.1))).1 = 0 then 127
      else (clamp 0 254 (logFloor (maxAbs (x.map (·.1))).1 (maxAbs (x.map (·.1))).2 - emax + 127)).toNat := by
  simp [blockCodes, any_nan_eq_false h]

/-- The elements of a block without NaN, each over the scale, rounded, and a zero made +0. -/
theorem blockCodes_q (h : ∀ p ∈ x, p.1 ≠ .nan) :
    (blockCodes dst emax flush x).q = x.map fun p =>
      let c := dst.conv .rne flush (p.1.mul (.fin false 1 (127 - ((blockCodes dst emax flush x).code : Int))))
      if c.code % 2 ^ (dst.bits - 1) = 0 then { c with code := 0 } else c := by
  rw [blockCodes_code h]
  simp [blockCodes, any_nan_eq_false h]

/-- A block of zeros has the scale 1. -/
theorem blockCodes_code_of_zeros (h : ∀ p ∈ x, p.1 ≠ .nan) (hz : ∀ p ∈ x, ∀ n m e, p.1 = .fin n m e → m = 0) :
    (blockCodes dst emax flush x).code = 127 := by
  rw [blockCodes_code h, if_pos (maxAbs_eq_zero _ fun n m e hv => ?_)]
  obtain ⟨p, hp, he⟩ := List.mem_map.mp hv
  exact hz p hp n m e he

/-- The scale code of a block whose largest magnitude lies in the binade `top`. -/
theorem blockCodes_code_of_top (h : ∀ p ∈ x, p.1 ≠ .nan) {top : Int}
    (hlo : ∃ p ∈ x, ∃ n m e, p.1 = .fin n m e ∧ (2 : ℚ) ^ top ≤ m * 2 ^ e)
    (hhi : ∀ p ∈ x, ∀ n m e, p.1 = .fin n m e → (m : ℚ) * 2 ^ e < 2 ^ (top + 1)) :
    ((blockCodes dst emax flush x).code : Int) = max 0 (min 254 (top - emax + 127)) := by
  have reached : ∃ n, ∃ m : Nat, ∃ e, .fin n m e ∈ x.map (·.1) ∧ (2 : ℚ) ^ top ≤ m * 2 ^ e := by
    obtain ⟨p, hp, n, m, e, hv, hle⟩ := hlo
    exact ⟨n, m, e, List.mem_map.mpr ⟨p, hp, hv⟩, hle⟩
  have bounded : ∀ n, ∀ m : Nat, ∀ e, .fin n m e ∈ x.map (·.1) → (m : ℚ) * 2 ^ e < 2 ^ (top + 1) := fun n m e hv => by
    obtain ⟨p, hp, he⟩ := List.mem_map.mp hv
    exact hhi p hp n m e he
  obtain ⟨hne, htop⟩ := logFloor_maxAbs reached bounded
  rw [blockCodes_code h, if_neg hne, htop, clamp_eq_max_min (by decide), Int.toNat_of_nonneg (le_max_left ..)]

end Block

/-- Settles O20: the signs of a code by its sign bit and the bits below, and the scale of a block by the binade of its largest magnitude. -/
theorem signsAndBlockScales : Obligations.SignsAndBlockScales := by
  unfold Obligations.SignsAndBlockScales
  refine ⟨⟨?fabs, ?fneg, ?fcpys, ?signs, ?scales⟩, fun dst emax flush x => ⟨blockCodes_of_nan, fun h => ⟨?length, ?zeros, ?top, ?elements⟩⟩⟩
  case fabs => exact fun pd w t1 t0 => computes_of_fltWord (fun f a _ _ => signElem f a false) fun _ => rfl
  case fneg => exact fun pd w t1 t0 => computes_of_fltWord (fun f a _ _ => signElem f a (!f.signOf a)) fun _ => rfl
  case fcpys => exact fun pd w t1 t0 => computes_of_fltWord (fun f a b _ => signElem f a (f.signOf b)) fun _ => rfl
  case signs =>
    refine fun w a b ha hb => ⟨signElem_signs w.spec ha hb, fun h n => ?_⟩
    rw [signElem_of_nan h, nanCode_of_width]
  case scales => exact ⟨fun e he => e8m0_of_lt he, e8m0_nan⟩
  case length => rw [blockCodes_q h, List.length_map]
  case zeros => exact blockCodes_code_of_zeros h
  case top => exact fun top => blockCodes_code_of_top h
  case elements =>
    intro k p hk
    rw [blockCodes_q h, List.getElem?_map, hk]
    rfl

end Sys2Proof.Proofs
end

section
/-!
PROOFS. The words that pass a value on, and the constants (R307 to R313, R316).
-/

namespace Sys2Proof.Proofs

open Sys2Proof.Machine Sys2Proof.Claims

section Fired
variable {i : Instr} {s : State} {o : Opers} {v : Val}

/-- A word that fires has its effect. -/
theorem whenReady_go (act : Opers → State → State) (hf : Fires i s o) : whenReady i s act = .next (act o s) := by
  simp only [whenReady, show s.ready i = .go o from hf]

/-- A word whose meaning is a value delivers that value. -/
theorem delivers_of_fireValue {f : Opers → Except Cause Val} (hexec : exec i s = fireValue i s f) (hf : Fires i s o) (hv : f o = .ok v) :
    Delivers i s v := by
  rw [Delivers, Does, hexec, fireValue_go s i f hf, hv]

/-- A word that passes an operand on delivers it. -/
theorem delivers_of_passWord {pick : Opers → Option Val} (hexec : exec i s = passWord i pick s) (hf : Fires i s o) (hv : pick o = some v) :
    Delivers i s v :=
  delivers_of_fireValue hexec hf (by rw [hv])

end Fired

/-- SINK consumes its operand and delivers nothing (R313). -/
theorem sink_does {s : State} {pd : Pred} {o : Opers} (hf : Fires (.sink pd) s o) : Does (.sink pd) s (s.consume (.sink pd)) :=
  whenReady_go (fun _ s => s.consume (.sink pd)) hf

/-! ## Choosing by P (R308 to R310) -/

/-- MERGE picks L under a true predicate and R under a false one. -/
theorem exec_merge (s : State) (t1 t0 : Target) :
    exec (.merge t1 t0) s = passWord (.merge t1 t0) (fun o => if o.p then o.l else o.r) s := rfl

/-- CARRY picks R under a true predicate and L under a false one. -/
theorem exec_carry (s : State) (t1 t0 : Target) :
    exec (.carry t1 t0) s = passWord (.carry t1 t0) (fun o => if o.p then o.r else o.l) s := rfl

/-- STEER delivers L to the one target that P chooses. -/
theorem steer_does {s : State} {t1 t0 : Target} {o : Opers} {v : Val} (hf : Fires (.steer t1 t0) s o) (hl : o.l = some v) :
    Does (.steer t1 t0) s ((s.consume (.steer t1 t0)).deliverTo s.focus (if o.p then t0 else t1) v) := by
  change execSteer t1 t0 s = _
  rw [execSteer, whenReady_go _ hf, hl]

/-! ## INVAR's copy (R311) -/

/-- On the sequencer INVAR picks L. -/
theorem exec_invar_seq {s : State} {r : RingId} (hs : s.focus = .seq r) (t1 t0 : Target) :
    exec (.invar t1 t0) s = passWord (.invar t1 t0) (·.l) s := by
  change execInvar t1 t0 s = _
  rw [execInvar, hs]
  rfl

/-- In a cell INVAR picks a copy of L with P's punctuation. -/
theorem exec_invar_cell {s : State} {r : RingId} {p : StripeId} {j : ColId} (hs : s.focus = .cell r p j) (t1 t0 : Target) :
    exec (.invar t1 t0) s = passWord (.invar t1 t0) invarCopy s := by
  change execInvar t1 t0 s = _
  rw [execInvar, hs]
  rfl

theorem invarCopy_tok {o : Opers} {x : Tok} (hl : o.l = some (.tok x)) : invarCopy o = some (.tok { x with punct := o.pp }) := by
  rw [invarCopy, hl, Option.map_some]

/-! ## Constants (R316) -/

/-- Every lane of a splat token holds its value. -/
theorem splat_lane (x : W32) (p : BitVec 3) {k : Nat} (hk : k < 16) : (Tok.splat x p).lane k = x :=
  lanesOf_extract _ hk

/-- Extending the sign in two steps is extending it in one. -/
theorem signExtend_signExtend_of_le {n m k : Nat} (x : BitVec n) (hnm : n ≤ m) (hmk : m ≤ k) :
    (x.signExtend m).signExtend k = x.signExtend k := by
  apply BitVec.eq_of_toInt_eq
  rw [BitVec.toInt_signExtend_of_le hmk, BitVec.toInt_signExtend_of_le hnm, BitVec.toInt_signExtend_of_le (hnm.trans hmk)]

section Constants
variable {s : State} {o : Opers} {t0 : Target}

/-- CONST delivers its immediate as a constant of the block's kind. -/
theorem const_delivers {imm : BitVec 13} (hf : Fires (.const imm t0) s o) :
    Delivers (.const imm t0) s (constant s.focus.kind (imm.signExtend 32)) :=
  delivers_of_fireValue (f := fun _ => .ok _) rfl hf rfl

/-- LIT delivers the word of the pool that its index names as a constant of the block's kind. -/
theorem lit_delivers {n : BitVec 13} {v : View} {w : W32} (hf : Fires (.lit n t0) s o) (hview : s.view s.focus = some v)
    (hw : v.pool[n.toNat]? = some w) : Delivers (.lit n t0) s (constant s.focus.kind w) :=
  delivers_of_fireValue rfl hf (by rw [hview, Option.bind_some, hw])

end Constants

/-- A word that delivers a constant in a cell delivers an untagged token, valid and with the value in every lane. -/
theorem delivers_token_of_constant {i : Instr} {s : State} {r : RingId} {p : StripeId} {j : ColId} {x : W32} (hs : s.focus = .cell r p j)
    (h : Delivers i s (constant s.focus.kind x)) :
    ∃ t : Tok, Delivers i s (.tok t) ∧ (∀ k < 16, t.lane k = x) ∧ t.valid = 0xFFFF ∧ t.punct = 0 ∧ t.tag = none := by
  rw [hs] at h
  exact ⟨Tok.splat x 0, h, fun _ => splat_lane x 0, rfl, rfl, rfl⟩

/-- A word that delivers a constant on the sequencer delivers the value sign-extended. -/
theorem delivers_scalar_of_constant {i : Instr} {s : State} {r : RingId} {x : W32} (hs : s.focus = .seq r)
    (h : Delivers i s (constant s.focus.kind x)) : Delivers i s (.sc (x.signExtend 64)) := by
  rwa [hs] at h

/-- Settles O13: the words that pass a value on deliver the operand that they pick, and CONST and LIT a constant of the block's kind. -/
theorem passedValues : Obligations.PassedValues := by
  unfold Obligations.PassedValues
  refine ⟨⟨?mov, ?gate, ?merge, ?carry, ?invarSeq, ?invarCell, ?sink⟩, fun _ _ _ _ _ => steer_does, ?constSeq, ?constCell, ?litSeq, ?litCell⟩
  case mov => exact fun _ _ _ _ _ _ => delivers_of_passWord rfl
  case gate => exact fun _ _ _ _ _ _ => delivers_of_passWord rfl
  case merge => exact fun _ _ _ _ _ => delivers_of_passWord (exec_merge ..)
  case carry => exact fun _ _ _ _ _ => delivers_of_passWord (exec_carry ..)
  case invarSeq => exact fun _ _ _ _ _ _ hs => delivers_of_passWord (exec_invar_seq hs ..)
  case invarCell => exact fun _ _ _ _ _ _ _ _ hs hf hl => delivers_of_passWord (exec_invar_cell hs ..) hf (invarCopy_tok hl)
  case sink => exact fun _ _ _ => sink_does
  case constSeq =>
    intro s r imm t0 o hs hf
    have h := delivers_scalar_of_constant hs (const_delivers hf)
    rwa [signExtend_signExtend_of_le imm (by decide) (by decide)] at h
  case constCell => exact fun _ _ _ _ _ _ _ hs hf => delivers_token_of_constant hs (const_delivers hf)
  case litSeq => exact fun _ _ _ _ _ _ _ hs hf hview hw => delivers_scalar_of_constant hs (lit_delivers hf hview hw)
  case litCell => exact fun _ _ _ _ _ _ _ _ _ hs hf hview hw => delivers_token_of_constant hs (lit_delivers hf hview hw)

end Sys2Proof.Proofs
end
